-- ==== Sys2Proof/Word.lean ====
section
/-! DEFINITION. The word types of the package: bytes and 32-bit register words (00_scope.md R4). -/

namespace Sys2Proof

/-- One byte. -/
abbrev Byte := BitVec 8

/-- One register word (R4: registers are 32 bits wide). -/
abbrev W32 := BitVec 32

/-- A local address, 48 bits wide (11_stacks_and_tiles.md R249). -/
abbrev Addr48 := BitVec 48

end Sys2Proof
end

