-- ==== Sys2Proof/Syntax.lean ====
section
/-! DEFINITION. The commands of the block, one constructor per row of spec/opcode_table.json, with their operands. -/

namespace Sys2Proof

/-- The header of an Ablos instruction and who issues it (09_ablos_encoding.md Table 9.1): the region, whether its bench
task or its main program issues, sync, signal and the wait mask (bit n − 1 for token n). -/
structure Hdr where
  region : BitVec 5
  task : Bool
  sync : Bool
  signal : BitVec 3
  wait : BitVec 7
  deriving DecidableEq, Repr

/-- An address operand: address register and signed displacement (R204). -/
structure AddrOp where
  areg : BitVec 4
  disp : BitVec 32
  deriving DecidableEq, Repr

/-- Word 0 of a host command and the session that sends it (14_host_port.md R344). -/
structure HostHdr where
  session : BitVec 7
  quiet : Bool
  courtCtx : Bool
  court : BitVec 4
  tag : BitVec 16
  deriving DecidableEq, Repr

/-- A tile as a message carries it: payload and the two trailer words, and whether this is the copy resent after a first
failed check (13_fabric_and_collectives.md R316). -/
structure WireTile where
  data : List Byte
  check : BitVec 32
  word1 : BitVec 32
  resent : Bool
  deriving DecidableEq, Repr

/-- A source address of a datagram: IPv6, or IPv4 in the low 32 bits. -/
structure NetAddr where
  v6 : Bool
  addr : BitVec 128
  deriving DecidableEq, Repr

/-- The path of a register access (02_register_pages.md Table 2.11): H with its session and context, the service port
with the requester's address, the sideband, the management core, or the debug TAP with the service port's permissions. -/
inductive RegPath where
  | host (session : BitVec 7) (court : Option (BitVec 4))
  | sp (src : NetAddr)
  | sideband
  | mc
  | tap
  deriving DecidableEq, Repr

/-- A register access as a message makes it: its path and tag, and the management core's µs timer when it arrives, which
times a solver deadline from the acceptance of its job (15_solver_engine.md R376). -/
structure RegHdr where
  path : RegPath
  tag : BitVec 16
  time : BitVec 64
  deriving DecidableEq, Repr

/-- A register request (13_fabric_and_collectives.md Table 13.4): burst is burst_m1. -/
structure RegReq where
  write : Bool
  off : BitVec 24
  burst : BitVec 4
  data : List (BitVec 32)
  deriving DecidableEq, Repr

/-- The fields of a matrix instruction (Table 9.5). -/
structure MatrixOp where
  start : Bool
  drain : Bool
  swap : Bool
  tap : Bool
  tapIndex : BitVec 3
  opens : Bool
  closes : Bool
  depth : BitVec 4
  tile : BitVec 5
  lenM1 : BitVec 6
  wfmt : BitVec 4
  afmt : BitVec 4
  srcPb : Bool
  src : AddrOp
  scaleAreg : BitVec 4
  rowBase : BitVec 31
  deriving DecidableEq, Repr

/-- The common fields of a vector instruction (Table 9.9). -/
structure VecOp where
  vd : BitVec 5
  va : BitVec 5
  vb : BitVec 5
  vc : BitVec 5
  mask : BitVec 3
  zmode : Bool
  rnd : BitVec 2
  sat : Bool
  deriving DecidableEq, Repr

/-- The fields of a tile read (Table 9.10): first row r, unit pairing, unit u, block b, and the offset d where explicit. -/
structure TileReadOp where
  r : BitVec 12
  unitPair : Bool
  u : BitVec 2
  b : BitVec 3
  offExplicit : Bool
  offset : BitVec 6
  deriving DecidableEq, Repr

/-- The fields of a vector load or store (Table 9.10). -/
structure VecMem where
  cs : BitVec 21
  fmt : BitVec 4
  strideM1 : BitVec 4
  scaleCs : BitVec 21
  deriving DecidableEq, Repr

/-- The fields of a preload (Table 9.6). -/
structure PreloadOp where
  tile : BitVec 5
  wlog2 : BitVec 2
  units : BitVec 4
  offExplicit : Bool
  offset : BitVec 6
  opens : Bool
  depth : BitVec 4
  posBase : BitVec 12
  rowsM1 : BitVec 12
  srcFmt : BitVec 4
  src : AddrOp
  deriving DecidableEq, Repr

/-- Rows of a closed result: unit mask, the offset d where explicit, first row and count (Tables 9.7, 9.8, 9.12). -/
structure RowsOp where
  units : BitVec 4
  offExplicit : Bool
  offset : BitVec 6
  r0 : BitVec 12
  countM1 : BitVec 12
  deriving DecidableEq, Repr

/-- The fields of an egress beside its rows (Table 9.7). -/
structure EgressOp where
  dstPb : Bool
  tfmt : BitVec 4
  rnd : BitVec 2
  sat : Bool
  fop : BitVec 2
  fshape : BitVec 2
  ffmt : BitVec 4
  fcs : BitVec 15
  dst : AddrOp
  deriving DecidableEq, Repr

/-- The fields of a root fetch beside its address (Table 9.12). -/
structure RootFetchOp where
  cs : BitVec 21
  offset : BitVec 20
  sizeM1 : BitVec 15
  cluster : BitVec 4
  deriving DecidableEq, Repr

/-- The fields of a weight load beside its address (Table 9.12). -/
structure WeightLoadOp where
  wfmt : BitVec 4
  mask : BitVec 16
  stride : BitVec 8
  roundAware : Bool
  version : BitVec 2
  lag : BitVec 8
  narrow : Bool
  deriving DecidableEq, Repr

/-- The fields of a fetch or store beside its address (Table 9.12). -/
structure FetchOp where
  cs : BitVec 21
  sizeM1 : BitVec 15
  mask : BitVec 16
  clusterStride : BitVec 12
  fmt : BitVec 4
  deriving DecidableEq, Repr

/-- The fields of a send or receive (Table 9.12); `mem` is kind 1, memory. -/
structure PbMoveOp where
  pb : BitVec 8
  mem : Bool
  entriesM1 : BitVec 16
  cs : BitVec 21
  addr : AddrOp
  cluster : BitVec 4
  deriving DecidableEq, Repr

/-- The header of a Chesy message as it arrives at a port (13_fabric_and_collectives.md Table 13.2): port (0 to 17 for E00 to E17, 18 for H,
19 for SP), court, endpoints, flow, sequence, acknowledgements, marks, whether its version and crc pass and its length fits its type, and the
congestion mark of its datagram. -/
structure WireHdr where
  port : BitVec 5
  court : BitVec 4
  src : BitVec 16
  dst : BitVec 16
  flow : BitVec 32
  seq : BitVec 32
  ack : BitVec 32
  sack : BitVec 32
  ece : Bool
  resendSrc : Bool
  credit : BitVec 16
  intact : Bool
  ce : Bool
  deriving DecidableEq, Repr

/-- A huddle message (Table 13.6); kind 0 arrive, 1 complete, 2 fail. -/
structure HuddleMsg where
  kind : BitVec 2
  group : BitVec 16
  number : BitVec 48
  step : BitVec 48
  cause : BitVec 4
  arrivals : BitVec 32
  deriving DecidableEq, Repr

/-- Collective data or statistics of a rank for a step: tiles from a bucket tile on, or the two norms (R328, R331). -/
structure CollMsg where
  stats : Bool
  step : BitVec 48
  rank : BitVec 16
  tile : BitVec 17
  tiles : List WireTile
  u : BitVec 32
  w : BitVec 32
  deriving DecidableEq, Repr

/-- A Caddie transfer for a stack (R296, R300, R301): kind 0 parity delta, 1 owner high halves, 2 rebuild request of a
lost member or, with chunk 7, of one tile, 3 a survivor's chunk for another survivor, 4 a rebuilt chunk, 5 a survivor's own
chunk for the replacement's parity, 6 a member's whole stream in place of its delta, 7 a replica's tile. `index` is page ×
65536 + tile for kinds 1 and 7 and a tile of the chunk otherwise; `chunk` the chunk; `last` ends what its sender has for the
step. -/
structure CaddieMsg where
  kind : BitVec 3
  stack : BitVec 5
  member : BitVec 3
  chunk : BitVec 3
  index : BitVec 32
  step : BitVec 48
  last : Bool
  tiles : List WireTile
  deriving DecidableEq, Repr

/-- Relay tiles with the device address of the first one's destination (R333). -/
structure RelayMsg where
  dst : BitVec 48
  tiles : List WireTile
  deriving DecidableEq, Repr

/-- A data message of the fabric (Table 13.3, types 0x30 to 0x60). -/
inductive ChesyMsg where
  | entry (data : List Byte) (crc : BitVec 32) (resent : Bool)
  | huddle (m : HuddleMsg)
  | coll (m : CollMsg)
  | caddie (m : CaddieMsg)
  | relay (m : RelayMsg)
  deriving DecidableEq, Repr

/-- A reduced gradient part as the collective engine delivers it to a Caddie (12_caddie.md R285). -/
structure GradPart where
  stack : BitVec 5
  page : BitVec 12
  part : BitVec 4
  step : BitVec 48
  court : BitVec 4
  data : List Byte
  poison : Bool
  deriving DecidableEq, Repr

/-- A tile that differs between replicas with each replica's value (R298). -/
structure DigestDiff where
  tile : BitVec 48
  copies : List (BitVec 16 × List Byte)
  deriving DecidableEq, Repr

/-- An engine with an array of rows of its own (16_fault_containment.md R387). -/
inductive EngineUnit where
  | root (region : BitVec 5)
  | caddie (stack : BitVec 5)
  | solver
  deriving DecidableEq, Repr

/-- What a strike is charged to: a unit or cluster of a region by its index in UMP_STRIKE_SEL (R389), or an engine's row
(R387). -/
inductive StrikeSite where
  | umpire (region : BitVec 5) (index : BitVec 7)
  | engineRow (engine : EngineUnit) (row : BitVec 6)
  deriving DecidableEq, Repr

/-- What a sampled mismatch captures beside what the device knows of its unit (Table 16.2). -/
structure VoteCapture where
  feed : List Byte
  step : BitVec 48
  column : BitVec 16
  row : BitVec 8
  original : BitVec 40
  winning : BitVec 40
  differing : BitVec 16
  deriving DecidableEq, Repr

/-- An operation put to a vote (R388, R391): its path (0 TU, 1 egress, 2 VE, 3 tap), origin, unit, tile and instruction,
whether it was sampled, how the runs compare (whether the rerun equals the original, the two residue checks, and whether
the third run equals the rerun, 1, the original, 2, or neither), and a sampled mismatch's capture. -/
structure VoteOp where
  region : BitVec 5
  path : BitVec 2
  origin : BitVec 5
  unit : BitVec 2
  tile : BitVec 5
  addr : W32
  sampled : Bool
  same : Bool
  ok0 : Bool
  ok1 : Bool
  third : BitVec 2
  capture : VoteCapture
  deriving DecidableEq, Repr

/-- A disagreement: one that the region's Umpire settles, or one of an engine's own array, whose row loses (R387). -/
inductive Vote where
  | umpire (o : VoteOp)
  | engine (e : EngineUnit) (row : BitVec 6)
  deriving DecidableEq, Repr

/-- A fault that the start tests or trainings find (19_firmware_and_trust.md R453, Table 19.5 step 10): rows of a unit,
a unit, a cluster, an engine row, a block of a region, a channel (16 the spare), a whole stack, a lane of port q. -/
inductive StartFault where
  | unitRows (region : BitVec 5) (index : BitVec 7) (rows : List (BitVec 6))
  | unit (region : BitVec 5) (index : BitVec 7)
  | cluster (region : BitVec 5) (cluster : BitVec 5)
  | engineRow (engine : EngineUnit) (row : BitVec 6)
  | region (region : BitVec 5)
  | channel (stack : BitVec 5) (deep : Bool) (channel : BitVec 5)
  | stack (stack : BitVec 5)
  | lane (q : BitVec 5) (lane : BitVec 3)
  deriving DecidableEq, Repr

/-- What steps 8 to 10 of a start find: whether a copy of the repair map is valid, the hub links trained, the ports that
train (bit 0 H, bit 1 + p Ep), the faults. -/
structure StartTests where
  repairOk : Bool
  hub : BitVec 4
  ports : BitVec 19
  faults : List StartFault
  deriving DecidableEq, Repr

/-- What a start finds on the board (19_firmware_and_trust.md Table 19.5): the SB_ADDR strap, whether the flash meets R443,
whether a copy of the settings blob is valid (R445), the sectors a pending copy programs before
HOLDUP_OK is found deasserted, the sector of it that fails twice (R458), and the results of steps 8 to 10 where power-good
stands. -/
structure StartInput where
  strap : BitVec 3
  flashOk : Bool
  settingsOk : Bool
  sectors : BitVec 10
  badSector : Option (BitVec 10)
  tests : StartTests
  deriving DecidableEq, Repr

/-- An instruction of the TAP (20_package_and_pins.md R485, R486). -/
inductive TapInstr where
  | bypass | idcode | sample | extest | extestPulse | extestTrain | clamp | highz | dbgreg
  deriving DecidableEq, Repr

/-- The commands of the block, one constructor per row of the opcode table, in the table's order. A program's instruction
carries its header and decoded fields; a message its header and payload; an event of an engine or a pin what it reports. -/
inductive Instr where
  /-- R207. Control instruction that has no effect. -/
  | nop (h : Hdr)
  /-- R207. Loads address register A[reg] with the 48-bit immediate. -/
  | setA (h : Hdr) (reg : BitVec 4) (imm : BitVec 48)
  /-- R207. Adds the sign-extended immediate to A[reg], modulo 2^48. -/
  | addA (h : Hdr) (reg : BitVec 4) (imm : BitVec 32)
  /-- R207. Loads loop counter L[reg] with the 32-bit immediate. -/
  | setCount (h : Hdr) (reg : BitVec 4) (imm : BitVec 32)
  /-- R208. Decrements L[n] and branches to the target while the counter is non-zero. -/
  | loop (h : Hdr) (reg : BitVec 4) (target : BitVec 32)
  /-- R207. Makes the target address the next instruction. -/
  | jump (h : Hdr) (target : BitVec 32)
  /-- R208. Issues a wait that blocks later instructions until the court holds a step number above the step register. -/
  | waitStep (h : Hdr)
  /-- R350. A pending wait_step completes once the held step number exceeds the step register, and the number then held is loaded. -/
  | waitStepComplete (region : BitVec 5)
  /-- R207. The region issues nothing further. -/
  | halt (h : Hdr)
  /-- R214. Ends the running bench task. -/
  | taskEnd (h : Hdr)
  /-- R216. An illegal word reaches issue: earlier instructions complete, the region holds, and the reason is recorded on the RG page. -/
  | illegalInstruction (region : BitVec 5) (task : Bool) (word : BitVec 128)
  /-- R209. A matrix instruction starts, continues or drains a stream over its rows, with group flags and an optional bank swap. -/
  | matrix (h : Hdr) (m : MatrixOp)
  /-- R100. One region step runs at every participating cluster after the previous step completed: the feed word is broadcast, the sums are written and the chain hop advances. -/
  | regionStep (region : BitVec 5)
  /-- R121. After the close instruction's last region step, each row of the group is folded into the result tiles. -/
  | groupCloseFold (region : BitVec 5) (tile : BitVec 5)
  /-- R123. Preloads accumulator tiles from memory stripes at the skewed positions, opening a group or adding a chunk. -/
  | preload (h : Hdr) (o : PreloadOp)
  /-- R125. Adds a join operand from a pass buffer into a closed result, comparing marks. -/
  | accjoin (h : Hdr) (o : RowsOp) (pb : BitVec 8)
  /-- R131. Reads a closed result as logical rows under the tile check, optionally fuses one operation, and rounds once to the target format. -/
  | egress (h : Hdr) (o : RowsOp) (e : EgressOp)
  /-- R140. Vector lane addition. -/
  | veAdd (h : Hdr) (o : VecOp)
  /-- R140. Vector lane subtraction. -/
  | veSub (h : Hdr) (o : VecOp)
  /-- R140. Vector lane multiplication. -/
  | veMul (h : Hdr) (o : VecOp)
  /-- R141. Vector lane minimum. -/
  | veMin (h : Hdr) (o : VecOp)
  /-- R141. Vector lane maximum. -/
  | veMax (h : Hdr) (o : VecOp)
  /-- R140. Vector fused multiply-add with one rounding. -/
  | veFma (h : Hdr) (o : VecOp)
  /-- R140. Flips the sign bit of each active lane. -/
  | veNeg (h : Hdr) (o : VecOp)
  /-- R140. Clears the sign bit of each active lane. -/
  | veAbs (h : Hdr) (o : VecOp)
  /-- R140. Copies the operand bits of each active lane. -/
  | veCopy (h : Hdr) (o : VecOp)
  /-- R140. Correctly rounded lane division. -/
  | veDiv (h : Hdr) (o : VecOp)
  /-- R141. Correctly rounded lane square root. -/
  | veSqrt (h : Hdr) (o : VecOp)
  /-- R141. Correctly rounded lane reciprocal square root. -/
  | veRsqrt (h : Hdr) (o : VecOp)
  /-- R140. Correctly rounded lane exp2. -/
  | veExp2 (h : Hdr) (o : VecOp)
  /-- R141. Correctly rounded lane log2. -/
  | veLog2 (h : Hdr) (o : VecOp)
  /-- R141. Lane equality compare written to a mask register. -/
  | veCompareEq (h : Hdr) (o : VecOp) (md : BitVec 3)
  /-- R141. Lane inequality compare written to a mask register. -/
  | veCompareNe (h : Hdr) (o : VecOp) (md : BitVec 3)
  /-- R141. Lane less-than compare written to a mask register. -/
  | veCompareLt (h : Hdr) (o : VecOp) (md : BitVec 3)
  /-- R141. Lane less-or-equal compare written to a mask register. -/
  | veCompareLe (h : Hdr) (o : VecOp) (md : BitVec 3)
  /-- R141. Lane greater-than compare written to a mask register. -/
  | veCompareGt (h : Hdr) (o : VecOp) (md : BitVec 3)
  /-- R141. Lane greater-or-equal compare written to a mask register. -/
  | veCompareGe (h : Hdr) (o : VecOp) (md : BitVec 3)
  /-- R211. AND of two mask registers. -/
  | maskAnd (h : Hdr) (o : VecOp) (md : BitVec 3) (ma : BitVec 3) (mb : BitVec 3)
  /-- R211. OR of two mask registers. -/
  | maskOr (h : Hdr) (o : VecOp) (md : BitVec 3) (ma : BitVec 3) (mb : BitVec 3)
  /-- R211. XOR of two mask registers. -/
  | maskXor (h : Hdr) (o : VecOp) (md : BitVec 3) (ma : BitVec 3) (mb : BitVec 3)
  /-- R211. NOT of a mask register. -/
  | maskNot (h : Hdr) (o : VecOp) (md : BitVec 3) (ma : BitVec 3) (mb : BitVec 3)
  /-- R81. Rounds each lane to the target format and writes the result back widened to FP32. -/
  | convert (h : Hdr) (o : VecOp) (tfmt : BitVec 4)
  /-- R142. Reads two logical rows of a closed result into one vector register under the tile check. -/
  | tileRead (h : Hdr) (o : VecOp) (t : TileReadOp)
  /-- R143. Loads lane elements from the cluster store with stride, format check and conversion. -/
  | veLoad (h : Hdr) (o : VecOp) (m : VecMem)
  /-- R143. Stores converted lane elements to the cluster store and sets the line format codes. -/
  | veStore (h : Hdr) (o : VecOp) (m : VecMem)
  /-- R146. Sum across lanes in segments by the fixed tree. -/
  | reduceSum (h : Hdr) (o : VecOp) (k : BitVec 3)
  /-- R146. Maximum across lanes in segments by the fixed tree. -/
  | reduceMax (h : Hdr) (o : VecOp) (k : BitVec 3)
  /-- R146. Minimum across lanes in segments by the fixed tree. -/
  | reduceMin (h : Hdr) (o : VecOp) (k : BitVec 3)
  /-- R150. Writes one raw 32-bit generator draw per active lane. -/
  | randomRaw (h : Hdr) (o : VecOp)
  /-- R150. Writes a uniform FP32 value from one draw per active lane. -/
  | randomUniform (h : Hdr) (o : VecOp)
  /-- R150. Keeps or drops each active lane by a draw against the threshold, scaling kept lanes and writing the keep mask. -/
  | dropout (h : Hdr) (o : VecOp) (t : W32) (scale : W32) (mk : BitVec 3)
  /-- R151. Reseeds all 128 lane generators from a 64-bit seed. -/
  | seed (h : Hdr) (o : VecOp) (seed : BitVec 64)
  /-- R211. Writes an FP32 bit pattern to every active lane. -/
  | broadcast (h : Hdr) (o : VecOp) (value : W32)
  /-- R158. Arms a tap index with a tap layer descriptor read by every participating cluster. -/
  | tapArm (h : Hdr) (tap : BitVec 3) (a : AddrOp)
  /-- R158. Closes an armed tap index. -/
  | tapClose (h : Hdr) (tap : BitVec 3)
  /-- R169. After a close and once every captured row is formed or discarded, each holding cluster drains its tiles to the record pair. -/
  | tapDrain (region : BitVec 5) (tap : BitVec 3)
  /-- R176. Reads and checks a root request descriptor, updates the slot control tile and queues the request. -/
  | rootRequest (h : Hdr) (a : AddrOp)
  /-- R178. The root engine starts its next accepted request once the previous one has finished, and computes and commits the damped inverse root. -/
  | rootRun (region : BitVec 5)
  /-- R191. A consumer's wait under select exact reaches wait_limit; root-wait-expired is recorded and the consumer continues. -/
  | rootWaitExpiry (atCaddie : Bool) (index : BitVec 5)
  /-- R213. Loads weight blocks and their scales into the shadow banks, plain or from the version ring. -/
  | weightLoad (h : Hdr) (a : AddrOp) (o : WeightLoadOp)
  /-- R213. Moves bytes from memory into each named cluster store. -/
  | fetch (h : Hdr) (a : AddrOp) (o : FetchOp)
  /-- R213. Moves bytes from cluster stores to memory, writing trailers. -/
  | moveStore (h : Hdr) (a : AddrOp) (o : FetchOp)
  /-- R126. Sends logical rows of a closed result into a pass buffer as a join operand. -/
  | joinSend (h : Hdr) (o : RowsOp) (pb : BitVec 8)
  /-- R213. Writes whole entries into a pass buffer from a cluster store or memory. -/
  | send (h : Hdr) (o : PbMoveOp)
  /-- R213. Takes whole entries from a pass buffer into a cluster store or memory. -/
  | receive (h : Hdr) (o : PbMoveOp)
  /-- R213. Copies whole tiles with their trailers. -/
  | moveCopy (h : Hdr) (tilesM1 : BitVec 16) (src : AddrOp) (dst : AddrOp)
  /-- R245. Reads a root slot under the use rule into a cluster store and records the outcome. -/
  | rootFetch (h : Hdr) (a : AddrOp) (o : RootFetchOp)
  /-- R235. Copies a set to the arena or the deep area and enters it in the set table. -/
  | offload (h : Hdr) (setId : BitVec 16) (tilesM1 : BitVec 20) (a : AddrOp) (watermark : Bool)
  /-- R236. Migrates whole sets, oldest first, from the arena to the deep area until the fill reaches low_pct. -/
  | valveMigrate (region : BitVec 5)
  /-- R237. Copies a set back to a destination and frees its space and table slot. -/
  | valveRestore (h : Hdr) (setId : BitVec 16) (tilesM1 : BitVec 20) (a : AddrOp)
  /-- R238. Records a set as regenerated by the program without moving anything. -/
  | markRecompute (h : Hdr) (setId : BitVec 16) (tilesM1 : BitVec 20) (a : AddrOp)
  /-- R230. Queues a bench task with a copy of the address registers and the step register. -/
  | enqueue (h : Hdr) (entry : BitVec 32) (tag : BitVec 16)
  /-- R230. The next queued bench task starts after the previous task has completed. -/
  | benchTaskStart (region : BitVec 5)
  /-- R214. Completes when every task enqueued before it has completed. -/
  | fence (h : Hdr)
  /-- R321. The region arrives at a huddle number of a group, with a commit arrive waiting for the bench to empty. -/
  | arrive (h : Hdr) (gid : BitVec 16) (a : AddrOp) (commit : Bool)
  /-- R324. The region waits until the huddle number completes or fails. -/
  | huddleWait (h : Hdr) (gid : BitVec 16) (a : AddrOp)
  /-- R321. Arrives at a huddle number and waits for its decision. -/
  | arriveAndWait (h : Hdr) (gid : BitVec 16) (a : AddrOp) (commit : Bool)
  /-- R105. At a quiet point a substitute row is switched in, offsets and skew_gen change, and both banks are reloaded. -/
  | substituteSwitchIn (region : BitVec 5) (cluster : BitVec 5)
  /-- R243. A counted wait reaches RG_DEADLINE; the region is held and stage-deadline is raised. -/
  | stageDeadline (region : BitVec 5) (index : BitVec 8) (age : BitVec 32)
  /-- R351. Once every region has halted and all stage instructions are complete, the stage-done notice is sent. -/
  | stageDone (court : BitVec 4) (stageId : BitVec 16)
  /-- R341. Opens a host session of device or court scope after the admission check. -/
  | sessionOpen (src : NetAddr) (flow : BitVec 28) (device : Bool) (court : BitVec 4) (tag : BitVec 16)
  /-- R343. Closes a host session without aborting anything. -/
  | sessionClose (session : BitVec 7) (tag : BitVec 16)
  /-- R345. Advances the court epoch and assigns the regions, clearing their court-assignment state. -/
  | courtCreate (c : HostHdr) (mask : W32)
  /-- R346. Frees the court's regions and its pass-buffer reservations. -/
  | courtRelease (c : HostHdr)
  /-- R347. Writes whole tiles, with host-made trailers, as a carrier. -/
  | dataWrite (c : HostHdr) (addr : Addr48) (tiles : List WireTile)
  /-- R348. Sends tiles to the host in ascending address order as a consumer. -/
  | dataRead (c : HostHdr) (addr : Addr48) (count : BitVec 32)
  /-- R221. Checks the stage and pass-buffer descriptors and the image headers, then starts every listed region at its entry. -/
  | stageStart (c : HostHdr) (addr : Addr48)
  /-- R350. Replaces the court's held step number with a higher one. -/
  | step (c : HostHdr) (step : BitVec 48)
  /-- R350. Offers an uncommitted step again and resets every region's step register to s minus 1. -/
  | stepRedo (c : HostHdr) (step : BitVec 48)
  /-- R352. Sets quiesce on the court's regions so that they stop at a boundary with no stream open and empty their benches. -/
  | quiesce (c : HostHdr)
  /-- R47. Once no accepted work remains, the pages read quiesced and the quiesce completes. -/
  | quiesceDone (court : BitVec 4)
  /-- R352. Clears quiesce; each region continues at its next instruction. -/
  | resume (c : HostHdr)
  /-- R353. Writes region images of quiesced regions, with the attached discards of tap, root and Caddie work. -/
  | save (c : HostHdr) (mask : W32) (base : Addr48)
  /-- R354. Checks and writes a region image back, reloads the weight banks and rearms the tap indices. -/
  | restore (c : HostHdr) (region : BitVec 5) (addr : Addr48)
  /-- R355. Aborts a court in the order of Table 14.5. -/
  | abortCourt (c : HostHdr)
  /-- R356. Discards a named earlier command if the abort reaches it before its commit point. -/
  | abortCommand (c : HostHdr) (tag : BitVec 16)
  /-- R359. Clears held and restarts issue at the held instruction or at a named address. -/
  | regionResume (c : HostHdr) (region : BitVec 5) (atAddr : Bool) (addr : BitVec 32)
  /-- R317. A Chesy register request message performs a burst of register accesses and returns a completion. -/
  | registerRequest (h : RegHdr) (q : RegReq)
  /-- R57. A write to a register that has no behaviour of its own stores the value under its access code and permissions. -/
  | registerWrite (h : RegHdr) (off : BitVec 24) (v : BitVec 32)
  /-- R48. A write of PAGE_CTL.quiesce takes effect on new work, region-wide for cluster pages. -/
  | pageQuiesceWrite (h : RegHdr) (page : BitVec 12) (v : Bool)
  /-- R47. A write of PAGE_CTL.enable stops or resumes acceptance of new work, region-wide for cluster pages. -/
  | pageEnableWrite (h : RegHdr) (page : BitVec 12) (v : Bool)
  /-- R51. Sets PAGE_LOCK.locked, freezing the page's RWL fields until a package reset. -/
  | pageLockSet (h : RegHdr) (page : BitVec 12)
  /-- R419. A write that changes a counter selection clears its counter and applies the new filter. -/
  | pcntSelWrite (h : RegHdr) (page : BitVec 24) (n : BitVec 3) (v : W32)
  /-- R135. Closes every open group of the masked units without a fold. -/
  | accDiscard (h : RegHdr) (cluster : BitVec 10) (v : W32)
  /-- R154. VE_SEED_CTL.apply reseeds all lanes from the seed registers. -/
  | veReseed (h : RegHdr) (cluster : BitVec 10) (v : W32)
  /-- R145. Clearing VE_TRAP_INFO.valid re-arms the flag trap record. -/
  | flagTrapRearm (h : RegHdr) (cluster : BitVec 10) (v : W32)
  /-- R90. Clearing valid in COURT_TRAP0 re-arms the first-NaN trap record. -/
  | nanTrapRearm (h : RegHdr) (court : BitVec 4) (v : W32)
  /-- R263. Writing STK_RANGE_SEL loads the staging registers from the selected range entry. -/
  | stkRangeSelect (h : RegHdr) (stack : BitVec 5) (v : W32)
  /-- R263. Writes the staging registers into the selected range entry unless it would overlap or exceed its tier. -/
  | stkRangeApply (h : RegHdr) (stack : BitVec 5)
  /-- R265. Host software retires a named channel under Table 11.4. -/
  | stkRetireCmd (h : RegHdr) (stack : BitVec 5) (deep : Bool) (channel : BitVec 5)
  /-- R258. The reread copy of a tile that failed its check arrives and passes, or leads to poison or a path fault. -/
  | tileRetry (a : Addr48) (court : Option (BitVec 4)) (reader : BitVec 3) (master : BitVec 3) (outcome : BitVec 2)
  /-- R264. The scrubber reads and locally checks the next tile of its pass. -/
  | scrubTile (stack : BitVec 5) (bad : Bool) (changed : Bool)
  /-- R266. On strikes, a PHY or training failure or command, a channel is drained, replaced by the spare, and its rebuild starts. -/
  | channelRetire (stack : BitVec 5) (deep : Bool) (channel : BitVec 5)
  /-- R270. Marks a retired channel or stack return-pending in the repair map for the next reset. -/
  | pkgReturn (h : RegHdr) (kind : BitVec 2) (stack : BitVec 5) (channel : BitVec 5)
  /-- R285. A reduced gradient part reaches a Caddie and is applied, staged, forwarded or discarded by Table 12.6. -/
  | gradientPart (g : GradPart)
  /-- R286. A staged part is applied in arrival order once its page is free. -/
  | stagedPartApply (stack : BitVec 5)
  /-- R291. After all parts are applied and holders have acknowledged, the Caddie reports ready(s) to HD. -/
  | caddieReady (stack : BitVec 5)
  /-- R291. CADDIE_READY_DEADLINE expires before ready; the Caddie raises ready-timeout and does not report ready. -/
  | readyTimeout (stack : BitVec 5)
  /-- R291. On commit(s), the Caddie writes its commit record and flips each page's copy and ring to version s. -/
  | caddieCommit (stack : BitVec 5)
  /-- R293. CADDIE_CMD cmd 1 discards the pending step. -/
  | caddieCmdDiscard (h : RegHdr) (stack : BitVec 5)
  /-- R297. CADDIE_CMD cmd 2 starts a digest pass now. -/
  | caddieCmdDigest (h : RegHdr) (stack : BitVec 5)
  /-- R298. CADDIE_CMD cmd 3 names the authoritative replica for a split digest. -/
  | caddieCmdAuthority (h : RegHdr) (stack : BitVec 5) (dev : BitVec 16)
  /-- R297. After a qualifying commit, the Caddie computes its digest tree and the replicas compare and repair differing tiles. -/
  | digestPass (stack : BitVec 5) (diffs : List DigestDiff)
  /-- R275. Writing CADDIE_PT_COUNT starts the page walker's check of the page table. -/
  | caddiePtCountWrite (h : RegHdr) (stack : BitVec 5) (v : W32)
  /-- R300. A Caddie transfer message delivers deltas, owner high halves or rebuild chunks to a Caddie. -/
  | caddieTransfer (w : WireHdr) (m : CaddieMsg)
  /-- R400. A replacement Caddie requests chunks from its buddies and rebuilds its owned state. -/
  | parityRebuild (stack : BitVec 5)
  /-- R321. A huddle arrive message from a child is counted toward the package's subtree. -/
  | huddleArriveMsg (w : WireHdr) (gid : BitVec 16) (num : BitVec 48) (step : BitVec 48) (arrivals : W32)
  /-- R321. When local regions, ready Caddies and all children have arrived, the package arrives at its parent, or the root completes. -/
  | packageArrive (gid : BitVec 16) (num : BitVec 48)
  /-- R324. A complete decision runs the armed actions, sends commit(s) for commit groups, completes the waits and passes it to the children. -/
  | huddleComplete (w : WireHdr) (gid : BitVec 16) (num : BitVec 48) (step : BitVec 48)
  /-- R324. A fail decision is sent to the Caddies, the waits fail and waiting regions stop. -/
  | huddleFail (w : WireHdr) (gid : BitVec 16) (num : BitVec 48) (step : BitVec 48) (cause : BitVec 4)
  /-- R323. A group's timeout expires before completion; the root decides fail, another member sends fail upward. -/
  | huddleTimeout (gid : BitVec 16) (num : BitVec 48)
  /-- R325. An arrived member has no decision within its timeout and raises huddle-orphan. -/
  | huddleOrphan (gid : BitVec 16) (num : BitVec 48)
  /-- R325. CE_HUDDLE_CMD cmd 1 declares an orphaned number complete. -/
  | huddleDeclareComplete (h : RegHdr) (index : BitVec 8)
  /-- R325. CE_HUDDLE_CMD cmd 2 declares an orphaned number failed. -/
  | huddleDeclareFail (h : RegHdr) (index : BitVec 8)
  /-- R320. Writing CE_HG_COUNT loads and checks the huddle group table. -/
  | ceHgLoad (h : RegHdr) (v : W32)
  /-- R326. Writing CE_PLAN_COUNT loads and checks the collective plan. -/
  | cePlanLoad (h : RegHdr) (v : W32)
  /-- R328. A collective data or statistics message is reduced or delivered in the fixed tree order. -/
  | collectiveData (w : WireHdr) (m : CollMsg)
  /-- R327. When every output is written or accepted, the run arrives at its done group and writes its statistics record. -/
  | collectiveRunEnd (entry : BitVec 10)
  /-- R332. Arms a Relay at a huddle number of a group. -/
  | relayArm (h : RegHdr) (gid : BitVec 16)
  /-- R334. CE_RELAY_ARM with the copy bit restarts step 5 of the Relay. -/
  | relayCopyRestart (h : RegHdr) (gid : BitVec 16)
  /-- R333. A Relay tile message arrives and is written into staging. -/
  | relayTiles (w : WireHdr) (m : RelayMsg)
  /-- R333. After all outgoing tiles are acknowledged and CE_RELAY_IN tiles have arrived, the CE arrives at h + 1. -/
  | relayStaged
  /-- R311. A Chesy acknowledgement frees acknowledged messages of a flow. -/
  | ack (w : WireHdr)
  /-- R312. A NAK makes the sender retransmit from the named sequence number, rereading tiles when resend_src is set. -/
  | nak (w : WireHdr)
  /-- R315. A credit message grants pass-buffer entries to the producer. -/
  | credit (w : WireHdr)
  /-- R315. A pass-buffer entry message is checked against credit and stored at the consumer. -/
  | passBufferEntry (w : WireHdr) (data : List Byte) (crc : BitVec 32) (resent : Bool)
  /-- R311. 2 µs after the first unacknowledged message, the receiver sends an acknowledgement. -/
  | ackTimer (dev : BitVec 16) (flow : W32)
  /-- R312. A retransmission timer expires; the message is resent or, past the retry limit, its flow fails. -/
  | retransmitTimeout (dev : BitVec 16) (flow : W32)
  /-- R314. Once per round trip, the congestion window is updated from the echoed marks. -/
  | cwndUpdate (dev : BitVec 16) (flow : W32) (srtt : BitVec 16)
  /-- R312. CHESY_CMD.reopen reopens the selected failed flow with sequences from 0. -/
  | chesyReopen (h : RegHdr)
  /-- R308. ETH_CMD.clear_dup returns a port held for a duplicate ID. -/
  | clearDup (h : RegHdr) (p : BitVec 5)
  /-- R306. An ARP or neighbour frame is answered for the port's own address. -/
  | neighbourFrame (q : BitVec 5) (target : BitVec 128)
  /-- R314. A received priority flow control or PAUSE frame pauses the port's Chesy traffic. -/
  | pfcFrame (q : BitVec 5) (pfc : Bool) (prio : BitVec 3) (quanta : BitVec 16)
  /-- R312. A port loses link; it leaves every allowed set and its unacknowledged messages go on the other ports. -/
  | linkDown (q : BitVec 5)
  /-- R396. At the end of each 1 s window, a lane whose corrected symbols exceed its threshold leaves service. -/
  | laneFecWindow (q : BitVec 5) (lane : BitVec 3) (corrected : BitVec 48) (symbols : BitVec 48) (codewords : W32) (lost : W32)
  /-- R307. A lane loses signal and leaves service; the port moves its flows and retrains. -/
  | laneSignalLoss (q : BitVec 5) (lane : BitVec 3)
  /-- R404. After the hold-off, a lane out of service rejoins its port on probation. -/
  | laneRetry (q : BitVec 5) (lane : BitVec 3)
  /-- R404. A lane's 60 s probation ends and it stays in service. -/
  | laneProbationEnd (q : BitVec 5) (lane : BitVec 3)
  /-- R388. A residue disagreement or sampled row is re-executed and voted, and the winner is written and the loser charged a strike. -/
  | umpireVote (v : Vote)
  /-- R389. A strike expires window_s seconds after it was charged. -/
  | strikeExpiry (k : StrikeSite)
  /-- R390. At a quiet point, test rows localise the faults of a unit in full shadow and either assign substitutes or retire the unit. -/
  | umpireLocalise (region : BitVec 5) (index : BitVec 7) (rows : List (BitVec 6)) (elsewhere : Bool)
  /-- R392. At a moment with no stream in flight, the spare takes over a retiring cluster's state and weights. -/
  | clusterTakeover (region : BitVec 5)
  /-- R402. UMP_CMD cmd 1 returns a retired cluster to probation. -/
  | umpReturnProbation (h : RegHdr) (region : BitVec 5) (cluster : BitVec 5)
  /-- R402. UMP_CMD cmd 2 retires a named cluster. -/
  | umpRetire (h : RegHdr) (region : BitVec 5) (cluster : BitVec 5)
  /-- R402. A probation job ends at a stage-done notice or after 2^30 shadowed steps, and the cluster may pass to standby. -/
  | probationJobEnd (region : BitVec 5) (rows : BitVec 32) (mismatch : Bool)
  /-- R395. A permanent ring-edge, hub-link or management-core fault raises a device-fatal event. -/
  | linkFatal (core : Bool)
  /-- R369. Checks a job descriptor and queues the solver job, or refuses it. -/
  | seSubmit (h : RegHdr) (stack : BitVec 5) (tier : Bool) (tile : BitVec 24)
  /-- R370. The solver engine starts or resumes the queued job that earliest-deadline order selects. -/
  | seJobStart (units : BitVec 32)
  /-- R376. The result header's acknowledge completes the job and the solve-done notice is sent. -/
  | seJobEnd
  /-- R376. A job's deadline expires before its commit point; it fails and writes incomplete results. -/
  | seDeadline (index : BitVec 6)
  /-- R377. Cancels a named queued or running solver job. -/
  | seCancel (h : RegHdr) (court : BitVec 4) (tag : BitVec 16)
  /-- R416. SC_CURSOR cmd 0 loads the record at an index into the window. -/
  | scLoadIndex (h : RegHdr) (idx : BitVec 9)
  /-- R416. SC_CURSOR cmd 1 loads the next valid record after the index. -/
  | scLoadNext (h : RegHdr) (idx : BitVec 9)
  /-- R416. SC_CURSOR cmd 2 loads the record whose key matches SC_KEY. -/
  | scLoadKey (h : RegHdr)
  /-- R416. SC_CURSOR cmd 3 clears the record at an index. -/
  | scClearRecord (h : RegHdr) (idx : BitVec 9)
  /-- R416. SC_CURSOR cmd 4 clears every record, SC_LOST and SC_EVICTED. -/
  | scClearAll (h : RegHdr)
  /-- R418. Writes the Scorecard store image to flash. -/
  | scSave (h : RegHdr)
  /-- R415. A code's rate bucket gains a token every 60 ÷ per_min seconds. -/
  | rateTokenTick (code : BitVec 16)
  /-- R421. Freezes every counter of the package. -/
  | ctrFreeze (h : RegHdr)
  /-- R421. Unfreezes every counter. -/
  | ctrUnfreeze (h : RegHdr)
  /-- R422. Takes a snapshot into the banks, then returns to the earlier freeze state. -/
  | ctrSnapshotReturn (h : RegHdr)
  /-- R422. Takes a snapshot into the banks and stays frozen. -/
  | ctrSnapshotHold (h : RegHdr)
  /-- R421. Clears every programmable counter of every page. -/
  | ctrClear (h : RegHdr)
  /-- R425. Arms a freeze or snapshot at a huddle number. -/
  | ctrArm (h : RegHdr) (action : BitVec 3) (gid : BitVec 16)
  /-- R429. A write of SNS_VCOREn.mode sets the die's array-mode set point, and the regulator slews toward the effective set point. -/
  | vcoreModeWrite (h : RegHdr) (die : BitVec 2) (mode : BitVec 2)
  /-- R430. A write of SNS_REGIONr.pace_mode sets the region's pace throttle. -/
  | paceModeWrite (h : RegHdr) (region : BitVec 5) (mode : BitVec 3)
  /-- R434. Every 1 ms the controller compares input power with the cap and adjusts ceilings or throttles. -/
  | powerControlPeriod (input : BitVec 16) (compute : BitVec 16) (stackW : BitVec 16) (hub : BitVec 16) (loss : BitVec 16)
  /-- R436. A region's droop sensor reads below its threshold and engages droop throttle. -/
  | droopEngage (region : BitVec 5)
  /-- R436. Droop throttle is released after the voltage holds above threshold for the hold time. -/
  | droopRelease (region : BitVec 5)
  /-- R436. Droop pacing engaged for 1 ms without release raises droop-sustained. -/
  | droopSustained (region : BitVec 5)
  /-- R437. A stack base-die droop engages or releases the skip of one clock edge in four. -/
  | stackDroop (stack : BitVec 5) (engage : Bool)
  /-- R438. Each 50 µs sensor reading is compared with warn, hot and trip thresholds. -/
  | thermalSample (sensor : BitVec 7) (tj : BitVec 16)
  /-- R438. Each 1 ms the thermal ceiling of a warm die falls or recovers by 5 mV. -/
  | thermalCeilingTick
  /-- R440. A rail outside tolerance for more than 1 ms raises rail-fault. -/
  | railFault (rail : BitVec 3) (mv : BitVec 16)
  /-- R474. VIN12 below 11.4 V for 50 µs while PWRGOOD is asserted runs the power-down steps with rail-fault. -/
  | vin12Undervoltage
  /-- R472. V3P3_AUX comes within tolerance and the management core starts the package. -/
  | auxPowerOn
  /-- R450. The management core reads fuses, brings up flash, verifies the active slot, reads settings and brings up SP. -/
  | packageStart (idx : StartInput)
  /-- R472. PWRGOOD asserts; the die regulators start, the hub links train, the repair map is applied and start tests run to ready. -/
  | pwrgoodAssert (t : StartTests)
  /-- R472. An on-package rail misses its 20 ms limit; the regulators turn off and rail-fault is raised. -/
  | regulatorStartTimeout
  /-- R473. PWRGOOD deasserts; gates close, the device-fatal sequence runs with power-down and the core rails turn off. -/
  | pwrgoodDeassert
  /-- R477. RESET_N held low causes a package reset, and its rising edge starts Table 19.5 at step 2. -/
  | resetNAssert
  /-- R450. The management-core watchdog expires and causes a package reset. -/
  | watchdogReset
  /-- R458. HOLDUP_OK changes level; a waiting flash copy resumes when it asserts. -/
  | holdupOkChange (level : Bool)
  /-- R481. Loss of a reference clock takes its ports down or fails the hub links. -/
  | refclkLoss (clock : BitVec 3)
  /-- R449. FLASH_XFER_CTL cmd 1 begins a firmware transfer into the staging slot. -/
  | flashBeginFirmware (h : RegHdr)
  /-- R449. FLASH_XFER_CTL cmd 2 begins a settings transfer. -/
  | flashBeginSettings (h : RegHdr)
  /-- R449. FLASH_XFER_CTL cmd 3 programs a 2,048-byte chunk at the next offset. -/
  | flashChunk (h : RegHdr)
  /-- R447. FLASH_XFER_CTL cmd 4 verifies the staged image or checks and writes the settings blob. -/
  | flashVerify (h : RegHdr)
  /-- R449. FLASH_XFER_CTL cmd 5 abandons the transfer. -/
  | flashAbandon (h : RegHdr)
  /-- R461. PKG_FW_CMD cmd 1 confirms the active image and advances the fuse counter. -/
  | fwConfirm (h : RegHdr)
  /-- R452. PKG_FW_CMD cmd 2 installs a verified staged image in recovery and resets. -/
  | fwInstall (h : RegHdr)
  /-- R450. PKG_FW_CMD cmd 3 causes a package reset. -/
  | fwReset (h : RegHdr)
  /-- R455. PKG_FW_CMD cmd 4 cancels an unfired activation arm. -/
  | fwCancelArm (h : RegHdr)
  /-- R454. PKG_ACT_ARM arms a firmware activation at a huddle number. -/
  | activationArm (h : RegHdr) (group : BitVec 16)
  /-- R456. Once every commit window has closed, the package aborts its courts, saves the Scorecard and resets to perform the copy. -/
  | activationRestart
  /-- R456. A commit window still open 10 s into the drain is discarded. -/
  | activationWindowTimeout
  /-- R464. MC_ATTEST.go asks the engine to sign an attestation report over the nonce. -/
  | attest (h : RegHdr)
  /-- R464. The signed report is placed in MC_REPORT and the status reads done. -/
  | attestDone
  /-- R483. A sideband write transaction performs register writes. -/
  | sidebandWrite (off : BitVec 24) (data : List (BitVec 32)) (wellFormed : Bool) (pec : Option Bool)
  /-- R483. A sideband read transaction returns register values. -/
  | sidebandRead (off : BitVec 24) (words : BitVec 5) (wellFormed : Bool) (pec : Option Bool)
  /-- R484. Writing 1 to SB_ALERT.active deasserts SMBALERT_N. -/
  | sbAlertClear (h : RegHdr)
  /-- R485. TAP BYPASS instruction. -/
  | bypass
  /-- R485. TAP IDCODE instruction returns 0x15A3_2593. -/
  | idcode
  /-- R485. TAP SAMPLE/PRELOAD instruction. -/
  | samplePreload
  /-- R485. TAP EXTEST instruction, effective only while PWRGOOD is deasserted. -/
  | extest
  /-- R485. IEEE 1149.6 EXTEST_PULSE on the high-speed lanes, only while PWRGOOD is deasserted. -/
  | extestPulse
  /-- R485. IEEE 1149.6 EXTEST_TRAIN on the high-speed lanes, only while PWRGOOD is deasserted. -/
  | extestTrain
  /-- R485. TAP CLAMP instruction, only while PWRGOOD is deasserted. -/
  | clamp
  /-- R485. TAP HIGHZ instruction, only while PWRGOOD is deasserted. -/
  | highz
  /-- R486. Private TAP instruction carrying register accesses with SP permissions while tap_regs is 1. -/
  | dbgreg (tag : BitVec 16) (q : RegReq)
  /-- R265. A stack channel's strike leaves the rolling window of window_min minutes and no longer counts toward strike_limit or STK_STRIKES. -/
  | strikeWindowExpiry (stack : BitVec 5) (channel : BitVec 5)
  /-- R475. The 3.3 V auxiliary rail is removed, releasing THERMTRIP_N and losing the Scorecard store and all management-core state. -/
  | v3p3AuxRemoved
  /-- R472. V1P8 reaches tolerance, letting a management core that waited at step 3 of Table 19.5 bring up the flash. -/
  | v1p8InTolerance
  /-- R312. A port that was down regains link after training, for instance when its reference clock returns, and rejoins the allowed sets. -/
  | linkUp (q : BitVec 5)
  /-- R449. The management core finishes programming a chunk or verifying a transfer, and FLASH_XFER_STAT leaves busy. -/
  | flashXferDone
  /-- R418. The Scorecard image finishes writing to flash and SC_SAVE_STAT reads done or failed. -/
  | scSaveDone (failed : Bool)
  /-- R422. A snapshot finishes writing its banks, clears copying and returns to the freeze state named, letting a queued snapshot start. -/
  | snapshotCopyDone
  /-- R429. The core regulator reaches the effective set point, ending the ramp during which droop sensing uses the lower of the two set points. -/
  | vcoreRampEnd (die : BitVec 2)
  /-- R394. A region's sequencer, region switch or move engine fails permanently, so the region retires and its court is aborted. -/
  | regionBlockFailure (region : BitVec 5)
  /-- R485. TRST_N asserts or deasserts, resetting the TAP or releasing it, as DBG_STAT.trst shows. -/
  | trstNChange (asserted : Bool)
  deriving DecidableEq, Repr

end Sys2Proof
end

