-- ==== Sys2Proof/Machine/Num.lean ====
section
/-! DEFINITION. Exact numbers, floating-point layouts, rounding and the arithmetic flags (03_number_formats.md). -/

namespace Sys2Proof.Machine

/-- An exact value. `fin neg m e` is (−1)^neg × m × 2^e; m = 0 is a zero of that sign. `nan true` is a signalling
NaN (R66). A value that is not dyadic (a quotient, a root) is carried with far more bits than any target and its lowest
bit set when anything was discarded, so that every rounding of R78 to R80 sees the exact value's side. -/
inductive XNum where
  | nan (signalling : Bool)
  | inf (neg : Bool)
  | fin (neg : Bool) (m : Nat) (e : Int)
  deriving DecidableEq, Repr

/-- The five arithmetic flags (Table 3.9). -/
structure Flags where
  invalid : Bool := false
  overflow : Bool := false
  underflow : Bool := false
  inexact : Bool := false
  saturated : Bool := false
  deriving DecidableEq, Repr

def Flags.or (a b : Flags) : Flags :=
  { invalid := a.invalid || b.invalid, overflow := a.overflow || b.overflow
    underflow := a.underflow || b.underflow, inexact := a.inexact || b.inexact
    saturated := a.saturated || b.saturated }

/-- The flags in the bit order of Table 3.10: invalid [4] down to saturated [0]. -/
def Flags.bits (f : Flags) : Nat :=
  f.invalid.toNat * 16 + f.overflow.toNat * 8 + f.underflow.toNat * 4 + f.inexact.toNat * 2 + f.saturated.toNat

def Flags.none : Flags := {}
def Flags.inv : Flags := { invalid := true }

/-- How a format encodes infinity and NaN (Table 3.3). -/
inductive Specials where
  | ieee
  | e4m3
  | noSpecials
  deriving DecidableEq, Repr

/-- Floating-point format parameters (Table 3.2). -/
structure FloatFmt where
  eb : Nat
  fb : Nat
  bias : Nat
  specials : Specials
  quietBit : Bool
  deriving DecidableEq, Repr

def fp32 : FloatFmt := ⟨8, 23, 127, .ieee, true⟩
def bf16 : FloatFmt := ⟨8, 7, 127, .ieee, true⟩
def fp16 : FloatFmt := ⟨5, 10, 15, .ieee, true⟩
def e4m3 : FloatFmt := ⟨4, 3, 7, .e4m3, false⟩
def e5m2 : FloatFmt := ⟨5, 2, 15, .ieee, false⟩
def e3m2 : FloatFmt := ⟨3, 2, 3, .noSpecials, false⟩
def e2m3 : FloatFmt := ⟨2, 3, 1, .noSpecials, false⟩
def e2m1 : FloatFmt := ⟨2, 1, 1, .noSpecials, false⟩
def a40 : FloatFmt := ⟨10, 29, 511, .ieee, false⟩
/-- IEEE 754 binary64, the solver engine's format (15_solver_engine.md R363). -/
def fp64 : FloatFmt := ⟨11, 52, 1023, .ieee, true⟩

namespace FloatFmt

def width (f : FloatFmt) : Nat := 1 + f.eb + f.fb
/-- Exponent of the smallest normal value. -/
def emin (f : FloatFmt) : Int := 1 - (f.bias : Int)
/-- Exponent of the largest finite value. -/
def emax (f : FloatFmt) : Int :=
  match f.specials with
  | .ieee => (2 ^ f.eb - 2 : Nat) - (f.bias : Int)
  | _ => (2 ^ f.eb - 1 : Nat) - (f.bias : Int)
/-- Significand of the largest finite value, in units of its last place. -/
def maxSig (f : FloatFmt) : Nat :=
  match f.specials with
  | .e4m3 => 2 ^ (f.fb + 1) - 2
  | _ => 2 ^ (f.fb + 1) - 1
def hasInf (f : FloatFmt) : Bool := f.specials == .ieee
def hasNan (f : FloatFmt) : Bool := f.specials != .noSpecials
/-- The canonical NaN (Table 3.3). -/
def canonNan (f : FloatFmt) : Nat :=
  match f.specials with
  | .ieee => (2 ^ f.eb - 1) * 2 ^ f.fb + 2 ^ (f.fb - 1)
  | .e4m3 => 0x7F
  | .noSpecials => 0
def signBit (f : FloatFmt) (neg : Bool) : Nat := if neg then 2 ^ (f.eb + f.fb) else 0
def infBits (f : FloatFmt) (neg : Bool) : Nat := f.signBit neg + (2 ^ f.eb - 1) * 2 ^ f.fb
/-- The largest finite value with a sign. -/
def maxBits (f : FloatFmt) (neg : Bool) : Nat :=
  match f.specials with
  | .ieee => f.signBit neg + (2 ^ f.eb - 2) * 2 ^ f.fb + (2 ^ f.fb - 1)
  | .e4m3 => f.signBit neg + 0x7E
  | .noSpecials => f.signBit neg + (2 ^ (f.eb + f.fb) - 1)

/-- The value a bit pattern holds (R63, R64, R65: subnormals at their exact value). -/
def decode (f : FloatFmt) (x : Nat) : XNum :=
  let neg := x / 2 ^ (f.eb + f.fb) % 2 == 1
  let ex := x / 2 ^ f.fb % 2 ^ f.eb
  let fr := x % 2 ^ f.fb
  let special := ex == 2 ^ f.eb - 1
  if special && f.specials == .ieee then
    if fr = 0 then .inf neg
    else .nan (f.quietBit && fr < 2 ^ (f.fb - 1))
  else if special && f.specials == .e4m3 && fr == 2 ^ f.fb - 1 then .nan false
  else if ex = 0 then .fin neg fr (f.emin - f.fb)
  else .fin neg (2 ^ f.fb + fr) ((ex : Int) - f.bias - f.fb)

/-- The bits of k × 2^q where q is the grid spacing of the value's binade. -/
def encode (f : FloatFmt) (neg : Bool) (k : Nat) (q : Int) : Nat :=
  if k < 2 ^ f.fb then f.signBit neg + k
  else
    let l := Nat.log2 k
    let ex := (q + l + f.bias).toNat
    f.signBit neg + ex * 2 ^ f.fb + (k / 2 ^ (l - f.fb) - 2 ^ f.fb)

end FloatFmt

/-- Rounding modes (Table 3.6). -/
inductive Rnd where
  | rne | rz | rto | sr
  deriving DecidableEq, Repr

def Rnd.ofCode (c : Nat) : Rnd :=
  match c % 4 with
  | 0 => .rne
  | 1 => .rz
  | 2 => .rto
  | _ => .sr

/-- m × 2^e on the grid of spacing 2^q: the integer chosen by the mode, and whether anything was discarded.
`u` is the 16-bit draw of R80, used under SR only. -/
def roundToGrid (mode : Rnd) (u : Nat) (m : Nat) (e q : Int) : Nat × Bool :=
  if q ≤ e then (m * 2 ^ (e - q).toNat, false)
  else
    let s := (q - e).toNat
    let k := m / 2 ^ s
    let rem := m % 2 ^ s
    let inexact := rem != 0
    let up := match mode with
      | .rne => decide (2 ^ s < 2 * rem) || (decide (2 * rem = 2 ^ s) && k % 2 == 1)
      | .rz => false
      | .rto => inexact && k % 2 == 0
      | .sr => decide (2 ^ 16 ≤ rem * 2 ^ 16 / 2 ^ s + u % 2 ^ 16)
    (if up then k + 1 else k, inexact)

/-- Is k × 2^q above the largest finite value? q is the spacing of the value's binade. -/
def FloatFmt.exceeds (f : FloatFmt) (k : Nat) (q : Int) : Bool :=
  let topq := f.emax - f.fb
  if topq < q then k != 0 else if q = topq then decide (f.maxSig < k) else false

/-- One rounding of an exact value into a floating-point target (R79 to R85, R491). -/
def FloatFmt.round (f : FloatFmt) (mode : Rnd) (u : Nat) (sat : Bool) (v : XNum) : Nat × Flags :=
  match v with
  | .nan sig => (f.canonNan, { invalid := sig })
  | .inf neg =>
    if f.hasInf then (f.infBits neg, {})
    else if sat then (f.maxBits neg, { saturated := true })
    else (f.canonNan, { invalid := true })
  | .fin neg m e =>
    if m = 0 then (f.signBit neg, {})
    else
      let l : Int := (Nat.log2 m : Int) + e
      let q := max l f.emin - f.fb
      let (k, inexact) := roundToGrid mode u m e q
      if f.exceeds k q then
        if f.hasInf && !sat then (f.infBits neg, { overflow := true, inexact := true })
        else (f.maxBits neg, { overflow := true, inexact := true, saturated := true })
      else
        let (kt, _) := roundToGrid mode u m e (l - f.fb)
        let tiny := decide ((Nat.log2 kt : Int) + (l - f.fb) < f.emin)
        (f.encode neg k q, { inexact := inexact, underflow := inexact && tiny })

namespace XNum

def isNan : XNum → Bool
  | .nan _ => true
  | _ => false
def isSnan : XNum → Bool
  | .nan b => b
  | _ => false
def isInf : XNum → Bool
  | .inf _ => true
  | _ => false
def isZero : XNum → Bool
  | .fin _ m _ => m == 0
  | _ => false
def isFinite : XNum → Bool
  | .fin _ _ _ => true
  | _ => false
def signOf : XNum → Bool
  | .nan _ => false
  | .inf n => n
  | .fin n _ _ => n
def neg : XNum → XNum
  | .nan s => .nan s
  | .inf n => .inf (!n)
  | .fin n m e => .fin (!n) m e
def abs : XNum → XNum
  | .nan s => .nan s
  | .inf _ => .inf false
  | .fin _ m e => .fin false m e
def zero : XNum := .fin false 0 0
def one : XNum := .fin false 1 0
def ofNat (n : Nat) : XNum := .fin false n 0
def ofInt (i : Int) : XNum := .fin (decide (i < 0)) i.natAbs 0
/-- v × 2^k. -/
def scale (v : XNum) (k : Int) : XNum :=
  match v with
  | .fin n m e => .fin n m (e + k)
  | v => v
/-- The signed integer n × 2^e as a value; a zero takes the sign `zneg`. -/
def ofSigned (i : Int) (e : Int) (zneg : Bool) : XNum :=
  if i = 0 then .fin zneg 0 0 else .fin (decide (i < 0)) i.natAbs e

def signed (neg : Bool) (m : Nat) : Int := if neg then -(m : Int) else m

/-- Exact sum; a zero sum of opposite signs is +0 (IEEE 754, and R118 for the tree). -/
def add (a b : XNum) : XNum × Flags :=
  match a, b with
  | .nan s, .nan t => (.nan false, { invalid := s || t })
  | .nan s, _ => (.nan false, { invalid := s })
  | _, .nan t => (.nan false, { invalid := t })
  | .inf x, .inf y => if x = y then (.inf x, {}) else (.nan false, { invalid := true })
  | .inf x, _ => (.inf x, {})
  | _, .inf y => (.inf y, {})
  | .fin n1 m1 e1, .fin n2 m2 e2 =>
    if m1 = 0 ∧ m2 = 0 then (.fin (n1 && n2) 0 0, {})
    else
      let e := min e1 e2
      let i := signed n1 (m1 * 2 ^ (e1 - e).toNat) + signed n2 (m2 * 2 ^ (e2 - e).toNat)
      (ofSigned i e false, {})

def sub (a b : XNum) : XNum × Flags := add a (neg b)

/-- Exact product with the special rules of R76. -/
def mul (a b : XNum) : XNum × Flags :=
  match a, b with
  | .nan s, .nan t => (.nan false, { invalid := s || t })
  | .nan s, _ => (.nan false, { invalid := s })
  | _, .nan t => (.nan false, { invalid := t })
  | .inf x, .inf y => (.inf (x != y), {})
  | .inf x, .fin y m _ => if m = 0 then (.nan false, { invalid := true }) else (.inf (x != y), {})
  | .fin x m _, .inf y => if m = 0 then (.nan false, { invalid := true }) else (.inf (x != y), {})
  | .fin n1 m1 e1, .fin n2 m2 e2 => (.fin (n1 != n2) (m1 * m2) (e1 + e2), {})

/-- Exact a × b + c. A NaN c beside 0 × ∞ still sets invalid for the product. -/
def fma (a b c : XNum) : XNum × Flags :=
  let (p, f1) := mul a b
  let (r, f2) := add p c
  (r, f1.or f2)

/-- Extra bits a quotient or a root is carried with before its sticky bit. -/
def extraBits : Nat := 160

/-- a ÷ b, sticky (see XNum). -/
def div (a b : XNum) : XNum × Flags :=
  match a, b with
  | .nan s, .nan t => (.nan false, { invalid := s || t })
  | .nan s, _ => (.nan false, { invalid := s })
  | _, .nan t => (.nan false, { invalid := t })
  | .inf _, .inf _ => (.nan false, { invalid := true })
  | .inf x, .fin y _ _ => (.inf (x != y), {})
  | .fin x _ _, .inf y => (.fin (x != y) 0 0, {})
  | .fin n1 m1 e1, .fin n2 m2 e2 =>
    if m2 = 0 then
      if m1 = 0 then (.nan false, { invalid := true }) else (.inf (n1 != n2), {})
    else if m1 = 0 then (.fin (n1 != n2) 0 0, {})
    else
      let sh := extraBits + Nat.log2 m2
      let n := m1 * 2 ^ sh
      (.fin (n1 != n2) (2 * (n / m2) + (if n % m2 = 0 then 0 else 1)) (e1 - e2 - sh - 1), {})

/-- floor of the square root, from bit `b` down. -/
def isqrtGo (n : Nat) : Nat → Nat → Nat
  | 0, r => r
  | b + 1, r => isqrtGo n b (if (r + 2 ^ b) * (r + 2 ^ b) ≤ n then r + 2 ^ b else r)
def isqrt (n : Nat) : Nat := isqrtGo n (Nat.log2 n / 2 + 1) 0

/-- √a, sticky; −0 gives −0, a negative non-zero value is invalid (Table 3.9). -/
def sqrt (a : XNum) : XNum × Flags :=
  match a with
  | .nan s => (.nan false, { invalid := s })
  | .inf n => if n then (.nan false, { invalid := true }) else (.inf false, {})
  | .fin n m e =>
    if m = 0 then (.fin n 0 0, {})
    else if n then (.nan false, { invalid := true })
    else
      let (m1, e1) := if e % 2 = 0 then (m, e) else (2 * m, e - 1)
      let t := m1 * 2 ^ (2 * extraBits)
      let r := isqrt t
      (.fin false (2 * r + (if r * r = t then 0 else 1)) (e1 / 2 - extraBits - 1), {})

/-- 1 ÷ √a, sticky; ±0 gives ±∞ with no flag, a negative non-zero value is invalid (06_vector_lanes.md R141). -/
def rsqrt (a : XNum) : XNum × Flags :=
  match a with
  | .nan s => (.nan false, { invalid := s })
  | .inf n => if n then (.nan false, { invalid := true }) else (.fin false 0 0, {})
  | .fin n m e =>
    if m = 0 then (.inf n, {})
    else if n then (.nan false, { invalid := true })
    else
      let (m1, e1) := if e % 2 = 0 then (m, e) else (2 * m, e - 1)
      let k := extraBits + Nat.log2 m1
      let nn := 2 ^ (2 * k)
      let r := isqrt (nn / m1)
      (.fin false (2 * r + (if r * r * m1 = nn then 0 else 1)) (-(k : Int) - e1 / 2 - 1), {})

/-- floor of the exact value towards −∞. -/
def floorInt (neg : Bool) (m : Nat) (e : Int) : Int :=
  if 0 ≤ e then signed neg (m * 2 ^ e.toNat) else (signed neg m) / (2 ^ (-e).toNat : Nat)

/-- Precision in bits of the fixed-point work of exp2 and log2. -/
def fixBits : Nat := 320

/-- ∏ of the roots 2^(2^−i) over the fraction bits of f = fr ÷ 2^n, high bit first, in fixed point. `c` is 2^(2^−i). -/
def exp2Go (fr : Nat) : Nat → Nat → Nat → Nat
  | 0, _, acc => acc
  | n + 1, c, acc =>
    let c' := isqrt (c * 2 ^ fixBits)
    exp2Go fr n c' (if fr / 2 ^ n % 2 = 1 then acc * c' / 2 ^ fixBits else acc)

/-- 2^a, sticky; an integer a is exact. (PRESUMED, notes/assumptions/132.md) -/
def exp2 (a : XNum) : XNum × Flags :=
  match a with
  | .nan s => (.nan false, { invalid := s })
  | .inf n => if n then (.fin false 0 0, {}) else (.inf false, {})
  | .fin n m e =>
    if m = 0 then (one, {})
    else if 0 ≤ e ∨ m % 2 ^ (-e).toNat = 0 then
      let i := floorInt n m e
      (.fin false 1 (max (min i 100000) (-100000)), {})
    else if (Nat.log2 m : Int) + e < -60 then
      (if n then (.fin false (2 ^ 200 - 1) (-200), {}) else (.fin false (2 ^ 200 + 1) (-200), {}))
    else
      let i := floorInt n m e
      let nb := (-e).toNat
      let fr := ((signed n m) - i * (2 ^ nb : Nat)).toNat
      let p := exp2Go fr nb (2 * 2 ^ fixBits) (2 ^ fixBits)
      (.fin false (2 * p + 1) (max (min i 100000) (-100000) - fixBits - 1), {})

/-- The next `n` bits of log2 of y ÷ 2^fixBits in [1, 2), by squaring. -/
def log2Go : Nat → Nat → Nat → Nat
  | 0, _, acc => acc
  | n + 1, y, acc =>
    let y2 := y * y / 2 ^ fixBits
    if 2 * 2 ^ fixBits ≤ y2 then log2Go n (y2 / 2) (2 * acc + 1) else log2Go n y2 (2 * acc)

/-- log2 a, sticky; a power of two is exact; ±0 gives −∞, a negative non-zero value is invalid (R141). -/
def log2 (a : XNum) : XNum × Flags :=
  match a with
  | .nan s => (.nan false, { invalid := s })
  | .inf n => if n then (.nan false, { invalid := true }) else (.inf false, {})
  | .fin n m e =>
    if m = 0 then (.inf true, {})
    else if n then (.nan false, { invalid := true })
    else
      let l := Nat.log2 m
      let k : Int := (l : Int) + e
      if m = 2 ^ l then (ofSigned k 0 false, {})
      else
        let y := m * 2 ^ (fixBits - l)
        let b := log2Go 150 y 0
        -- k + (b + a positive rest below 1) / 2^150
        let i := k * (2 ^ 151 : Nat) + 2 * (b : Int) + 1
        (ofSigned i (-151) false, {})

/-- a < b for two values that are not NaN; −0 and +0 are equal. -/
def lt (a b : XNum) : Bool :=
  match a, b with
  | .nan _, _ => false
  | _, .nan _ => false
  | .inf x, .inf y => x && !y
  | .inf x, .fin _ _ _ => x
  | .fin _ _ _, .inf y => !y
  | .fin n1 m1 e1, .fin n2 m2 e2 =>
    let e := min e1 e2
    decide (signed n1 (m1 * 2 ^ (e1 - e).toNat) < signed n2 (m2 * 2 ^ (e2 - e).toNat))

/-- a = b for two values that are not NaN. -/
def eq (a b : XNum) : Bool :=
  match a, b with
  | .nan _, _ => false
  | _, .nan _ => false
  | .inf x, .inf y => x == y
  | .fin n1 m1 e1, .fin n2 m2 e2 =>
    let e := min e1 e2
    decide (signed n1 (m1 * 2 ^ (e1 - e).toNat) = signed n2 (m2 * 2 ^ (e2 - e).toNat))
  | _, _ => false

def le (a b : XNum) : Bool := lt a b || eq a b

end XNum

/-- Round an exact value to a signed integer by mode, RTO on the magnitude (R78): magnitude and inexact. -/
def roundInt (mode : Rnd) (u : Nat) (m : Nat) (e : Int) : Nat × Bool := roundToGrid mode u m e 0

end Sys2Proof.Machine
end

