-- ==== Sys2Proof/Machine/Formats.lean ====
section
/-! DEFINITION. The sixteen format codes, element packing, microscaling blocks, integers and packed weights, and every
conversion of Table 3.7 (03_number_formats.md R61 to R86). -/

namespace Sys2Proof.Machine

/-- Little-endian bytes of a number (R4). -/
def leBytes : Nat → Nat → List Byte
  | 0, _ => []
  | n + 1, v => BitVec.ofNat 8 v :: leBytes n (v / 256)

/-- The number little-endian bytes hold. -/
def leNat : List Byte → Nat
  | [] => 0
  | b :: t => b.toNat + 256 * leNat t

/-- Bytes `off` to `off + n − 1` of a byte list as a little-endian number; bytes past the end are 0. -/
def leAt (bs : List Byte) (off n : Nat) : Nat := leNat ((bs.drop off).take n)

/-- 32-bit word `i` of a byte list. -/
def wordAt (bs : List Byte) (i : Nat) : Nat := leAt bs (4 * i) 4

/-- Bits [hi:lo] of a number. -/
def bits (x hi lo : Nat) : Nat := x / 2 ^ lo % 2 ^ (hi + 1 - lo)

/-- Bit i of a number. -/
def bit (x i : Nat) : Bool := x / 2 ^ i % 2 == 1

/-- Little-endian bytes of 32-bit words. -/
def wordBytes (ws : List Nat) : List Byte := ws.flatMap (leBytes 4)

/-- Format codes (Table 3.1). -/
abbrev Fmt := Nat

namespace Fmt
def raw : Fmt := 0
def FP32 : Fmt := 1
def BF16 : Fmt := 2
def FP16 : Fmt := 3
def E4M3 : Fmt := 4
def E5M2 : Fmt := 5
def MXE4M3 : Fmt := 6
def MXE5M2 : Fmt := 7
def MXE3M2 : Fmt := 8
def MXE2M3 : Fmt := 9
def MXE2M1 : Fmt := 10
def INT8 : Fmt := 11
def INT2 : Fmt := 12
def INT1 : Fmt := 13
def A40 : Fmt := 14
def E8M0 : Fmt := 15

/-- Element bits (Table 3.1); raw counts as bytes. -/
def bits (f : Fmt) : Nat :=
  match f with
  | 1 => 32 | 2 => 16 | 3 => 16 | 8 => 6 | 9 => 6 | 10 => 4 | 12 => 2 | 13 => 1 | 14 => 40 | _ => 8

/-- Is it an MX format? -/
def isMx (f : Fmt) : Bool := decide (6 ≤ f ∧ f ≤ 10)

/-- The floating-point layout of a code's elements; FP32 where the code is no floating-point format. -/
def layout (f : Fmt) : FloatFmt :=
  match f with
  | 2 => bf16 | 3 => fp16 | 4 => e4m3 | 5 => e5m2 | 6 => e4m3 | 7 => e5m2
  | 8 => e3m2 | 9 => e2m3 | 10 => e2m1 | 14 => a40 | _ => fp32

/-- emax of an MX element format (Table 3.4). -/
def mxEmax (f : Fmt) : Int := (layout f).emax

/-- Do two codes match under R62? -/
def agree (stored named : Fmt) : Bool := stored == named || stored == 0 || named == 0

end Fmt

/-- Bytes of `n` elements of `w` bits packed least significant first (R68, R73). -/
def packBits (w : Nat) (xs : List Nat) : List Byte :=
  leBytes ((xs.length * w + 7) / 8) (xs.foldr (fun x acc => x % 2 ^ w + acc * 2 ^ w) 0)

/-- The first `n` elements of `w` bits of a byte list. -/
def unpackBits (w n : Nat) (bs : List Byte) : List Nat :=
  let v := leNat bs
  (List.range n).map fun i => v / 2 ^ (w * i) % 2 ^ w

/-- Two's complement value of a w-bit code. -/
def twos (w x : Nat) : Int := if x < 2 ^ (w - 1) then x else (x : Int) - (2 ^ w : Nat)

/-- The two's complement code of an integer. -/
def toTwos (w : Nat) (i : Int) : Nat := (i % (2 ^ w : Nat)).toNat

/-- The value of one element of a format without its MX or packed-weight scale (R63, R72, R73). -/
def elemNum (f : Fmt) (x : Nat) : XNum :=
  match f with
  | 11 => XNum.ofInt (twos 8 x)
  | 12 => XNum.ofInt (twos 2 x)
  | 13 => XNum.ofInt (if x % 2 = 1 then 1 else -1)
  | _ => (Fmt.layout f).decode x

/-- An MX element under its scale byte (R67). -/
def mxNum (f : Fmt) (scale x : Nat) : XNum :=
  if scale = 0xFF then .nan false else ((Fmt.layout f).decode x).scale ((scale : Int) - 127)

/-- A packed weight under its BF16 scale (R74). -/
def packedNum (f : Fmt) (scale x : Nat) : XNum := ((bf16.decode scale).mul (elemNum f x)).1

/-- The result of a conversion: the target's bits and the flags. -/
abbrev Conv := Nat × Flags

/-- Clamp an integer magnitude with a sign to [−lo, hi]; overflow and saturated where clamped. -/
def clampInt (w : Nat) (neg : Bool) (k : Nat) (inexact : Bool) : Conv :=
  let hi := 2 ^ (w - 1) - 1
  let lo := 2 ^ (w - 1)
  if neg then
    if lo < k then (toTwos w (-(lo : Int)), { overflow := true, inexact := true, saturated := true })
    else (toTwos w (-(k : Int)), { inexact := inexact })
  else
    if hi < k then (hi, { overflow := true, inexact := true, saturated := true })
    else (k, { inexact := inexact })

/-- Conversion into INT8 (R72). -/
def toInt8 (mode : Rnd) (u : Nat) (v : XNum) : Conv :=
  match v with
  | .nan _ => (0, { invalid := true })
  | .inf n => (if n then 0x80 else 0x7F, { saturated := true })
  | .fin n m e => let (k, ix) := roundInt mode u m e; clampInt 8 n k ix

/-- Conversion of w into an INT2 code against a scale (R74). -/
def toInt2 (mode : Rnd) (u : Nat) (w scale : XNum) : Conv :=
  if w.isNan || scale.isNan then (0, { invalid := true })
  else
    let (q, f) := w.div scale
    match q with
    | .nan _ => (0, { invalid := true })
    | .inf n => (if n then 2 else 1, { saturated := true })
    | .fin n m e =>
      if m = 0 then (0, f) else let (k, ix) := roundInt mode u m e; clampInt 2 n k ix

/-- Conversion of w into an INT1 code (R74): the sign bit of the source decides, a NaN gives 1 and invalid. -/
def toInt1 (w : XNum) : Conv :=
  match w with
  | .nan _ => (1, { invalid := true })
  | w => (if w.signOf then 0 else 1, {})

/-- Conversion of one element into a format that is not MX (R78 to R84). `scale` is the packed-weight scale. -/
def convElem (f : Fmt) (mode : Rnd) (u : Nat) (sat : Bool) (scale v : XNum) : Conv :=
  match f with
  | 11 => toInt8 mode u v
  | 12 => toInt2 mode u v scale
  | 13 => toInt1 v
  | _ => (Fmt.layout f).round mode u sat v

/-- floor(log2 |v|) of a finite non-zero value. -/
def log2Floor (v : XNum) : Int :=
  match v with
  | .fin _ m e => (Nat.log2 m : Int) + e
  | _ => 0

/-- The largest floor(log2) among finite non-zero elements. -/
def maxLog2 (vs : List XNum) : Option Int :=
  vs.foldl (fun acc v =>
    if v.isFinite && !v.isZero then
      match acc with
      | none => some (log2Floor v)
      | some a => some (max a (log2Floor v))
    else acc) none

/-- The scale byte of an MX block and the exponent X (R69, R71). -/
def mxScale (f : Fmt) (sat : Bool) (vs : List XNum) : Nat × Int :=
  if vs.any XNum.isNan || (!sat && vs.any XNum.isInf) then (0xFF, 0)
  else
    let x : Int := match maxLog2 vs with
      | none => -127
      | some l => max (-127) (min 127 (l - Fmt.mxEmax f))
    ((x + 127).toNat, x)

/-- One element of an MX block whose scale exponent is X (R70, R71). -/
def mxElem (f : Fmt) (mode : Rnd) (u : Nat) (x : Int) (v : XNum) : Conv :=
  let l := Fmt.layout f
  match v with
  | .inf n => (l.maxBits n, { saturated := true })
  | v =>
    let (b, fl) := l.round mode u true (v.scale (-x))
    if fl.overflow then
      if x < 127 then (b, { inexact := true })
      else (b, { overflow := true, saturated := true, inexact := true })
    else (b, fl)

/-- Convert one block of up to 32 values to an MX format (R69 to R71): the scale byte and, element by element, the code
and flags. `us` are the draws of the elements. -/
def convMx (f : Fmt) (mode : Rnd) (us : List Nat) (sat : Bool) (vs : List XNum) : Nat × List Conv :=
  let (sb, x) := mxScale f sat vs
  if sb = 0xFF then
    (0xFF, vs.map fun v => (0, { invalid := v.isNan || (v.isInf && !sat) }))
  else (sb, (vs.zip us).map fun (v, u) => mxElem f mode u x v)

/-- The FP32 bits of an exact value by round to nearest even. -/
def toFp32 (v : XNum) : Nat := (fp32.round .rne 0 false v).1

/-- An operand captured for the first-NaN record: FP32 by RTO with saturation clear (R89). -/
def captureFp32 (v : XNum) : Nat := (fp32.round .rto 0 false v).1

/-- The weight and activation pairs of Table 3.5 and R215 reason 4: weights per 64 columns w (1, 2, 4, 8), or none. -/
def pairWidth (wfmt afmt : Fmt) : Option Nat :=
  let fp8 (f : Nat) := f == 4 || f == 5
  let mx86 (f : Nat) := decide (6 ≤ f ∧ f ≤ 9)
  if fp8 wfmt && fp8 afmt then some 1
  else if mx86 wfmt && mx86 afmt then some 1
  else if wfmt == 10 && afmt == 10 then some 2
  else if wfmt == 10 && mx86 afmt then some 1
  else if wfmt == 12 && (afmt == 11 || afmt == 4) then some 4
  else if wfmt == 13 && (afmt == 11 || afmt == 4) then some 8
  else if wfmt == 2 && afmt == 2 then some 1
  else if wfmt == 3 && afmt == 3 then some 1
  else none

/-- Bytes of one feed word of 64 elements (R209). -/
def feedBytes (afmt : Fmt) : Nat := 64 * Fmt.bits afmt / 8

/-- Array-steps of one activation row (Table 3.5). -/
def arraySteps (afmt : Fmt) : Nat := if afmt == 2 || afmt == 3 then 2 else 1

/-- One step of the reflected CRC-32C register (11_stacks_and_tiles.md R253). -/
def crcBit (c : Nat) : Nat := if c % 2 = 1 then (c / 2) ^^^ 0x82F63B78 else c / 2

def crcByte (c : Nat) (b : Byte) : Nat :=
  crcBit (crcBit (crcBit (crcBit (crcBit (crcBit (crcBit (crcBit (c ^^^ b.toNat))))))))

/-- CRC-32C over bytes in address order (R253). -/
def crc32c (bs : List Byte) : Nat := (bs.foldl crcByte 0xFFFFFFFF) ^^^ 0xFFFFFFFF

/-- One step of the reflected CRC-64/XZ register (12_caddie.md R297). -/
def crc64Bit (c : Nat) : Nat := if c % 2 = 1 then (c / 2) ^^^ 0xC96C5795D7870F42 else c / 2

def crc64Byte (c : Nat) (b : Byte) : Nat :=
  crc64Bit (crc64Bit (crc64Bit (crc64Bit (crc64Bit (crc64Bit (crc64Bit (crc64Bit (c ^^^ b.toNat))))))))

/-- CRC-64/XZ over bytes. -/
def crc64xz (bs : List Byte) : Nat :=
  (bs.foldl crc64Byte 0xFFFFFFFFFFFFFFFF) ^^^ 0xFFFFFFFFFFFFFFFF

end Sys2Proof.Machine
end

