-- ==== Sys2Proof/Machine/Crypto.lean ====
section
/-! DEFINITION. SM3 (GB/T 32905) and the verification of an SM2 signature (GB/T 32918) with the distinguishing identifier
of 19_firmware_and_trust.md R442. -/

namespace Sys2Proof.Machine

/-! ## SM3 -/

/-- A big-endian number. -/
def beNat (bs : List Byte) : Nat := bs.foldl (fun v b => v * 256 + b.toNat) 0

/-- Big-endian bytes of a number. -/
def beBytes (n v : Nat) : List Byte := (leBytes n v).reverse

def rol32 (x k : Nat) : Nat := (x * 2 ^ (k % 32) + x / 2 ^ (32 - k % 32)) % 2 ^ 32

def sm3P0 (x : Nat) : Nat := x ^^^ rol32 x 9 ^^^ rol32 x 17
def sm3P1 (x : Nat) : Nat := x ^^^ rol32 x 15 ^^^ rol32 x 23

/-- The message with its padding. -/
def sm3Pad (m : List Byte) : List Byte :=
  m ++ [0x80#8] ++ List.replicate ((119 - m.length % 64) % 64) 0#8 ++ beBytes 8 (8 * m.length)

/-- The 68 words of a block, newest first. -/
def sm3Words : Nat → List Nat → List Nat
  | 0, ws => ws
  | n + 1, ws =>
    let w (i : Nat) := ws.getD (i - 1) 0
    sm3Words n ((sm3P1 (w 16 ^^^ w 9 ^^^ rol32 (w 3) 15) ^^^ rol32 (w 13) 7 ^^^ w 6) :: ws)

/-- One round over the registers A to H. -/
def sm3Round (r : List Nat) (j w w' : Nat) : List Nat :=
  match r with
  | [a, b, c, d, e, f, g, h] =>
    let t := if j < 16 then 0x79CC4519 else 0x7A879D8A
    let ss1 := rol32 ((rol32 a 12 + e + rol32 t j) % 2 ^ 32) 7
    let ss2 := ss1 ^^^ rol32 a 12
    let ff := if j < 16 then a ^^^ b ^^^ c else (a &&& b) ||| (a &&& c) ||| (b &&& c)
    let gg := if j < 16 then e ^^^ f ^^^ g else (e &&& f) ||| ((2 ^ 32 - 1 - e) &&& g)
    let tt1 := (ff + d + ss2 + w') % 2 ^ 32
    let tt2 := (gg + h + ss1 + w) % 2 ^ 32
    [tt1, a, rol32 b 9, c, sm3P0 tt2, e, rol32 f 19, g]
  | _ => r

/-- The compression of one block. -/
def sm3Block (v : List Nat) (b : List Byte) : List Nat :=
  let w0 := (List.range 16).map fun i => beNat ((b.drop (4 * i)).take 4)
  let ws := (sm3Words 52 w0.reverse).reverse
  let ws4 := ws.drop 4
  let rounds := ((List.range 64).zip (ws.zip ws4)).foldl (fun r e => sm3Round r e.1 e.2.1 (e.2.1 ^^^ e.2.2)) v
  (v.zip rounds).map fun e => e.1 ^^^ e.2

def sm3Go : Nat → List Nat → List Byte → List Nat
  | 0, v, _ => v
  | n + 1, v, bs => sm3Go n (sm3Block v (bs.take 64)) (bs.drop 64)

/-- The SM3 hash, 32 bytes. -/
def sm3 (m : List Byte) : List Byte :=
  let bs := sm3Pad m
  (sm3Go (bs.length / 64)
    [0x7380166F, 0x4914B2B9, 0x172442D7, 0xDA8A0600, 0xA96F30BC, 0x163138AA, 0xE38DEE4D, 0xB0FB0E4E] bs).flatMap (beBytes 4)

/-! ## SM2 -/

def sm2p : Nat := 0xFFFFFFFEFFFFFFFFFFFFFFFFFFFFFFFFFFFFFFFF00000000FFFFFFFFFFFFFFFF
def sm2a : Nat := sm2p - 3
def sm2b : Nat := 0x28E9FA9E9D9F5E344D5A9E4BCF6509A7F39789F515AB8F92DDBCBD414D940E93
def sm2n : Nat := 0xFFFFFFFEFFFFFFFFFFFFFFFFFFFFFFFF7203DF6B21C6052B53BBF40939D54123
def sm2g : Nat × Nat :=
  (0x32C4AE2C1F1981195F9904466A39C9948FE30BBFF2660BE1715A4589334C74C7,
    0xBC3736A2F4F6779C59BDCEE36B692153D0A9877CC62A474002DF32E52139F0A0)

/-- Powers modulo m; the fuel bounds the exponent's bits. -/
def powMod : Nat → Nat → Nat → Nat → Nat
  | 0, _, _, _ => 1
  | k + 1, b, e, m => if e = 0 then 1 else (if e % 2 = 1 then b else 1) * powMod k (b * b % m) (e / 2) m % m

def invP (x : Nat) : Nat := powMod 256 (x % sm2p) (sm2p - 2) sm2p

/-- The sum of two points; none is the point at infinity. -/
def sm2Add (s t : Option (Nat × Nat)) : Option (Nat × Nat) :=
  match s, t with
  | none, q => q
  | q, none => q
  | some (x1, y1), some (x2, y2) =>
    if x1 = x2 ∧ (y1 + y2) % sm2p = 0 then none
    else
      let l := if x1 = x2 then (3 * x1 * x1 + sm2a) * invP (2 * y1) % sm2p
        else (y2 + sm2p - y1) * invP (x2 + sm2p - x1) % sm2p
      let x := (l * l + 2 * sm2p - x1 - x2) % sm2p
      some (x, (l * (x1 + sm2p - x) + sm2p - y1) % sm2p)

def sm2Mul : Nat → Nat → Option (Nat × Nat) → Option (Nat × Nat)
  | 0, _, _ => none
  | f + 1, k, q => if k = 0 then none else sm2Add (if k % 2 = 1 then q else none) (sm2Mul f (k / 2) (sm2Add q q))

/-- Is a key a point of the curve? -/
def sm2OnCurve (k : Nat × Nat) : Bool :=
  decide (k.1 < sm2p) && decide (k.2 < sm2p) && k.2 * k.2 % sm2p == (k.1 * k.1 * k.1 + sm2a * k.1 + sm2b) % sm2p

/-- The identifier "1234567812345678" in ASCII. -/
def sm2Id : List Byte :=
  [0x31#8, 0x32#8, 0x33#8, 0x34#8, 0x35#8, 0x36#8, 0x37#8, 0x38#8, 0x31#8, 0x32#8, 0x33#8, 0x34#8, 0x35#8, 0x36#8, 0x37#8, 0x38#8]

/-- The hash of the identifier, the curve and a key. -/
def sm2Z (k : Nat × Nat) : List Byte :=
  sm3 (beBytes 2 128 ++ sm2Id ++ beBytes 32 sm2a ++ beBytes 32 sm2b ++ beBytes 32 sm2g.1 ++ beBytes 32 sm2g.2
    ++ beBytes 32 k.1 ++ beBytes 32 k.2)

/-- Does a 64-byte signature over a message verify against a key (R442)? -/
def sm2Verify (key : Nat × Nat) (msg sig : List Byte) : Bool :=
  let r := beNat (sig.take 32)
  let s := beNat ((sig.drop 32).take 32)
  let t := (r + s) % sm2n
  sm2OnCurve key && r != 0 && decide (r < sm2n) && s != 0 && decide (s < sm2n) && t != 0 &&
    match sm2Add (sm2Mul 256 s (some sm2g)) (sm2Mul 256 t (some key)) with
    | some (x, _) => (beNat (sm3 (sm2Z key ++ msg)) + x) % sm2n == r
    | none => false

/-- A public key of 64 bytes. -/
def sm2Key (bs : List Byte) : Nat × Nat := (beNat (bs.take 32), beNat ((bs.drop 32).take 32))

end Sys2Proof.Machine
end

