-- ==== Sys2Proof/Machine/Regs.lean ====
section
/-! DEFINITION. Every register of every page: its block, offset, bit fields, access codes and reset values, from the page
maps of the block chapters (02_register_pages.md R39 to R48 and the tables each block names). -/

namespace Sys2Proof.Machine

/-- Access codes (00_scope.md Table 0.4). -/
inductive Acc where
  | ro | rw | w1c | w1s | wo | rwl | rov
  deriving DecidableEq, Repr

/-- A bit field of a register, or of `cnt` registers `stride` bytes apart, at an offset within its page. -/
structure Fld where
  off : Nat
  cnt : Nat
  stride : Nat
  hi : Nat
  lo : Nat
  acc : Acc
  rst : Nat
  deriving DecidableEq, Repr

/-- The blocks that own pages (Table 2.1). Port H is an ETH page with registers of its own (14_host_port.md R361). -/
inductive Block where
  | pkg | mc | flash | sm | sns | sb | sc | ctr | ce | se | chesy | dbg | h | eth | sp | court | tu | acc | ve | st | rg | re | ump | stk | caddie
  deriving DecidableEq, Repr

namespace F

/-! Fields of the PKG page (19_firmware_and_trust.md). -/

def PKG_DEVICE_ID_device_id : Fld := ⟨0x040, 1, 4, 15, 0, .ro, 0x0⟩
def PKG_SERIAL_LO_serial : Fld := ⟨0x044, 1, 4, 31, 0, .ro, 0x0⟩
def PKG_SERIAL_HI_serial : Fld := ⟨0x048, 1, 4, 31, 0, .ro, 0x0⟩
def PKG_BOOT_boot_phase : Fld := ⟨0x04C, 1, 4, 31, 28, .rov, 0x0⟩
def PKG_BOOT_reason : Fld := ⟨0x04C, 1, 4, 27, 24, .rov, 0x0⟩
def PKG_BOOT_image_reason : Fld := ⟨0x04C, 1, 4, 23, 16, .rov, 0x0⟩
def PKG_BOOT_boot_count : Fld := ⟨0x04C, 1, 4, 15, 0, .rov, 0x0⟩
def PKG_HUB_trained : Fld := ⟨0x050, 1, 4, 3, 0, .rov, 0x0⟩
def PKG_FW_CTL_confirm_pending : Fld := ⟨0x058, 1, 4, 31, 31, .rov, 0x0⟩
def PKG_FW_CTL_fuse_counter : Fld := ⟨0x058, 1, 4, 23, 16, .rov, 0x0⟩
def PKG_FW_CTL_update_lock : Fld := ⟨0x058, 1, 4, 0, 0, .rw, 0x0⟩
def PKG_FW_CMD_go : Fld := ⟨0x05C, 1, 4, 31, 31, .wo, 0x0⟩
def PKG_FW_CMD_cmd : Fld := ⟨0x05C, 1, 4, 18, 16, .wo, 0x0⟩
def PKG_ACT_ARM_armed : Fld := ⟨0x060, 1, 4, 31, 31, .rw, 0x0⟩
def PKG_ACT_ARM_group : Fld := ⟨0x060, 1, 4, 15, 0, .rw, 0x0⟩
def PKG_ACT_NUM_LO_number : Fld := ⟨0x064, 1, 4, 31, 0, .rw, 0x0⟩
def PKG_ACT_NUM_HI_number : Fld := ⟨0x068, 1, 4, 15, 0, .rw, 0x0⟩
def PKG_ACT_STAT_outcome : Fld := ⟨0x06C, 1, 4, 31, 28, .rov, 0x0⟩
def PKG_ACT_STAT_refusal : Fld := ⟨0x06C, 1, 4, 27, 24, .rov, 0x0⟩
def PKG_HOLDUP_holdup_ok : Fld := ⟨0x070, 1, 4, 0, 0, .rov, 0x0⟩
def PKG_RETURN_go : Fld := ⟨0x074, 1, 4, 31, 31, .wo, 0x0⟩
def PKG_RETURN_kind : Fld := ⟨0x074, 1, 4, 25, 24, .wo, 0x0⟩
def PKG_RETURN_stack : Fld := ⟨0x074, 1, 4, 20, 16, .wo, 0x0⟩
def PKG_RETURN_channel : Fld := ⟨0x074, 1, 4, 4, 0, .wo, 0x0⟩

/-! Fields of the MC page (19_firmware_and_trust.md). -/

def MC_UPTIME_seconds : Fld := ⟨0x040, 1, 4, 31, 0, .rov, 0x0⟩
def MC_NONCE_nonce : Fld := ⟨0x050, 8, 4, 31, 0, .rw, 0x0⟩
def MC_ATTEST_go : Fld := ⟨0x070, 1, 4, 31, 31, .wo, 0x0⟩
def MC_ATTEST_STAT_state : Fld := ⟨0x074, 1, 4, 31, 30, .rov, 0x0⟩
def MC_ATTEST_STAT_seq : Fld := ⟨0x074, 1, 4, 15, 0, .rov, 0x0⟩
def MC_REPORT_report : Fld := ⟨0x400, 64, 4, 31, 0, .rov, 0x0⟩

/-! Fields of the FLASH page (19_firmware_and_trust.md). -/

def FLASH_CFG_mode : Fld := ⟨0x040, 1, 4, 9, 8, .rov, 0x0⟩
def FLASH_CFG_mhz : Fld := ⟨0x040, 1, 4, 7, 0, .rwl, 0xC8⟩
def FLASH_XFER_CTL_go : Fld := ⟨0x044, 1, 4, 31, 31, .wo, 0x0⟩
def FLASH_XFER_CTL_cmd : Fld := ⟨0x044, 1, 4, 18, 16, .wo, 0x0⟩
def FLASH_XFER_OFF_offset : Fld := ⟨0x048, 1, 4, 24, 0, .rw, 0x0⟩
def FLASH_XFER_STAT_state : Fld := ⟨0x04C, 1, 4, 31, 28, .rov, 0x0⟩
def FLASH_XFER_STAT_reason : Fld := ⟨0x04C, 1, 4, 23, 16, .rov, 0x0⟩
def FLASH_STAGED_fw_major : Fld := ⟨0x050, 1, 4, 31, 24, .rov, 0x0⟩
def FLASH_STAGED_fw_minor : Fld := ⟨0x050, 1, 4, 23, 16, .rov, 0x0⟩
def FLASH_STAGED_security_version : Fld := ⟨0x050, 1, 4, 15, 0, .rov, 0x0⟩
def FLASH_JOURNAL_total : Fld := ⟨0x054, 1, 4, 31, 16, .rov, 0x0⟩
def FLASH_JOURNAL_done : Fld := ⟨0x054, 1, 4, 15, 0, .rov, 0x0⟩
def FLASH_WIN_data : Fld := ⟨0x800, 512, 4, 31, 0, .rw, 0x0⟩

/-! Fields of the SM page (19_firmware_and_trust.md). -/

def SM_PUBKEY_key : Fld := ⟨0x040, 16, 4, 31, 0, .ro, 0x0⟩
def SM_CERT_LEN_bytes : Fld := ⟨0x080, 1, 4, 11, 0, .ro, 0x0⟩
def SM_CERT_cert : Fld := ⟨0x800, 512, 4, 31, 0, .ro, 0x0⟩

/-! Fields of the SNS page (18_power_and_speed.md). -/

def SNS_STATUS_thermal_paced : Fld := ⟨0x014, 1, 4, 19, 19, .rov, 0⟩
def SNS_STATUS_capping : Fld := ⟨0x014, 1, 4, 18, 18, .rov, 0⟩
def SNS_CAP_hyst : Fld := ⟨0x040, 1, 4, 23, 16, .rwl, 0x5⟩
def SNS_CAP_cap_w : Fld := ⟨0x040, 1, 4, 15, 0, .rwl, 0x1130⟩
def SNS_POWER_peak_w : Fld := ⟨0x044, 1, 4, 31, 16, .rov, 0x0⟩
def SNS_POWER_input_w : Fld := ⟨0x044, 1, 4, 15, 0, .rov, 0x0⟩
def SNS_PWR_CD_stacks_w : Fld := ⟨0x048, 1, 4, 31, 16, .rov, 0x0⟩
def SNS_PWR_CD_compute_w : Fld := ⟨0x048, 1, 4, 15, 0, .rov, 0x0⟩
def SNS_PWR_HUB_loss_w : Fld := ⟨0x04C, 1, 4, 31, 16, .rov, 0x0⟩
def SNS_PWR_HUB_hub_w : Fld := ⟨0x04C, 1, 4, 15, 0, .rov, 0x0⟩
def SNS_THERM_CTL_trip_c : Fld := ⟨0x050, 1, 4, 31, 24, .rwl, 0x6E⟩
def SNS_THERM_CTL_hot_c : Fld := ⟨0x050, 1, 4, 23, 16, .rwl, 0x69⟩
def SNS_THERM_CTL_warn_c : Fld := ⟨0x050, 1, 4, 15, 8, .rwl, 0x5F⟩
def SNS_TEMP_MAX_sensor : Fld := ⟨0x054, 1, 4, 31, 24, .rov, 0x0⟩
def SNS_TEMP_MAX_tj : Fld := ⟨0x054, 1, 4, 15, 0, .rov, 0x0⟩
def SNS_DROOP_CTL_droop_mv : Fld := ⟨0x058, 1, 4, 31, 24, .rw, 0x1E⟩
def SNS_DROOP_CTL_droop_t : Fld := ⟨0x058, 1, 4, 18, 16, .rw, 0x4⟩
def SNS_DROOP_CTL_stk_droop_mv : Fld := ⟨0x058, 1, 4, 15, 8, .rw, 0x19⟩
def SNS_DROOP_CTL_hold : Fld := ⟨0x058, 1, 4, 7, 0, .rw, 0x19⟩
def SNS_DROOP_STAT_regions : Fld := ⟨0x05C, 1, 4, 31, 0, .rov, 0x0⟩
def SNS_STK_DROOP_stacks : Fld := ⟨0x060, 1, 4, 31, 0, .rov, 0x0⟩
def SNS_VCORE_effective_mv : Fld := ⟨0x070, 4, 4, 31, 16, .rov, 0x2EE⟩
def SNS_VCORE_mode : Fld := ⟨0x070, 4, 4, 1, 0, .rw, 0x0⟩
def SNS_VMEAS_mv : Fld := ⟨0x080, 4, 4, 15, 0, .rov, 0x0⟩
def SNS_REGION_pace_mode : Fld := ⟨0x200, 32, 4, 26, 24, .rw, 0x0⟩
def SNS_REGION_pace_now : Fld := ⟨0x200, 32, 4, 22, 20, .rov, 0x0⟩
def SNS_REGION_sources : Fld := ⟨0x200, 32, 4, 19, 16, .rov, 0x0⟩
def SNS_REGION_droop_events : Fld := ⟨0x200, 32, 4, 15, 0, .rov, 0x0⟩
def SNS_TEMP_max : Fld := ⟨0x300, 68, 4, 31, 16, .rov, 0x0⟩
def SNS_TEMP_tj : Fld := ⟨0x300, 68, 4, 15, 0, .rov, 0x0⟩

/-! Fields of the SB page (20_package_and_pins.md). -/

def SB_ADDR_address : Fld := ⟨0x040, 1, 4, 14, 8, .ro, 0x0⟩
def SB_ADDR_strap : Fld := ⟨0x040, 1, 4, 2, 0, .ro, 0x0⟩
def SB_CTL_alert_sev : Fld := ⟨0x044, 1, 4, 6, 4, .rwl, 0x3⟩
def SB_CTL_pec_required : Fld := ⟨0x044, 1, 4, 0, 0, .rwl, 0x0⟩
def SB_ALERT_code : Fld := ⟨0x048, 1, 4, 31, 16, .rov, 0x0⟩
def SB_ALERT_active : Fld := ⟨0x048, 1, 4, 0, 0, .w1c, 0x0⟩
def SB_LAST_offset : Fld := ⟨0x04C, 1, 4, 31, 8, .rov, 0x0⟩
def SB_LAST_status : Fld := ⟨0x04C, 1, 4, 3, 0, .rov, 0x0⟩
def SB_COUNT_transactions : Fld := ⟨0x050, 1, 4, 31, 0, .rov, 0x0⟩

/-! Fields of the SC page (17_scorecard_and_counters.md R426). -/

def SC_STATUS_used : Fld := ⟨0x014, 1, 4, 25, 16, .rov, 0⟩
def SC_CURSOR_go : Fld := ⟨0x040, 1, 4, 31, 31, .wo, 0x0⟩
def SC_CURSOR_cmd : Fld := ⟨0x040, 1, 4, 18, 16, .wo, 0x0⟩
def SC_CURSOR_index : Fld := ⟨0x040, 1, 4, 8, 0, .wo, 0x0⟩
def SC_KEY_code : Fld := ⟨0x044, 1, 4, 31, 16, .rw, 0x0⟩
def SC_KEY_court : Fld := ⟨0x044, 1, 4, 15, 12, .rw, 0x0⟩
def SC_KEY_court_valid : Fld := ⟨0x044, 1, 4, 11, 11, .rw, 0x0⟩
def SC_WIN_STAT_valid : Fld := ⟨0x048, 1, 4, 31, 31, .rov, 0x0⟩
def SC_WIN_STAT_index : Fld := ⟨0x048, 1, 4, 8, 0, .rov, 0x0⟩
def SC_SEQ_seq : Fld := ⟨0x04C, 1, 4, 31, 0, .rov, 0x0⟩
def SC_TOTAL_count : Fld := ⟨0x050, 5, 4, 31, 0, .rov, 0x0⟩
def SC_LOST_count : Fld := ⟨0x064, 1, 4, 31, 0, .rov, 0x0⟩
def SC_EVICTED_count : Fld := ⟨0x068, 1, 4, 31, 0, .rov, 0x0⟩
def SC_RATE_SEL_entry : Fld := ⟨0x07C, 1, 4, 5, 0, .rw, 0x0⟩
def SC_RATE_CODE_valid : Fld := ⟨0x080, 1, 4, 31, 31, .rw, 0x0⟩
def SC_RATE_CODE_code : Fld := ⟨0x080, 1, 4, 15, 0, .rw, 0x0⟩
def SC_RATE_LIMIT_per_min : Fld := ⟨0x084, 1, 4, 31, 16, .rw, 0x0⟩
def SC_RATE_LIMIT_burst : Fld := ⟨0x084, 1, 4, 15, 0, .rw, 0x0⟩
def SC_CMD_save : Fld := ⟨0x088, 1, 4, 0, 0, .wo, 0x0⟩
def SC_SAVE_STAT_state : Fld := ⟨0x08C, 1, 4, 1, 0, .rov, 0x0⟩
def SC_WINDOW_record : Fld := ⟨0x400, 160, 4, 31, 0, .rov, 0x0⟩
def SC_RATE_DEF0_per_min : Fld := ⟨0x070, 1, 4, 31, 16, .rw, 0x3C⟩
def SC_RATE_DEF0_burst : Fld := ⟨0x070, 1, 4, 15, 0, .rw, 0x10⟩
def SC_RATE_DEF1_per_min : Fld := ⟨0x074, 1, 4, 31, 16, .rw, 0x258⟩
def SC_RATE_DEF1_burst : Fld := ⟨0x074, 1, 4, 15, 0, .rw, 0x40⟩
def SC_RATE_DEF2_per_min : Fld := ⟨0x078, 1, 4, 31, 16, .rw, 0x1770⟩
def SC_RATE_DEF2_burst : Fld := ⟨0x078, 1, 4, 15, 0, .rw, 0x100⟩

/-! Fields of the CTR page (17_scorecard_and_counters.md R427). -/

def CTR_CMD_go : Fld := ⟨0x040, 1, 4, 31, 31, .wo, 0x0⟩
def CTR_CMD_cmd : Fld := ⟨0x040, 1, 4, 18, 16, .wo, 0x0⟩
def CTR_STAT_frozen : Fld := ⟨0x044, 1, 4, 31, 31, .rov, 0x0⟩
def CTR_STAT_copying : Fld := ⟨0x044, 1, 4, 30, 30, .rov, 0x0⟩
def CTR_STAT_armed : Fld := ⟨0x044, 1, 4, 29, 29, .rov, 0x0⟩
def CTR_STAT_arm_outcome : Fld := ⟨0x044, 1, 4, 28, 27, .rov, 0x0⟩
def CTR_STAT_dev_short : Fld := ⟨0x044, 1, 4, 16, 16, .rov, 0x0⟩
def CTR_STAT_bank_short : Fld := ⟨0x044, 1, 4, 15, 0, .rov, 0x0⟩
def CTR_SNAP_SEQ_seq : Fld := ⟨0x048, 1, 4, 31, 0, .rov, 0x0⟩
def CTR_ARM_armed : Fld := ⟨0x090, 1, 4, 31, 31, .rw, 0x0⟩
def CTR_ARM_action : Fld := ⟨0x090, 1, 4, 18, 16, .rw, 0x0⟩
def CTR_ARM_group : Fld := ⟨0x090, 1, 4, 15, 0, .rw, 0x0⟩
def CTR_ARM_NUM_LO_number : Fld := ⟨0x094, 1, 4, 31, 0, .rw, 0x0⟩
def CTR_ARM_NUM_HI_number : Fld := ⟨0x098, 1, 4, 15, 0, .rw, 0x0⟩
def CTR_RANGE_base_lo : Fld := ⟨0x050, 4, 16, 31, 0, .rw, 0x0⟩
def CTR_RANGE_base_hi : Fld := ⟨0x054, 4, 16, 15, 0, .rw, 0x0⟩
def CTR_RANGE_limit_lo : Fld := ⟨0x058, 4, 16, 31, 0, .rw, 0x0⟩
def CTR_RANGE_limit_hi : Fld := ⟨0x05C, 4, 16, 15, 0, .rw, 0x0⟩
def CTR_BANK_DEV_base_lo : Fld := ⟨0x0A0, 1, 4, 31, 0, .rw, 0x0⟩
def CTR_BANK_DEV_base_hi : Fld := ⟨0x0A4, 1, 4, 15, 0, .rw, 0x0⟩
def CTR_BANK_DEV_tiles : Fld := ⟨0x0A4, 1, 4, 31, 24, .rw, 0x0⟩
def CTR_BANK_base_lo : Fld := ⟨0x200, 16, 8, 31, 0, .rw, 0x0⟩
def CTR_BANK_base_hi : Fld := ⟨0x204, 16, 8, 15, 0, .rw, 0x0⟩
def CTR_BANK_tiles : Fld := ⟨0x204, 16, 8, 31, 24, .rw, 0x0⟩

/-! Fields of the CE page (13_fabric_and_collectives.md R335). -/

def CE_STATUS_huddles_out : Fld := ⟨0x014, 1, 4, 31, 24, .rov, 0⟩
def CE_STATUS_runs_active : Fld := ⟨0x014, 1, 4, 23, 16, .rov, 0⟩
def CE_HG_BASE_LO_base : Fld := ⟨0x040, 1, 4, 31, 0, .rw, 0x0⟩
def CE_HG_BASE_HI_base : Fld := ⟨0x044, 1, 4, 15, 0, .rw, 0x0⟩
def CE_PLAN_BASE_LO_base : Fld := ⟨0x04C, 1, 4, 31, 0, .rw, 0x0⟩
def CE_PLAN_BASE_HI_base : Fld := ⟨0x050, 1, 4, 15, 0, .rw, 0x0⟩
def CE_RELAY_BASE_LO_base : Fld := ⟨0x078, 1, 4, 31, 0, .rw, 0x0⟩
def CE_RELAY_BASE_HI_base : Fld := ⟨0x07C, 1, 4, 15, 0, .rw, 0x0⟩
def CE_RELAY_STAGE_LO_base : Fld := ⟨0x088, 1, 4, 31, 0, .rw, 0x0⟩
def CE_RELAY_STAGE_HI_base : Fld := ⟨0x08C, 1, 4, 15, 0, .rw, 0x0⟩
def CE_HG_COUNT_entries : Fld := ⟨0x048, 1, 4, 8, 0, .rw, 0x0⟩
def CE_PLAN_COUNT_entries : Fld := ⟨0x054, 1, 4, 10, 0, .rw, 0x0⟩
def CE_HUDDLE_SEL_index : Fld := ⟨0x058, 1, 4, 7, 0, .rw, 0x0⟩
def CE_HUDDLE_LAST_LO_number_lo : Fld := ⟨0x05C, 1, 4, 31, 0, .rov, 0x0⟩
def CE_HUDDLE_LAST_HI_outcome : Fld := ⟨0x060, 1, 4, 31, 30, .rov, 0x0⟩
def CE_HUDDLE_LAST_HI_orphan : Fld := ⟨0x060, 1, 4, 29, 29, .rov, 0x0⟩
def CE_HUDDLE_LAST_HI_number_hi : Fld := ⟨0x060, 1, 4, 15, 0, .rov, 0x0⟩
def CE_HUDDLE_NUM_LO_number : Fld := ⟨0x064, 1, 4, 31, 0, .rw, 0x0⟩
def CE_HUDDLE_NUM_HI_number : Fld := ⟨0x068, 1, 4, 15, 0, .rw, 0x0⟩
def CE_HUDDLE_CMD_go : Fld := ⟨0x06C, 1, 4, 31, 31, .wo, 0x0⟩
def CE_HUDDLE_CMD_cmd : Fld := ⟨0x06C, 1, 4, 30, 29, .wo, 0x0⟩
def CE_HUDDLE_CMD_index : Fld := ⟨0x06C, 1, 4, 7, 0, .wo, 0x0⟩
def CE_NOISE_SEL_entry : Fld := ⟨0x070, 1, 4, 9, 0, .rw, 0x0⟩
def CE_NOISE_bn : Fld := ⟨0x074, 1, 4, 31, 0, .rov, 0x0⟩
def CE_RELAY_COUNT_entries : Fld := ⟨0x080, 1, 4, 31, 0, .rw, 0x0⟩
def CE_RELAY_IN_tiles : Fld := ⟨0x084, 1, 4, 31, 0, .rw, 0x0⟩
def CE_RELAY_STAGE_TILES_tiles : Fld := ⟨0x090, 1, 4, 31, 0, .rw, 0x0⟩
def CE_RELAY_NUM_LO_number : Fld := ⟨0x094, 1, 4, 31, 0, .rw, 0x0⟩
def CE_RELAY_NUM_HI_number : Fld := ⟨0x098, 1, 4, 15, 0, .rw, 0x0⟩
def CE_RELAY_ARM_armed : Fld := ⟨0x09C, 1, 4, 31, 31, .rw, 0x0⟩
def CE_RELAY_ARM_copy : Fld := ⟨0x09C, 1, 4, 30, 30, .rw, 0x0⟩
def CE_RELAY_ARM_group : Fld := ⟨0x09C, 1, 4, 15, 0, .rw, 0x0⟩
def CE_RELAY_STAT_phase : Fld := ⟨0x0A0, 1, 4, 31, 28, .rov, 0x0⟩
def CE_RELAY_STAT_tiles_in : Fld := ⟨0x0A0, 1, 4, 27, 0, .rov, 0x0⟩

/-! Fields of the SE page (15_solver_engine.md R379). -/

def SE_STATUS_jobs : Fld := ⟨0x014, 1, 4, 23, 16, .rov, 0⟩
def SE_SUBMIT_stack : Fld := ⟨0x040, 1, 4, 29, 25, .wo, 0x0⟩
def SE_SUBMIT_tier : Fld := ⟨0x040, 1, 4, 24, 24, .wo, 0x0⟩
def SE_SUBMIT_tile : Fld := ⟨0x040, 1, 4, 23, 0, .wo, 0x0⟩
def SE_PIVOT_CTL_mode : Fld := ⟨0x044, 1, 4, 31, 31, .rwl, 0x0⟩
def SE_PIVOT_CTL_tau_exp : Fld := ⟨0x044, 1, 4, 5, 0, .rwl, 0x28⟩
def SE_PIVOT_LAMBDA_lambda : Fld := ⟨0x048, 1, 4, 31, 0, .rwl, 0x35800000⟩
def SE_QUEUE_STAT_high_water : Fld := ⟨0x04C, 1, 4, 23, 16, .rov, 0x0⟩
def SE_QUEUE_STAT_used : Fld := ⟨0x04C, 1, 4, 7, 0, .rov, 0x0⟩
def SE_ACTIVE_busy : Fld := ⟨0x050, 1, 4, 31, 31, .rov, 0x0⟩
def SE_ACTIVE_court : Fld := ⟨0x050, 1, 4, 27, 24, .rov, 0x0⟩
def SE_ACTIVE_tag : Fld := ⟨0x050, 1, 4, 15, 0, .rov, 0x0⟩
def SE_LAST_DONE_status : Fld := ⟨0x054, 1, 4, 31, 28, .rov, 0x0⟩
def SE_LAST_DONE_court : Fld := ⟨0x054, 1, 4, 27, 24, .rov, 0x0⟩
def SE_LAST_DONE_reason : Fld := ⟨0x054, 1, 4, 23, 16, .rov, 0x0⟩
def SE_LAST_DONE_tag : Fld := ⟨0x054, 1, 4, 15, 0, .rov, 0x0⟩
def SE_CANCEL_go : Fld := ⟨0x058, 1, 4, 31, 31, .wo, 0x0⟩
def SE_CANCEL_court : Fld := ⟨0x058, 1, 4, 27, 24, .wo, 0x0⟩
def SE_CANCEL_tag : Fld := ⟨0x058, 1, 4, 15, 0, .wo, 0x0⟩
def SE_CANCEL_STAT_winner : Fld := ⟨0x05C, 1, 4, 31, 30, .rov, 0x0⟩
def SE_CANCEL_STAT_tag : Fld := ⟨0x05C, 1, 4, 15, 0, .rov, 0x0⟩
def SE_MISS_COUNT_misses : Fld := ⟨0x060, 1, 4, 31, 16, .rov, 0x0⟩
def SE_MISS_COUNT_refusals : Fld := ⟨0x060, 1, 4, 15, 0, .rov, 0x0⟩
def SE_PIVOT_COUNT_regularised : Fld := ⟨0x064, 1, 4, 31, 16, .rov, 0x0⟩
def SE_PIVOT_COUNT_singular : Fld := ⟨0x064, 1, 4, 15, 0, .rov, 0x0⟩

/-! Fields of the CHESY page (13_fabric_and_collectives.md R337). -/

def CHESY_STATUS_open_flows : Fld := ⟨0x014, 1, 4, 31, 16, .rov, 0⟩
def CHESY_CTL_udp_port : Fld := ⟨0x040, 1, 4, 31, 16, .rw, 0xB80D⟩
def CHESY_CTL_pair : Fld := ⟨0x040, 1, 4, 0, 0, .rw, 0x0⟩
def CHESY_RTO_retries : Fld := ⟨0x044, 1, 4, 31, 24, .rw, 0x10⟩
def CHESY_RTO_min_us : Fld := ⟨0x044, 1, 4, 15, 0, .rw, 0x14⟩
def CHESY_CWND_INIT_bytes : Fld := ⟨0x048, 1, 4, 31, 0, .rw, 0x40000⟩
def CHESY_FLOW_SEL_flow : Fld := ⟨0x04C, 1, 4, 31, 0, .rw, 0x0⟩
def CHESY_FLOW_STAT_cwnd_kib : Fld := ⟨0x050, 1, 4, 31, 16, .rov, 0x0⟩
def CHESY_FLOW_STAT_srtt_us : Fld := ⟨0x050, 1, 4, 15, 1, .rov, 0x0⟩
def CHESY_FLOW_STAT_failed : Fld := ⟨0x050, 1, 4, 0, 0, .rov, 0x0⟩
def CHESY_CMD_reopen : Fld := ⟨0x054, 1, 4, 0, 0, .wo, 0x0⟩
def CHESY_BAD_count : Fld := ⟨0x058, 1, 4, 31, 0, .rov, 0x0⟩

/-! Fields of the DBG page (20_package_and_pins.md). -/

def DBG_CTL_tap_regs : Fld := ⟨0x040, 1, 4, 0, 0, .rwl, 0x0⟩
def DBG_STAT_trst : Fld := ⟨0x044, 1, 4, 1, 1, .rov, 0x0⟩
def DBG_STAT_tap_active : Fld := ⟨0x044, 1, 4, 0, 0, .rov, 0x0⟩

/-! Fields of the H page (14_host_port.md R361). -/

def H_STATUS_mode : Fld := ⟨0x014, 1, 4, 31, 28, .rov, 0⟩
def H_STATUS_lanes : Fld := ⟨0x014, 1, 4, 27, 20, .rov, 0⟩
def H_ALLOW_prefix : Fld := ⟨0x080, 4, 4, 31, 0, .rwl, 0x0⟩
def H_ALLOW_LEN_length : Fld := ⟨0x090, 1, 4, 7, 0, .rwl, 0x0⟩
def H_SESSION_SEL_session : Fld := ⟨0x094, 1, 4, 5, 0, .rw, 0x0⟩
def H_SESSION_STAT_open : Fld := ⟨0x098, 1, 4, 31, 31, .rov, 0x0⟩
def H_SESSION_STAT_device_scope : Fld := ⟨0x098, 1, 4, 30, 30, .rov, 0x0⟩
def H_SESSION_STAT_court : Fld := ⟨0x098, 1, 4, 27, 24, .rov, 0x0⟩
def H_SESSION_STAT_commands : Fld := ⟨0x098, 1, 4, 15, 0, .rov, 0x0⟩
def H_SESSIONS_open : Fld := ⟨0x09C, 1, 4, 6, 0, .rov, 0x0⟩

/-! Fields of the ETH page (13_fabric_and_collectives.md R338). -/

def ETH_STATUS_mode : Fld := ⟨0x014, 1, 4, 31, 28, .rov, 0⟩
def ETH_STATUS_lanes : Fld := ⟨0x014, 1, 4, 27, 20, .rov, 0⟩
def ETH_STATUS_held : Fld := ⟨0x014, 1, 4, 19, 19, .rov, 0⟩
def ETH_CTL_ipv6 : Fld := ⟨0x040, 1, 4, 4, 4, .rw, 0x1⟩
def ETH_CTL_vlan_en : Fld := ⟨0x040, 1, 4, 3, 3, .rw, 0x0⟩
def ETH_CTL_pause_rx : Fld := ⟨0x040, 1, 4, 2, 2, .rw, 0x0⟩
def ETH_CTL_an_en : Fld := ⟨0x040, 1, 4, 1, 1, .rw, 0x1⟩
def ETH_CTL_fallback : Fld := ⟨0x040, 1, 4, 0, 0, .rw, 0x1⟩
def ETH_VLAN_pfc_prio : Fld := ⟨0x044, 1, 4, 18, 16, .rw, 0x0⟩
def ETH_VLAN_pcp : Fld := ⟨0x044, 1, 4, 15, 13, .rw, 0x0⟩
def ETH_VLAN_vid : Fld := ⟨0x044, 1, 4, 11, 0, .rw, 0x0⟩
def ETH_IP_BASE_base : Fld := ⟨0x048, 4, 4, 31, 0, .rw, 0x0⟩
def ETH_GATEWAY_gw : Fld := ⟨0x058, 4, 4, 31, 0, .rw, 0x0⟩
def ETH_CMD_clear_dup : Fld := ⟨0x068, 1, 4, 0, 0, .wo, 0x0⟩
def ETH_DROPS_count : Fld := ⟨0x06C, 1, 4, 31, 0, .rov, 0x0⟩
def ETH_FEC_CORR_count : Fld := ⟨0x070, 2, 4, 31, 0, .rov, 0x0⟩
def ETH_FEC_UNCORR_count : Fld := ⟨0x078, 1, 4, 31, 0, .rov, 0x0⟩

/-! Fields of the SP page (19_firmware_and_trust.md). -/

def SP_CTL_vid : Fld := ⟨0x040, 1, 4, 27, 16, .rw, 0x0⟩
def SP_CTL_vlan_en : Fld := ⟨0x040, 1, 4, 3, 3, .rw, 0x0⟩
def SP_CTL_ipv6 : Fld := ⟨0x040, 1, 4, 0, 0, .rw, 0x0⟩
def SP_IP_ip : Fld := ⟨0x044, 4, 4, 31, 0, .rw, 0x0⟩
def SP_GATEWAY_gw : Fld := ⟨0x054, 4, 4, 31, 0, .rw, 0x0⟩
def SP_ALLOW_prefix : Fld := ⟨0x064, 4, 4, 31, 0, .rwl, 0x0⟩
def SP_ALLOW_LEN_length : Fld := ⟨0x074, 1, 4, 7, 0, .rwl, 0x0⟩

/-! Fields of the COURT page (14_host_port.md R360). -/

def COURT_STATUS_court_state : Fld := ⟨0x014, 1, 4, 31, 28, .rov, 0⟩
def COURT_STATUS_stages : Fld := ⟨0x014, 1, 4, 20, 16, .rov, 0⟩
def COURT_REGIONS_regions : Fld := ⟨0x040, 1, 4, 31, 0, .rov, 0x0⟩
def COURT_EPOCH_epoch : Fld := ⟨0x044, 1, 4, 7, 0, .rov, 0x0⟩
def COURT_STEP_LO_step : Fld := ⟨0x048, 1, 4, 31, 0, .rov, 0x0⟩
def COURT_STEP_HI_step : Fld := ⟨0x04C, 1, 4, 15, 0, .rov, 0x0⟩
def COURT_TRAP_CTL_mode : Fld := ⟨0x050, 1, 4, 1, 0, .rw, 0x0⟩
def COURT_STOPPED_regions : Fld := ⟨0x054, 1, 4, 31, 0, .rov, 0x0⟩
def COURT_PERMIT_counter_read : Fld := ⟨0x058, 1, 4, 0, 0, .rw, 0x0⟩
def COURT_LAST_ABORT_winner : Fld := ⟨0x05C, 1, 4, 31, 30, .rov, 0x0⟩
def COURT_LAST_ABORT_cause : Fld := ⟨0x05C, 1, 4, 29, 28, .rov, 0x0⟩
def COURT_LAST_ABORT_code : Fld := ⟨0x05C, 1, 4, 15, 0, .rov, 0x0⟩
def COURT_COMMIT_LO_step : Fld := ⟨0x080, 1, 4, 31, 0, .rov, 0x0⟩
def COURT_COMMIT_HI_step : Fld := ⟨0x084, 1, 4, 15, 0, .rov, 0x0⟩
def COURT_TRAP0_head : Fld := ⟨0x060, 1, 4, 31, 28, .rov, 0x0⟩
def COURT_TRAP0_valid : Fld := ⟨0x060, 1, 4, 27, 27, .w1c, 0x0⟩
def COURT_TRAP0_place : Fld := ⟨0x060, 1, 4, 26, 0, .rov, 0x0⟩
def COURT_TRAP_record : Fld := ⟨0x064, 7, 4, 31, 0, .rov, 0x0⟩

/-! Fields of the TU page (04_tensor_units.md R114). -/

def TU_STATUS_repair_pending : Fld := ⟨0x014, 1, 4, 21, 21, .rov, 0⟩
def TU_STATUS_stream_active : Fld := ⟨0x014, 1, 4, 20, 20, .rov, 0⟩
def TU_STATUS_units_in_service : Fld := ⟨0x014, 1, 4, 19, 16, .rov, 4⟩
def TU_SKEW_OFFSET_skew_gen : Fld := ⟨0x040, 1, 4, 23, 16, .rov, 0x0⟩
def TU_SKEW_OFFSET_repair_stage : Fld := ⟨0x040, 1, 4, 8, 8, .rov, 0x0⟩
def TU_SKEW_OFFSET_offset : Fld := ⟨0x040, 1, 4, 5, 0, .rov, 0x0⟩
def TU_REGION_DMAX_dmax : Fld := ⟨0x044, 1, 4, 5, 0, .rov, 0xF⟩
def TU_UNIT_STATE_unit3 : Fld := ⟨0x048, 1, 4, 31, 24, .rov, 0x0⟩
def TU_UNIT_STATE_unit2 : Fld := ⟨0x048, 1, 4, 23, 16, .rov, 0x0⟩
def TU_UNIT_STATE_unit1 : Fld := ⟨0x048, 1, 4, 15, 8, .rov, 0x0⟩
def TU_UNIT_STATE_unit0 : Fld := ⟨0x048, 1, 4, 7, 0, .rov, 0x0⟩
def TU_SUBST_MAP_sub1_used : Fld := ⟨0x050, 4, 4, 15, 15, .rov, 0x0⟩
def TU_SUBST_MAP_sub1_row : Fld := ⟨0x050, 4, 4, 13, 8, .rov, 0x0⟩
def TU_SUBST_MAP_sub0_used : Fld := ⟨0x050, 4, 4, 7, 7, .rov, 0x0⟩
def TU_SUBST_MAP_sub0_row : Fld := ⟨0x050, 4, 4, 5, 0, .rov, 0x0⟩
def TU_BANK_FMT_u3_shadow : Fld := ⟨0x060, 1, 4, 31, 28, .rov, 0x0⟩
def TU_BANK_FMT_u3_active : Fld := ⟨0x060, 1, 4, 27, 24, .rov, 0x0⟩
def TU_BANK_FMT_unit2 : Fld := ⟨0x060, 1, 4, 23, 16, .rov, 0x0⟩
def TU_BANK_FMT_unit1 : Fld := ⟨0x060, 1, 4, 15, 8, .rov, 0x0⟩
def TU_BANK_FMT_unit0 : Fld := ⟨0x060, 1, 4, 7, 0, .rov, 0x0⟩
def TU_LAST_CHECK_unit : Fld := ⟨0x064, 1, 4, 31, 30, .rov, 0x0⟩
def TU_LAST_CHECK_tile : Fld := ⟨0x064, 1, 4, 29, 25, .rov, 0x0⟩
def TU_LAST_CHECK_phys_row : Fld := ⟨0x064, 1, 4, 24, 19, .rov, 0x0⟩
def TU_LAST_CHECK_found_mark : Fld := ⟨0x064, 1, 4, 18, 12, .rov, 0x0⟩
def TU_LAST_CHECK_expected_mark : Fld := ⟨0x064, 1, 4, 11, 6, .rov, 0x0⟩
def TU_LAST_CHECK_offset_used : Fld := ⟨0x064, 1, 4, 5, 0, .rov, 0x0⟩
def TU_CHECK_COUNT_conflicts : Fld := ⟨0x068, 1, 4, 31, 16, .rov, 0x0⟩
def TU_CHECK_COUNT_mismatches : Fld := ⟨0x068, 1, 4, 15, 0, .rov, 0x0⟩

/-! Fields of the ACC page (05_accumulators.md R135). -/

def ACC_STATUS_open_groups : Fld := ⟨0x014, 1, 4, 23, 16, .rov, 0⟩
def ACC_GROUP_CTL_unit_mask : Fld := ⟨0x040, 1, 4, 7, 4, .wo, 0x0⟩
def ACC_GROUP_CTL_discard : Fld := ⟨0x040, 1, 4, 0, 0, .wo, 0x0⟩
def ACC_OPEN_MAP_open : Fld := ⟨0x044, 4, 4, 31, 0, .rov, 0x0⟩
def ACC_LAST_FAULT_unit : Fld := ⟨0x054, 1, 4, 31, 30, .rov, 0x0⟩
def ACC_LAST_FAULT_tile : Fld := ⟨0x054, 1, 4, 29, 25, .rov, 0x0⟩
def ACC_LAST_FAULT_group_base : Fld := ⟨0x054, 1, 4, 24, 20, .rov, 0x0⟩
def ACC_LAST_FAULT_kind : Fld := ⟨0x054, 1, 4, 19, 16, .rov, 0x0⟩
def ACC_LAST_FAULT_row : Fld := ⟨0x054, 1, 4, 5, 0, .rov, 0x0⟩
def ACC_FLAGS_sticky : Fld := ⟨0x058, 1, 4, 7, 0, .w1c, 0x0⟩

/-! Fields of the VE page (06_vector_lanes.md R154). -/

def VE_STATUS_sticky : Fld := ⟨0x014, 1, 4, 20, 16, .rov, 0⟩
def VE_STICKY_flags : Fld := ⟨0x040, 1, 4, 4, 0, .w1c, 0x0⟩
def VE_LAST_SUMMARY_from_egress : Fld := ⟨0x044, 1, 4, 8, 8, .rov, 0x0⟩
def VE_LAST_SUMMARY_flags : Fld := ⟨0x044, 1, 4, 4, 0, .rov, 0x0⟩
def VE_LAST_ADDR_instr_addr : Fld := ⟨0x048, 1, 4, 31, 0, .rov, 0x0⟩
def VE_FLAG_TRAP_trap_mask : Fld := ⟨0x04C, 1, 4, 4, 0, .rw, 0x0⟩
def VE_TRAP_INFO_valid : Fld := ⟨0x050, 1, 4, 31, 31, .w1c, 0x0⟩
def VE_TRAP_INFO_lane : Fld := ⟨0x050, 1, 4, 23, 17, .rov, 0x0⟩
def VE_TRAP_INFO_from_egress : Fld := ⟨0x050, 1, 4, 16, 16, .rov, 0x0⟩
def VE_TRAP_INFO_flags : Fld := ⟨0x050, 1, 4, 4, 0, .rov, 0x0⟩
def VE_TRAP_ADDR_instr_addr : Fld := ⟨0x054, 1, 4, 31, 0, .rov, 0x0⟩
def VE_SEED_LO_seed_lo : Fld := ⟨0x058, 1, 4, 31, 0, .rw, 0x0⟩
def VE_SEED_HI_seed_hi : Fld := ⟨0x05C, 1, 4, 31, 0, .rw, 0x0⟩
def VE_SEED_CTL_apply : Fld := ⟨0x060, 1, 4, 0, 0, .wo, 0x0⟩

/-! Fields of the ST page (07_statistics_tap.md R172). -/

def ST_STATUS_armed : Fld := ⟨0x014, 1, 4, 31, 24, .rov, 0⟩
def ST_STATUS_pair1 : Fld := ⟨0x014, 1, 4, 23, 22, .rov, 0⟩
def ST_STATUS_pair0 : Fld := ⟨0x014, 1, 4, 21, 20, .rov, 0⟩
def ST_PAIR_TILE_tap_index : Fld := ⟨0x040, 2, 4, 31, 29, .rov, 0x0⟩
def ST_PAIR_TILE_kind : Fld := ⟨0x040, 2, 4, 28, 28, .rov, 0x0⟩
def ST_PAIR_TILE_layer_id : Fld := ⟨0x040, 2, 4, 27, 16, .rov, 0x0⟩
def ST_PAIR_TILE_tile : Fld := ⟨0x040, 2, 4, 15, 0, .rov, 0x0⟩
def ST_PAIR_COUNT_samples : Fld := ⟨0x048, 2, 4, 31, 0, .rov, 0x0⟩
def ST_RING_STAT_high_water : Fld := ⟨0x050, 1, 4, 31, 16, .rov, 0x0⟩
def ST_RING_STAT_used : Fld := ⟨0x050, 1, 4, 15, 0, .rov, 0x0⟩
def ST_DROPPED_rows : Fld := ⟨0x054, 1, 4, 31, 0, .rov, 0x0⟩
def ST_INCOMPLETE_rows : Fld := ⟨0x058, 1, 4, 31, 0, .rov, 0x0⟩
def ST_LAST_DRAIN_valid : Fld := ⟨0x05C, 1, 4, 31, 31, .rov, 0x0⟩
def ST_LAST_DRAIN_kind : Fld := ⟨0x05C, 1, 4, 30, 30, .rov, 0x0⟩
def ST_LAST_DRAIN_copy : Fld := ⟨0x05C, 1, 4, 29, 29, .rov, 0x0⟩
def ST_LAST_DRAIN_layer_id : Fld := ⟨0x05C, 1, 4, 28, 16, .rov, 0x0⟩
def ST_LAST_DRAIN_step_low : Fld := ⟨0x05C, 1, 4, 15, 0, .rov, 0x0⟩

/-! Fields of the RG page (10_spatial_pipelines.md R246). -/

def RG_STATUS_held : Fld := ⟨0x014, 1, 4, 27, 27, .rov, 0⟩
def RG_STATUS_task_running : Fld := ⟨0x014, 1, 4, 26, 26, .rov, 0⟩
def RG_STATUS_spilling : Fld := ⟨0x014, 1, 4, 25, 25, .rov, 0⟩
def RG_STATUS_bench_queued : Fld := ⟨0x014, 1, 4, 24, 16, .rov, 0⟩
def RG_DEADLINE_deadline_us : Fld := ⟨0x040, 1, 4, 31, 0, .rw, 0x0⟩
def RG_DEADLINE_INFO_valid : Fld := ⟨0x044, 1, 4, 31, 31, .w1c, 0x0⟩
def RG_DEADLINE_INFO_ended_after : Fld := ⟨0x044, 1, 4, 30, 30, .rov, 0x0⟩
def RG_DEADLINE_INFO_kind : Fld := ⟨0x044, 1, 4, 29, 27, .rov, 0x0⟩
def RG_DEADLINE_INFO_in_task : Fld := ⟨0x044, 1, 4, 26, 26, .rov, 0x0⟩
def RG_DEADLINE_INFO_pb : Fld := ⟨0x044, 1, 4, 25, 18, .rov, 0x0⟩
def RG_DEADLINE_ADDR_instr_addr : Fld := ⟨0x048, 1, 4, 31, 0, .rov, 0x0⟩
def RG_ILLEGAL_valid : Fld := ⟨0x04C, 1, 4, 31, 31, .w1c, 0x0⟩
def RG_ILLEGAL_in_task : Fld := ⟨0x04C, 1, 4, 30, 30, .rov, 0x0⟩
def RG_ILLEGAL_reason : Fld := ⟨0x04C, 1, 4, 7, 0, .rov, 0x0⟩
def RG_ILLEGAL_ADDR_instr_addr : Fld := ⟨0x050, 1, 4, 31, 0, .rov, 0x0⟩
def RG_BENCH_STAT_running_tag : Fld := ⟨0x054, 1, 4, 31, 16, .rov, 0x0⟩
def RG_BENCH_STAT_running : Fld := ⟨0x054, 1, 4, 15, 15, .rov, 0x0⟩
def RG_BENCH_STAT_high_water : Fld := ⟨0x054, 1, 4, 8, 0, .rov, 0x0⟩
def RG_VALVE_CTL_high_pct : Fld := ⟨0x058, 1, 4, 14, 8, .rw, 0x4B⟩
def RG_VALVE_CTL_low_pct : Fld := ⟨0x058, 1, 4, 6, 0, .rw, 0x32⟩
def RG_SET_COUNT_recompute_marks : Fld := ⟨0x05C, 1, 4, 31, 16, .rov, 0x0⟩
def RG_SET_COUNT_sets : Fld := ⟨0x05C, 1, 4, 10, 0, .rov, 0x0⟩
def RG_ARENA_BASE_LO_base : Fld := ⟨0x060, 1, 4, 31, 0, .rw, 0x0⟩
def RG_ARENA_BASE_HI_base : Fld := ⟨0x064, 1, 4, 15, 0, .rw, 0x0⟩
def RG_DEEP_BASE_LO_base : Fld := ⟨0x06C, 1, 4, 31, 0, .rw, 0x0⟩
def RG_DEEP_BASE_HI_base : Fld := ⟨0x070, 1, 4, 15, 0, .rw, 0x0⟩
def RG_ARENA_TILES_tiles : Fld := ⟨0x068, 1, 4, 31, 0, .rw, 0x0⟩
def RG_DEEP_TILES_tiles : Fld := ⟨0x074, 1, 4, 31, 0, .rw, 0x0⟩
def RG_ARENA_FILL_tiles : Fld := ⟨0x078, 1, 4, 31, 0, .rov, 0x0⟩
def RG_DEEP_FILL_tiles : Fld := ⟨0x07C, 1, 4, 31, 0, .rov, 0x0⟩
def RG_SPILL_EN_LO_enable : Fld := ⟨0x080, 1, 4, 31, 0, .rw, 0x0⟩
def RG_SPILL_EN_HI_enable : Fld := ⟨0x084, 1, 4, 31, 0, .rw, 0x0⟩
def RG_PB_SEL_index : Fld := ⟨0x088, 1, 4, 5, 0, .rw, 0x0⟩
def RG_PB_STAT_valid : Fld := ⟨0x08C, 1, 4, 31, 31, .rov, 0x0⟩
def RG_PB_STAT_producer_waiting : Fld := ⟨0x08C, 1, 4, 30, 30, .rov, 0x0⟩
def RG_PB_STAT_spilled : Fld := ⟨0x08C, 1, 4, 23, 12, .rov, 0x0⟩
def RG_PB_STAT_stored : Fld := ⟨0x08C, 1, 4, 11, 0, .rov, 0x0⟩
def RG_WAIT_kind : Fld := ⟨0x090, 1, 4, 31, 29, .rov, 0x0⟩
def RG_WAIT_elapsed_us : Fld := ⟨0x090, 1, 4, 28, 0, .rov, 0x0⟩
def RG_ROOT_LAST_outcome : Fld := ⟨0x094, 1, 4, 31, 30, .rov, 0x0⟩
def RG_ROOT_LAST_staleness : Fld := ⟨0x094, 1, 4, 15, 0, .rov, 0x0⟩

/-! Fields of the RE page (08_root_engines.md R195). -/

def RE_STATUS_queue_used : Fld := ⟨0x014, 1, 4, 23, 16, .rov, 0⟩
def RE_QUEUE_STAT_high_water : Fld := ⟨0x040, 1, 4, 23, 16, .rov, 0x0⟩
def RE_QUEUE_STAT_used : Fld := ⟨0x040, 1, 4, 7, 0, .rov, 0x0⟩
def RE_ACTIVE_busy : Fld := ⟨0x044, 1, 4, 31, 31, .rov, 0x0⟩
def RE_ACTIVE_kind : Fld := ⟨0x044, 1, 4, 30, 30, .rov, 0x0⟩
def RE_ACTIVE_method : Fld := ⟨0x044, 1, 4, 29, 28, .rov, 0x0⟩
def RE_ACTIVE_block : Fld := ⟨0x044, 1, 4, 27, 20, .rov, 0x0⟩
def RE_ACTIVE_iteration : Fld := ⟨0x044, 1, 4, 19, 12, .rov, 0x0⟩
def RE_ACTIVE_layer_id : Fld := ⟨0x044, 1, 4, 11, 0, .rov, 0x0⟩
def RE_ACTIVE_RESIDUAL_residual : Fld := ⟨0x048, 1, 4, 31, 0, .rov, 0x0⟩
def RE_LAST_DONE_outcome : Fld := ⟨0x04C, 1, 4, 31, 29, .rov, 0x0⟩
def RE_LAST_DONE_kind : Fld := ⟨0x04C, 1, 4, 28, 28, .rov, 0x0⟩
def RE_LAST_DONE_block : Fld := ⟨0x04C, 1, 4, 27, 20, .rov, 0x0⟩
def RE_LAST_DONE_iterations : Fld := ⟨0x04C, 1, 4, 19, 12, .rov, 0x0⟩
def RE_LAST_DONE_layer_id : Fld := ⟨0x04C, 1, 4, 11, 0, .rov, 0x0⟩
def RE_LAST_RESIDUAL_residual : Fld := ⟨0x050, 1, 4, 31, 0, .rov, 0x0⟩
def RE_LAST_STEP_LO_stat_step_lo : Fld := ⟨0x054, 1, 4, 31, 0, .rov, 0x0⟩
def RE_LAST_STEP_HI_stat_step_hi : Fld := ⟨0x058, 1, 4, 15, 0, .rov, 0x0⟩
def RE_WARM_COUNT_warm_rejected : Fld := ⟨0x05C, 1, 4, 31, 16, .rov, 0x0⟩
def RE_WARM_COUNT_warm_failed : Fld := ⟨0x05C, 1, 4, 15, 0, .rov, 0x0⟩
def RE_FAIL_COUNT_nonconverged : Fld := ⟨0x060, 1, 4, 31, 16, .rov, 0x0⟩
def RE_FAIL_COUNT_refused : Fld := ⟨0x060, 1, 4, 15, 0, .rov, 0x0⟩

/-! Fields of the UMP page (16_fault_containment.md R406). -/

def UMP_STATUS_shadowing : Fld := ⟨0x014, 1, 4, 26, 26, .rov, 0⟩
def UMP_STATUS_voting : Fld := ⟨0x014, 1, 4, 25, 25, .rov, 0⟩
def UMP_STATUS_spare_used : Fld := ⟨0x014, 1, 4, 24, 24, .rov, 0⟩
def UMP_STATUS_working : Fld := ⟨0x014, 1, 4, 20, 16, .rov, 0⟩
def UMP_CTL_window_s : Fld := ⟨0x040, 1, 4, 31, 16, .rwl, 0xE10⟩
def UMP_CTL_probation_jobs : Fld := ⟨0x040, 1, 4, 15, 8, .rwl, 0x4⟩
def UMP_CTL_min_clusters : Fld := ⟨0x040, 1, 4, 7, 4, .rwl, 0x8⟩
def UMP_SAMPLE_k : Fld := ⟨0x044, 1, 4, 4, 0, .rw, 0x10⟩
def UMP_LAST_VOTE_outcome : Fld := ⟨0x048, 1, 4, 31, 30, .rov, 0x0⟩
def UMP_LAST_VOTE_path : Fld := ⟨0x048, 1, 4, 29, 28, .rov, 0x0⟩
def UMP_LAST_VOTE_sampled : Fld := ⟨0x048, 1, 4, 27, 27, .rov, 0x0⟩
def UMP_LAST_VOTE_origin : Fld := ⟨0x048, 1, 4, 26, 22, .rov, 0x0⟩
def UMP_LAST_VOTE_unit : Fld := ⟨0x048, 1, 4, 21, 20, .rov, 0x0⟩
def UMP_LAST_VOTE_x : Fld := ⟨0x048, 1, 4, 19, 15, .rov, 0x0⟩
def UMP_LAST_VOTE_y : Fld := ⟨0x048, 1, 4, 14, 10, .rov, 0x0⟩
def UMP_LAST_VOTE_tile : Fld := ⟨0x048, 1, 4, 9, 5, .rov, 0x0⟩
def UMP_LAST_ADDR_instr_addr : Fld := ⟨0x04C, 1, 4, 31, 0, .rov, 0x0⟩
def UMP_STRIKE_SEL_index : Fld := ⟨0x050, 1, 4, 6, 0, .rw, 0x0⟩
def UMP_STRIKES_total : Fld := ⟨0x054, 1, 4, 31, 16, .rov, 0x0⟩
def UMP_STRIKES_live : Fld := ⟨0x054, 1, 4, 1, 0, .rov, 0x0⟩
def UMP_CMD_go : Fld := ⟨0x058, 1, 4, 31, 31, .wo, 0x0⟩
def UMP_CMD_cmd : Fld := ⟨0x058, 1, 4, 18, 16, .wo, 0x0⟩
def UMP_CMD_cluster : Fld := ⟨0x058, 1, 4, 4, 0, .wo, 0x0⟩
def UMP_PROBATION_cluster : Fld := ⟨0x05C, 1, 4, 31, 27, .rov, 0x1F⟩
def UMP_PROBATION_jobs_done : Fld := ⟨0x05C, 1, 4, 23, 16, .rov, 0x0⟩
def UMP_LMAP_map : Fld := ⟨0x060, 4, 4, 31, 0, .rov, 0x0⟩
def UMP_RETIRED_clusters : Fld := ⟨0x070, 1, 4, 16, 0, .rov, 0x0⟩
def UMP_RE_ROWS_LO_rows : Fld := ⟨0x074, 1, 4, 31, 0, .rov, 0x0⟩
def UMP_RE_ROWS_HI_rows : Fld := ⟨0x078, 1, 4, 31, 0, .rov, 0x0⟩

/-! Fields of the STK page (11_stacks_and_tiles.md R271). -/

def STK_STATUS_rebuilding : Fld := ⟨0x014, 1, 4, 23, 23, .rov, 0⟩
def STK_STATUS_near_spare_used : Fld := ⟨0x014, 1, 4, 22, 22, .rov, 0⟩
def STK_STATUS_deep_spare_used : Fld := ⟨0x014, 1, 4, 21, 21, .rov, 0⟩
def STK_STATUS_scrub_active : Fld := ⟨0x014, 1, 4, 20, 20, .rov, 0⟩
def STK_NEAR_RETIRED_retired : Fld := ⟨0x040, 1, 4, 16, 0, .rov, 0x0⟩
def STK_DEEP_RETIRED_retired : Fld := ⟨0x044, 1, 4, 8, 0, .rov, 0x0⟩
def STK_SPARE_MAP_near_used : Fld := ⟨0x048, 1, 4, 31, 31, .rov, 0x0⟩
def STK_SPARE_MAP_near_index : Fld := ⟨0x048, 1, 4, 27, 24, .rov, 0x0⟩
def STK_SPARE_MAP_deep_used : Fld := ⟨0x048, 1, 4, 23, 23, .rov, 0x0⟩
def STK_SPARE_MAP_deep_index : Fld := ⟨0x048, 1, 4, 18, 16, .rov, 0x0⟩
def STK_REBUILD_pending : Fld := ⟨0x04C, 1, 4, 31, 0, .rov, 0x0⟩
def STK_RANGE_SEL_entry : Fld := ⟨0x050, 1, 4, 5, 0, .rw, 0x0⟩
def STK_RANGE_BASE_valid : Fld := ⟨0x054, 1, 4, 25, 25, .rw, 0x0⟩
def STK_RANGE_BASE_tier : Fld := ⟨0x054, 1, 4, 24, 24, .rw, 0x0⟩
def STK_RANGE_BASE_base_tile : Fld := ⟨0x054, 1, 4, 23, 0, .rw, 0x0⟩
def STK_RANGE_TILES_tiles : Fld := ⟨0x058, 1, 4, 24, 0, .rw, 0x0⟩
def STK_RANGE_TAG_tag : Fld := ⟨0x05C, 1, 4, 11, 0, .rw, 0x0⟩
def STK_RANGE_CTL_apply : Fld := ⟨0x060, 1, 4, 0, 0, .wo, 0x0⟩
def STK_LAST_FAIL_LO_addr_lo : Fld := ⟨0x064, 1, 4, 31, 0, .rov, 0x0⟩
def STK_LAST_FAIL_HI_addr_hi : Fld := ⟨0x068, 1, 4, 15, 0, .rov, 0x0⟩
def STK_LAST_FAIL_INFO_kind : Fld := ⟨0x06C, 1, 4, 31, 28, .rov, 0x0⟩
def STK_LAST_FAIL_INFO_court : Fld := ⟨0x06C, 1, 4, 27, 24, .rov, 0x0⟩
def STK_LAST_FAIL_INFO_tier : Fld := ⟨0x06C, 1, 4, 23, 23, .rov, 0x0⟩
def STK_LAST_FAIL_INFO_channel : Fld := ⟨0x06C, 1, 4, 22, 18, .rov, 0x0⟩
def STK_LAST_FAIL_INFO_reader : Fld := ⟨0x06C, 1, 4, 17, 15, .rov, 0x0⟩
def STK_LAST_FAIL_INFO_generation : Fld := ⟨0x06C, 1, 4, 14, 0, .rov, 0x0⟩
def STK_RETIRE_CTL_window_min : Fld := ⟨0x070, 1, 4, 31, 16, .rwl, 0x3C⟩
def STK_RETIRE_CTL_strike_limit : Fld := ⟨0x070, 1, 4, 7, 0, .rwl, 0x8⟩
def STK_STRIKES_total : Fld := ⟨0x074, 1, 4, 31, 16, .rov, 0x0⟩
def STK_STRIKES_worst_channel : Fld := ⟨0x074, 1, 4, 12, 8, .rov, 0x0⟩
def STK_STRIKES_worst_count : Fld := ⟨0x074, 1, 4, 7, 0, .rov, 0x0⟩
def STK_SCRUB_CTL_period_h : Fld := ⟨0x078, 1, 4, 31, 16, .rw, 0x18⟩
def STK_SCRUB_CTL_enable : Fld := ⟨0x078, 1, 4, 0, 0, .rw, 0x1⟩
def STK_SCRUB_STAT_passes : Fld := ⟨0x07C, 1, 4, 31, 0, .rov, 0x0⟩
def STK_ARB_caddie_weight : Fld := ⟨0x080, 1, 4, 7, 4, .rw, 0x1⟩
def STK_ARB_port_weight : Fld := ⟨0x080, 1, 4, 3, 0, .rw, 0x1⟩
def STK_RETIRE_CMD_go : Fld := ⟨0x084, 1, 4, 31, 31, .wo, 0x0⟩
def STK_RETIRE_CMD_deep : Fld := ⟨0x084, 1, 4, 8, 8, .wo, 0x0⟩
def STK_RETIRE_CMD_channel : Fld := ⟨0x084, 1, 4, 4, 0, .wo, 0x0⟩

/-! Fields of the CADDIE page (12_caddie.md R304). -/

def CADDIE_STATUS_relocated : Fld := ⟨0x014, 1, 4, 18, 18, .rov, 0⟩
def CADDIE_STATUS_parity_on : Fld := ⟨0x014, 1, 4, 17, 17, .rov, 0⟩
def CADDIE_STATUS_window_open : Fld := ⟨0x014, 1, 4, 16, 16, .rov, 0⟩
def CADDIE_CTL_digest_every : Fld := ⟨0x040, 1, 4, 31, 16, .rw, 0x0⟩
def CADDIE_CTL_parity_en : Fld := ⟨0x040, 1, 4, 2, 2, .rw, 0x0⟩
def CADDIE_CTL_mode : Fld := ⟨0x040, 1, 4, 1, 0, .rw, 0x0⟩
def CADDIE_PT_BASE_LO_base : Fld := ⟨0x044, 1, 4, 31, 0, .rw, 0x0⟩
def CADDIE_PT_BASE_HI_base : Fld := ⟨0x048, 1, 4, 15, 0, .rw, 0x0⟩
def CADDIE_PT_COUNT_entries : Fld := ⟨0x04C, 1, 4, 12, 0, .rw, 0x0⟩
def CADDIE_COMMIT_STAT_state : Fld := ⟨0x050, 1, 4, 31, 28, .rov, 0x0⟩
def CADDIE_COMMIT_STAT_pages_left : Fld := ⟨0x050, 1, 4, 27, 16, .rov, 0x0⟩
def CADDIE_COMMIT_STAT_last_outcome : Fld := ⟨0x050, 1, 4, 15, 12, .rov, 0x0⟩
def CADDIE_COMMIT_STEP_LO_step : Fld := ⟨0x054, 1, 4, 31, 0, .rov, 0x0⟩
def CADDIE_COMMIT_STEP_HI_step : Fld := ⟨0x058, 1, 4, 15, 0, .rov, 0x0⟩
def CADDIE_PENDING_STEP_LO_step : Fld := ⟨0x05C, 1, 4, 31, 0, .rov, 0x0⟩
def CADDIE_PENDING_STEP_HI_step : Fld := ⟨0x060, 1, 4, 15, 0, .rov, 0x0⟩
def CADDIE_READY_DEADLINE_deadline_us : Fld := ⟨0x064, 1, 4, 31, 0, .rw, 0x0⟩
def CADDIE_CMD_go : Fld := ⟨0x068, 1, 4, 31, 31, .wo, 0x0⟩
def CADDIE_CMD_cmd : Fld := ⟨0x068, 1, 4, 18, 16, .wo, 0x0⟩
def CADDIE_CMD_device_id : Fld := ⟨0x068, 1, 4, 15, 0, .wo, 0x0⟩
def CADDIE_STAGE_STAT_high_water : Fld := ⟨0x06C, 1, 4, 31, 16, .rov, 0x0⟩
def CADDIE_STAGE_STAT_used : Fld := ⟨0x06C, 1, 4, 15, 0, .rov, 0x0⟩
def CADDIE_PAR_CTL_member : Fld := ⟨0x070, 1, 4, 6, 4, .rw, 0x0⟩
def CADDIE_PAR_CTL_n : Fld := ⟨0x070, 1, 4, 3, 0, .rw, 0x0⟩
def CADDIE_PAR_TILES_chunk_tiles : Fld := ⟨0x074, 1, 4, 24, 0, .rw, 0x0⟩
def CADDIE_PAR_BASE_LO_base : Fld := ⟨0x078, 1, 4, 31, 0, .rw, 0x0⟩
def CADDIE_PAR_BASE_HI_base : Fld := ⟨0x07C, 1, 4, 15, 0, .rw, 0x0⟩
def CADDIE_RELOC_valid : Fld := ⟨0x090, 1, 4, 31, 31, .rw, 0x0⟩
def CADDIE_RELOC_target : Fld := ⟨0x090, 1, 4, 4, 0, .rw, 0x0⟩
def CADDIE_RELOC_BASE_LO_base : Fld := ⟨0x094, 1, 4, 31, 0, .rw, 0x0⟩
def CADDIE_RELOC_BASE_HI_base : Fld := ⟨0x098, 1, 4, 15, 0, .rw, 0x0⟩
def CADDIE_RELOC_TILES_tiles : Fld := ⟨0x09C, 1, 4, 31, 0, .rw, 0x0⟩
def CADDIE_LAST_EVENT_kind : Fld := ⟨0x0A0, 1, 4, 31, 28, .rov, 0x0⟩
def CADDIE_LAST_EVENT_court : Fld := ⟨0x0A0, 1, 4, 27, 24, .rov, 0x0⟩
def CADDIE_LAST_EVENT_page : Fld := ⟨0x0A0, 1, 4, 23, 12, .rov, 0x0⟩
def CADDIE_DIGEST_STAT_state : Fld := ⟨0x0A4, 1, 4, 31, 28, .rov, 0x0⟩
def CADDIE_DIGEST_STAT_repairs : Fld := ⟨0x0A4, 1, 4, 27, 16, .rov, 0x0⟩
def CADDIE_DIGEST_STAT_passes : Fld := ⟨0x0A4, 1, 4, 15, 0, .rov, 0x0⟩
def CADDIE_REBUILD_pending : Fld := ⟨0x0A8, 1, 4, 31, 0, .rov, 0x0⟩
def CADDIE_PAR_ID_id_hi : Fld := ⟨0x080, 4, 4, 31, 16, .rw, 0x0⟩
def CADDIE_PAR_ID_id_lo : Fld := ⟨0x080, 4, 4, 15, 0, .rw, 0x0⟩

end F

/-! Error bits of PAGE_ERR (block chapters; 16_fault_containment.md Table 16.7). -/
namespace Err

def tu_stream_order : Nat := 22
def tu_skew_changed : Nat := 21
def tu_format_mismatch : Nat := 20
def tu_drain_length : Nat := 19
def tu_illegal_width : Nat := 18
def tu_mark_conflict : Nat := 17
def tu_mark_mismatch : Nat := 16
def acc_restore_image : Nat := 24
def acc_restore_skew : Nat := 23
def acc_join_mark : Nat := 22
def acc_open_read : Nat := 21
def acc_group_overflow : Nat := 20
def acc_no_group : Nat := 19
def acc_group_range : Nat := 18
def acc_format_mismatch : Nat := 17
def acc_tile_collision : Nat := 16
def ve_restore_image : Nat := 19
def ve_flag_trap : Nat := 18
def ve_store_range : Nat := 17
def ve_format_mismatch : Nat := 16
def st_tap_discarded : Nat := 24
def st_tap_nonfinite : Nat := 23
def st_tap_no_samples : Nat := 22
def st_tap_incomplete : Nat := 21
def st_tap_dropped : Nat := 20
def st_tap_format : Nat := 19
def st_tap_order : Nat := 18
def st_tap_overlap : Nat := 17
def st_tap_descriptor : Nat := 16
def re_root_cold_start : Nat := 23
def re_root_discarded : Nat := 22
def re_root_superseded : Nat := 21
def re_root_nonconverged : Nat := 20
def re_root_input_nonfinite : Nat := 19
def re_root_record : Nat := 18
def re_root_queue_full : Nat := 17
def re_root_descriptor : Nat := 16
def rg_cluster_absent : Nat := 25
def rg_root_wait_expired : Nat := 24
def rg_root_stale : Nat := 23
def rg_root_absent : Nat := 22
def rg_valve_order : Nat := 21
def rg_valve_set : Nat := 20
def rg_pb_format : Nat := 19
def rg_stream_map : Nat := 18
def rg_stage_deadline : Nat := 17
def rg_illegal_instruction : Nat := 16
def stk_stack_retired : Nat := 26
def stk_lost_read : Nat := 25
def stk_range_table : Nat := 24
def stk_channel_retired : Nat := 23
def stk_address_range : Nat := 22
def stk_court_range : Nat := 21
def stk_tag_mismatch : Nat := 20
def stk_scrub_poison : Nat := 19
def stk_path_fault : Nat := 18
def stk_check_poison : Nat := 17
def stk_check_retry : Nat := 16
def caddie_gradient_stray : Nat := 30
def caddie_window_broken : Nat := 29
def caddie_caddie_discarded : Nat := 28
def caddie_state_lost : Nat := 27
def caddie_parity_config : Nat := 26
def caddie_digest_split : Nat := 25
def caddie_digest_repair : Nat := 24
def caddie_ready_timeout : Nat := 23
def caddie_caddie_nonfinite : Nat := 22
def caddie_version_absent : Nat := 21
def caddie_root_wait_expired : Nat := 20
def caddie_root_stale : Nat := 19
def caddie_root_absent : Nat := 18
def caddie_hyper_record : Nat := 17
def caddie_page_descriptor : Nat := 16
def ce_relay_failed : Nat := 26
def ce_relay_space : Nat := 25
def ce_stats_undefined : Nat := 24
def ce_coll_failed : Nat := 23
def ce_plan_entry : Nat := 22
def ce_hg_entry : Nat := 21
def ce_huddle_orphan : Nat := 20
def ce_huddle_failed : Nat := 19
def ce_huddle_stale : Nat := 18
def chesy_bad_message : Nat := 18
def chesy_credit_violation : Nat := 17
def chesy_flow_failed : Nat := 16
def eth_duplicate_id : Nat := 19
def eth_fec_uncorrectable : Nat := 18
def eth_lane_out : Nat := 17
def eth_link_down : Nat := 16
def court_court_aborted : Nat := 18
def court_step_stale : Nat := 17
def court_nan_trap : Nat := 16
def h_session_refused : Nat := 20
def se_se_delta : Nat := 25
def se_se_failed : Nat := 24
def se_se_cancelled : Nat := 23
def se_se_restructure : Nat := 22
def se_se_nonconverged : Nat := 21
def se_se_input_nonfinite : Nat := 20
def se_se_regularised : Nat := 19
def se_se_pivot : Nat := 18
def se_se_deadline : Nat := 17
def se_se_refused : Nat := 16
def ump_probation_passed : Nat := 25
def ump_probation_failed : Nat := 24
def ump_region_retired : Nat := 23
def ump_cluster_short : Nat := 22
def ump_cluster_retired : Nat := 21
def ump_substitute : Nat := 20
def ump_full_shadow : Nat := 19
def ump_umpire_undecided : Nat := 18
def ump_sample_mismatch : Nat := 17
def ump_vote_lost : Nat := 16
def sns_thermal_trip : Nat := 21
def sns_rail_fault : Nat := 20
def sns_droop_sustained : Nat := 19
def sns_cap_unmet : Nat := 18
def sns_thermal_hot : Nat := 17
def sns_thermal_warn : Nat := 16
def pkg_recovery : Nat := 20
def pkg_start_repair : Nat := 19
def pkg_confirm_pending : Nat := 18
def pkg_act_restart : Nat := 17
def pkg_act_dropped : Nat := 16
def flash_copy_resumed : Nat := 18
def flash_flash_error : Nat := 17
def flash_image_rejected : Nat := 16
def sp_sp_refused : Nat := 17
def sp_link_down : Nat := 16
def sb_sb_pec : Nat := 18
def sb_sb_denied : Nat := 17
def sb_sb_protocol : Nat := 16
def dbg_tap_refused : Nat := 16
def h_fec_uncorrectable : Nat := 18
def h_lane_out : Nat := 17
def h_link_down : Nat := 16

/-- Header bits (Table 2.9). -/
def overflow : Nat := 0
def undefinedOffset : Nat := 2
def retiredAccess : Nat := 3
def courtViolation : Nat := 4
def accessDenied : Nat := 5
def lockViolation : Nat := 6

end Err

/-- The block fields of each page, PAGE_STATUS fields first. -/
def Block.fields : Block → List Fld
  | .pkg =>
    [F.PKG_DEVICE_ID_device_id, F.PKG_SERIAL_LO_serial, F.PKG_SERIAL_HI_serial, F.PKG_BOOT_boot_phase, F.PKG_BOOT_reason, F.PKG_BOOT_image_reason, F.PKG_BOOT_boot_count, F.PKG_HUB_trained, F.PKG_FW_CTL_confirm_pending, F.PKG_FW_CTL_fuse_counter, F.PKG_FW_CTL_update_lock, F.PKG_FW_CMD_go, F.PKG_FW_CMD_cmd, F.PKG_ACT_ARM_armed, F.PKG_ACT_ARM_group, F.PKG_ACT_NUM_LO_number, F.PKG_ACT_NUM_HI_number, F.PKG_ACT_STAT_outcome, F.PKG_ACT_STAT_refusal, F.PKG_HOLDUP_holdup_ok, F.PKG_RETURN_go, F.PKG_RETURN_kind, F.PKG_RETURN_stack, F.PKG_RETURN_channel]
  | .mc =>
    [F.MC_UPTIME_seconds, F.MC_NONCE_nonce, F.MC_ATTEST_go, F.MC_ATTEST_STAT_state, F.MC_ATTEST_STAT_seq, F.MC_REPORT_report]
  | .flash =>
    [F.FLASH_CFG_mode, F.FLASH_CFG_mhz, F.FLASH_XFER_CTL_go, F.FLASH_XFER_CTL_cmd, F.FLASH_XFER_OFF_offset, F.FLASH_XFER_STAT_state, F.FLASH_XFER_STAT_reason, F.FLASH_STAGED_fw_major, F.FLASH_STAGED_fw_minor, F.FLASH_STAGED_security_version, F.FLASH_JOURNAL_total, F.FLASH_JOURNAL_done, F.FLASH_WIN_data]
  | .sm =>
    [F.SM_PUBKEY_key, F.SM_CERT_LEN_bytes, F.SM_CERT_cert]
  | .sns =>
    [F.SNS_STATUS_thermal_paced, F.SNS_STATUS_capping, F.SNS_CAP_hyst, F.SNS_CAP_cap_w, F.SNS_POWER_peak_w, F.SNS_POWER_input_w, F.SNS_PWR_CD_stacks_w, F.SNS_PWR_CD_compute_w, F.SNS_PWR_HUB_loss_w, F.SNS_PWR_HUB_hub_w, F.SNS_THERM_CTL_trip_c, F.SNS_THERM_CTL_hot_c, F.SNS_THERM_CTL_warn_c, F.SNS_TEMP_MAX_sensor, F.SNS_TEMP_MAX_tj, F.SNS_DROOP_CTL_droop_mv, F.SNS_DROOP_CTL_droop_t, F.SNS_DROOP_CTL_stk_droop_mv, F.SNS_DROOP_CTL_hold, F.SNS_DROOP_STAT_regions, F.SNS_STK_DROOP_stacks, F.SNS_VCORE_effective_mv, F.SNS_VCORE_mode, F.SNS_VMEAS_mv, F.SNS_REGION_pace_mode, F.SNS_REGION_pace_now, F.SNS_REGION_sources, F.SNS_REGION_droop_events, F.SNS_TEMP_max, F.SNS_TEMP_tj]
  | .sb =>
    [F.SB_ADDR_address, F.SB_ADDR_strap, F.SB_CTL_alert_sev, F.SB_CTL_pec_required, F.SB_ALERT_code, F.SB_ALERT_active, F.SB_LAST_offset, F.SB_LAST_status, F.SB_COUNT_transactions]
  | .sc =>
    [F.SC_STATUS_used, F.SC_CURSOR_go, F.SC_CURSOR_cmd, F.SC_CURSOR_index, F.SC_KEY_code, F.SC_KEY_court, F.SC_KEY_court_valid, F.SC_WIN_STAT_valid, F.SC_WIN_STAT_index, F.SC_SEQ_seq, F.SC_TOTAL_count, F.SC_LOST_count, F.SC_EVICTED_count, F.SC_RATE_SEL_entry, F.SC_RATE_CODE_valid, F.SC_RATE_CODE_code, F.SC_RATE_LIMIT_per_min, F.SC_RATE_LIMIT_burst, F.SC_CMD_save, F.SC_SAVE_STAT_state, F.SC_WINDOW_record, F.SC_RATE_DEF0_per_min, F.SC_RATE_DEF0_burst, F.SC_RATE_DEF1_per_min, F.SC_RATE_DEF1_burst, F.SC_RATE_DEF2_per_min, F.SC_RATE_DEF2_burst]
  | .ctr =>
    [F.CTR_CMD_go, F.CTR_CMD_cmd, F.CTR_STAT_frozen, F.CTR_STAT_copying, F.CTR_STAT_armed, F.CTR_STAT_arm_outcome, F.CTR_STAT_dev_short, F.CTR_STAT_bank_short, F.CTR_SNAP_SEQ_seq, F.CTR_ARM_armed, F.CTR_ARM_action, F.CTR_ARM_group, F.CTR_ARM_NUM_LO_number, F.CTR_ARM_NUM_HI_number, F.CTR_RANGE_base_lo, F.CTR_RANGE_base_hi, F.CTR_RANGE_limit_lo, F.CTR_RANGE_limit_hi, F.CTR_BANK_DEV_base_lo, F.CTR_BANK_DEV_base_hi, F.CTR_BANK_DEV_tiles, F.CTR_BANK_base_lo, F.CTR_BANK_base_hi, F.CTR_BANK_tiles]
  | .ce =>
    [F.CE_STATUS_huddles_out, F.CE_STATUS_runs_active, F.CE_HG_BASE_LO_base, F.CE_HG_BASE_HI_base, F.CE_PLAN_BASE_LO_base, F.CE_PLAN_BASE_HI_base, F.CE_RELAY_BASE_LO_base, F.CE_RELAY_BASE_HI_base, F.CE_RELAY_STAGE_LO_base, F.CE_RELAY_STAGE_HI_base, F.CE_HG_COUNT_entries, F.CE_PLAN_COUNT_entries, F.CE_HUDDLE_SEL_index, F.CE_HUDDLE_LAST_LO_number_lo, F.CE_HUDDLE_LAST_HI_outcome, F.CE_HUDDLE_LAST_HI_orphan, F.CE_HUDDLE_LAST_HI_number_hi, F.CE_HUDDLE_NUM_LO_number, F.CE_HUDDLE_NUM_HI_number, F.CE_HUDDLE_CMD_go, F.CE_HUDDLE_CMD_cmd, F.CE_HUDDLE_CMD_index, F.CE_NOISE_SEL_entry, F.CE_NOISE_bn, F.CE_RELAY_COUNT_entries, F.CE_RELAY_IN_tiles, F.CE_RELAY_STAGE_TILES_tiles, F.CE_RELAY_NUM_LO_number, F.CE_RELAY_NUM_HI_number, F.CE_RELAY_ARM_armed] ++
    [F.CE_RELAY_ARM_copy, F.CE_RELAY_ARM_group, F.CE_RELAY_STAT_phase, F.CE_RELAY_STAT_tiles_in]
  | .se =>
    [F.SE_STATUS_jobs, F.SE_SUBMIT_stack, F.SE_SUBMIT_tier, F.SE_SUBMIT_tile, F.SE_PIVOT_CTL_mode, F.SE_PIVOT_CTL_tau_exp, F.SE_PIVOT_LAMBDA_lambda, F.SE_QUEUE_STAT_high_water, F.SE_QUEUE_STAT_used, F.SE_ACTIVE_busy, F.SE_ACTIVE_court, F.SE_ACTIVE_tag, F.SE_LAST_DONE_status, F.SE_LAST_DONE_court, F.SE_LAST_DONE_reason, F.SE_LAST_DONE_tag, F.SE_CANCEL_go, F.SE_CANCEL_court, F.SE_CANCEL_tag, F.SE_CANCEL_STAT_winner, F.SE_CANCEL_STAT_tag, F.SE_MISS_COUNT_misses, F.SE_MISS_COUNT_refusals, F.SE_PIVOT_COUNT_regularised, F.SE_PIVOT_COUNT_singular]
  | .chesy =>
    [F.CHESY_STATUS_open_flows, F.CHESY_CTL_udp_port, F.CHESY_CTL_pair, F.CHESY_RTO_retries, F.CHESY_RTO_min_us, F.CHESY_CWND_INIT_bytes, F.CHESY_FLOW_SEL_flow, F.CHESY_FLOW_STAT_cwnd_kib, F.CHESY_FLOW_STAT_srtt_us, F.CHESY_FLOW_STAT_failed, F.CHESY_CMD_reopen, F.CHESY_BAD_count]
  | .dbg =>
    [F.DBG_CTL_tap_regs, F.DBG_STAT_trst, F.DBG_STAT_tap_active]
  | .h =>
    [F.H_STATUS_mode, F.H_STATUS_lanes, F.H_ALLOW_prefix, F.H_ALLOW_LEN_length, F.H_SESSION_SEL_session, F.H_SESSION_STAT_open, F.H_SESSION_STAT_device_scope, F.H_SESSION_STAT_court, F.H_SESSION_STAT_commands, F.H_SESSIONS_open, F.ETH_CTL_ipv6, F.ETH_CTL_vlan_en, F.ETH_CTL_pause_rx, F.ETH_CTL_an_en, F.ETH_CTL_fallback, F.ETH_VLAN_pfc_prio, F.ETH_VLAN_pcp, F.ETH_VLAN_vid, F.ETH_IP_BASE_base, F.ETH_GATEWAY_gw, F.ETH_CMD_clear_dup, F.ETH_DROPS_count, F.ETH_FEC_CORR_count, F.ETH_FEC_UNCORR_count]
  | .eth =>
    [F.ETH_STATUS_mode, F.ETH_STATUS_lanes, F.ETH_STATUS_held, F.ETH_CTL_ipv6, F.ETH_CTL_vlan_en, F.ETH_CTL_pause_rx, F.ETH_CTL_an_en, F.ETH_CTL_fallback, F.ETH_VLAN_pfc_prio, F.ETH_VLAN_pcp, F.ETH_VLAN_vid, F.ETH_IP_BASE_base, F.ETH_GATEWAY_gw, F.ETH_CMD_clear_dup, F.ETH_DROPS_count, F.ETH_FEC_CORR_count, F.ETH_FEC_UNCORR_count]
  | .sp =>
    [F.SP_CTL_vid, F.SP_CTL_vlan_en, F.SP_CTL_ipv6, F.SP_IP_ip, F.SP_GATEWAY_gw, F.SP_ALLOW_prefix, F.SP_ALLOW_LEN_length]
  | .court =>
    [F.COURT_STATUS_court_state, F.COURT_STATUS_stages, F.COURT_REGIONS_regions, F.COURT_EPOCH_epoch, F.COURT_STEP_LO_step, F.COURT_STEP_HI_step, F.COURT_TRAP_CTL_mode, F.COURT_STOPPED_regions, F.COURT_PERMIT_counter_read, F.COURT_LAST_ABORT_winner, F.COURT_LAST_ABORT_cause, F.COURT_LAST_ABORT_code, F.COURT_COMMIT_LO_step, F.COURT_COMMIT_HI_step, F.COURT_TRAP0_head, F.COURT_TRAP0_valid, F.COURT_TRAP0_place, F.COURT_TRAP_record]
  | .tu =>
    [F.TU_STATUS_repair_pending, F.TU_STATUS_stream_active, F.TU_STATUS_units_in_service, F.TU_SKEW_OFFSET_skew_gen, F.TU_SKEW_OFFSET_repair_stage, F.TU_SKEW_OFFSET_offset, F.TU_REGION_DMAX_dmax, F.TU_UNIT_STATE_unit3, F.TU_UNIT_STATE_unit2, F.TU_UNIT_STATE_unit1, F.TU_UNIT_STATE_unit0, F.TU_SUBST_MAP_sub1_used, F.TU_SUBST_MAP_sub1_row, F.TU_SUBST_MAP_sub0_used, F.TU_SUBST_MAP_sub0_row, F.TU_BANK_FMT_u3_shadow, F.TU_BANK_FMT_u3_active, F.TU_BANK_FMT_unit2, F.TU_BANK_FMT_unit1, F.TU_BANK_FMT_unit0, F.TU_LAST_CHECK_unit, F.TU_LAST_CHECK_tile, F.TU_LAST_CHECK_phys_row, F.TU_LAST_CHECK_found_mark, F.TU_LAST_CHECK_expected_mark, F.TU_LAST_CHECK_offset_used, F.TU_CHECK_COUNT_conflicts, F.TU_CHECK_COUNT_mismatches]
  | .acc =>
    [F.ACC_STATUS_open_groups, F.ACC_GROUP_CTL_unit_mask, F.ACC_GROUP_CTL_discard, F.ACC_OPEN_MAP_open, F.ACC_LAST_FAULT_unit, F.ACC_LAST_FAULT_tile, F.ACC_LAST_FAULT_group_base, F.ACC_LAST_FAULT_kind, F.ACC_LAST_FAULT_row, F.ACC_FLAGS_sticky]
  | .ve =>
    [F.VE_STATUS_sticky, F.VE_STICKY_flags, F.VE_LAST_SUMMARY_from_egress, F.VE_LAST_SUMMARY_flags, F.VE_LAST_ADDR_instr_addr, F.VE_FLAG_TRAP_trap_mask, F.VE_TRAP_INFO_valid, F.VE_TRAP_INFO_lane, F.VE_TRAP_INFO_from_egress, F.VE_TRAP_INFO_flags, F.VE_TRAP_ADDR_instr_addr, F.VE_SEED_LO_seed_lo, F.VE_SEED_HI_seed_hi, F.VE_SEED_CTL_apply]
  | .st =>
    [F.ST_STATUS_armed, F.ST_STATUS_pair1, F.ST_STATUS_pair0, F.ST_PAIR_TILE_tap_index, F.ST_PAIR_TILE_kind, F.ST_PAIR_TILE_layer_id, F.ST_PAIR_TILE_tile, F.ST_PAIR_COUNT_samples, F.ST_RING_STAT_high_water, F.ST_RING_STAT_used, F.ST_DROPPED_rows, F.ST_INCOMPLETE_rows, F.ST_LAST_DRAIN_valid, F.ST_LAST_DRAIN_kind, F.ST_LAST_DRAIN_copy, F.ST_LAST_DRAIN_layer_id, F.ST_LAST_DRAIN_step_low]
  | .rg =>
    [F.RG_STATUS_held, F.RG_STATUS_task_running, F.RG_STATUS_spilling, F.RG_STATUS_bench_queued, F.RG_DEADLINE_deadline_us, F.RG_DEADLINE_INFO_valid, F.RG_DEADLINE_INFO_ended_after, F.RG_DEADLINE_INFO_kind, F.RG_DEADLINE_INFO_in_task, F.RG_DEADLINE_INFO_pb, F.RG_DEADLINE_ADDR_instr_addr, F.RG_ILLEGAL_valid, F.RG_ILLEGAL_in_task, F.RG_ILLEGAL_reason, F.RG_ILLEGAL_ADDR_instr_addr, F.RG_BENCH_STAT_running_tag, F.RG_BENCH_STAT_running, F.RG_BENCH_STAT_high_water, F.RG_VALVE_CTL_high_pct, F.RG_VALVE_CTL_low_pct, F.RG_SET_COUNT_recompute_marks, F.RG_SET_COUNT_sets, F.RG_ARENA_BASE_LO_base, F.RG_ARENA_BASE_HI_base, F.RG_DEEP_BASE_LO_base, F.RG_DEEP_BASE_HI_base, F.RG_ARENA_TILES_tiles, F.RG_DEEP_TILES_tiles, F.RG_ARENA_FILL_tiles, F.RG_DEEP_FILL_tiles] ++
    [F.RG_SPILL_EN_LO_enable, F.RG_SPILL_EN_HI_enable, F.RG_PB_SEL_index, F.RG_PB_STAT_valid, F.RG_PB_STAT_producer_waiting, F.RG_PB_STAT_spilled, F.RG_PB_STAT_stored, F.RG_WAIT_kind, F.RG_WAIT_elapsed_us, F.RG_ROOT_LAST_outcome, F.RG_ROOT_LAST_staleness]
  | .re =>
    [F.RE_STATUS_queue_used, F.RE_QUEUE_STAT_high_water, F.RE_QUEUE_STAT_used, F.RE_ACTIVE_busy, F.RE_ACTIVE_kind, F.RE_ACTIVE_method, F.RE_ACTIVE_block, F.RE_ACTIVE_iteration, F.RE_ACTIVE_layer_id, F.RE_ACTIVE_RESIDUAL_residual, F.RE_LAST_DONE_outcome, F.RE_LAST_DONE_kind, F.RE_LAST_DONE_block, F.RE_LAST_DONE_iterations, F.RE_LAST_DONE_layer_id, F.RE_LAST_RESIDUAL_residual, F.RE_LAST_STEP_LO_stat_step_lo, F.RE_LAST_STEP_HI_stat_step_hi, F.RE_WARM_COUNT_warm_rejected, F.RE_WARM_COUNT_warm_failed, F.RE_FAIL_COUNT_nonconverged, F.RE_FAIL_COUNT_refused]
  | .ump =>
    [F.UMP_STATUS_shadowing, F.UMP_STATUS_voting, F.UMP_STATUS_spare_used, F.UMP_STATUS_working, F.UMP_CTL_window_s, F.UMP_CTL_probation_jobs, F.UMP_CTL_min_clusters, F.UMP_SAMPLE_k, F.UMP_LAST_VOTE_outcome, F.UMP_LAST_VOTE_path, F.UMP_LAST_VOTE_sampled, F.UMP_LAST_VOTE_origin, F.UMP_LAST_VOTE_unit, F.UMP_LAST_VOTE_x, F.UMP_LAST_VOTE_y, F.UMP_LAST_VOTE_tile, F.UMP_LAST_ADDR_instr_addr, F.UMP_STRIKE_SEL_index, F.UMP_STRIKES_total, F.UMP_STRIKES_live, F.UMP_CMD_go, F.UMP_CMD_cmd, F.UMP_CMD_cluster, F.UMP_PROBATION_cluster, F.UMP_PROBATION_jobs_done, F.UMP_LMAP_map, F.UMP_RETIRED_clusters, F.UMP_RE_ROWS_LO_rows, F.UMP_RE_ROWS_HI_rows]
  | .stk =>
    [F.STK_STATUS_rebuilding, F.STK_STATUS_near_spare_used, F.STK_STATUS_deep_spare_used, F.STK_STATUS_scrub_active, F.STK_NEAR_RETIRED_retired, F.STK_DEEP_RETIRED_retired, F.STK_SPARE_MAP_near_used, F.STK_SPARE_MAP_near_index, F.STK_SPARE_MAP_deep_used, F.STK_SPARE_MAP_deep_index, F.STK_REBUILD_pending, F.STK_RANGE_SEL_entry, F.STK_RANGE_BASE_valid, F.STK_RANGE_BASE_tier, F.STK_RANGE_BASE_base_tile, F.STK_RANGE_TILES_tiles, F.STK_RANGE_TAG_tag, F.STK_RANGE_CTL_apply, F.STK_LAST_FAIL_LO_addr_lo, F.STK_LAST_FAIL_HI_addr_hi, F.STK_LAST_FAIL_INFO_kind, F.STK_LAST_FAIL_INFO_court, F.STK_LAST_FAIL_INFO_tier, F.STK_LAST_FAIL_INFO_channel, F.STK_LAST_FAIL_INFO_reader, F.STK_LAST_FAIL_INFO_generation, F.STK_RETIRE_CTL_window_min, F.STK_RETIRE_CTL_strike_limit, F.STK_STRIKES_total, F.STK_STRIKES_worst_channel] ++
    [F.STK_STRIKES_worst_count, F.STK_SCRUB_CTL_period_h, F.STK_SCRUB_CTL_enable, F.STK_SCRUB_STAT_passes, F.STK_ARB_caddie_weight, F.STK_ARB_port_weight, F.STK_RETIRE_CMD_go, F.STK_RETIRE_CMD_deep, F.STK_RETIRE_CMD_channel]
  | .caddie =>
    [F.CADDIE_STATUS_relocated, F.CADDIE_STATUS_parity_on, F.CADDIE_STATUS_window_open, F.CADDIE_CTL_digest_every, F.CADDIE_CTL_parity_en, F.CADDIE_CTL_mode, F.CADDIE_PT_BASE_LO_base, F.CADDIE_PT_BASE_HI_base, F.CADDIE_PT_COUNT_entries, F.CADDIE_COMMIT_STAT_state, F.CADDIE_COMMIT_STAT_pages_left, F.CADDIE_COMMIT_STAT_last_outcome, F.CADDIE_COMMIT_STEP_LO_step, F.CADDIE_COMMIT_STEP_HI_step, F.CADDIE_PENDING_STEP_LO_step, F.CADDIE_PENDING_STEP_HI_step, F.CADDIE_READY_DEADLINE_deadline_us, F.CADDIE_CMD_go, F.CADDIE_CMD_cmd, F.CADDIE_CMD_device_id, F.CADDIE_STAGE_STAT_high_water, F.CADDIE_STAGE_STAT_used, F.CADDIE_PAR_CTL_member, F.CADDIE_PAR_CTL_n, F.CADDIE_PAR_TILES_chunk_tiles, F.CADDIE_PAR_BASE_LO_base, F.CADDIE_PAR_BASE_HI_base, F.CADDIE_RELOC_valid, F.CADDIE_RELOC_target, F.CADDIE_RELOC_BASE_LO_base] ++
    [F.CADDIE_RELOC_BASE_HI_base, F.CADDIE_RELOC_TILES_tiles, F.CADDIE_LAST_EVENT_kind, F.CADDIE_LAST_EVENT_court, F.CADDIE_LAST_EVENT_page, F.CADDIE_DIGEST_STAT_state, F.CADDIE_DIGEST_STAT_repairs, F.CADDIE_DIGEST_STAT_passes, F.CADDIE_REBUILD_pending, F.CADDIE_PAR_ID_id_hi, F.CADDIE_PAR_ID_id_lo]

/-- Does the page hold the eight programmable and the fixed counters (17_scorecard_and_counters.md R419)? -/
def Block.hasCounters : Block → Bool
  | .pkg => false
  | .mc => false
  | .flash => false
  | .sm => false
  | .sns => false
  | .sb => false
  | .sc => false
  | .ctr => false
  | .ce => true
  | .se => true
  | .chesy => true
  | .dbg => false
  | .h => true
  | .eth => true
  | .sp => false
  | .court => false
  | .tu => true
  | .acc => true
  | .ve => true
  | .st => true
  | .rg => true
  | .re => true
  | .ump => true
  | .stk => true
  | .caddie => true

/-- Fixed counters of the page. -/
def Block.fixedCounters : Block → Nat
  | .pkg => 0
  | .mc => 0
  | .flash => 0
  | .sm => 0
  | .sns => 0
  | .sb => 0
  | .sc => 0
  | .ctr => 0
  | .ce => 2
  | .se => 2
  | .chesy => 0
  | .dbg => 0
  | .h => 0
  | .eth => 0
  | .sp => 0
  | .court => 0
  | .tu => 2
  | .acc => 2
  | .ve => 2
  | .st => 2
  | .rg => 2
  | .re => 2
  | .ump => 2
  | .stk => 2
  | .caddie => 2

/-- Block code (Table 2.1). -/
def Block.code : Block → Nat
  | .pkg => 0x01
  | .mc => 0x02
  | .flash => 0x03
  | .sm => 0x04
  | .sns => 0x05
  | .sb => 0x06
  | .sc => 0x07
  | .ctr => 0x08
  | .ce => 0x09
  | .se => 0x0A
  | .chesy => 0x0B
  | .dbg => 0x0C
  | .h => 0x0E
  | .eth => 0x0E
  | .sp => 0x0F
  | .court => 0x10
  | .tu => 0x20
  | .acc => 0x21
  | .ve => 0x22
  | .st => 0x23
  | .rg => 0x30
  | .re => 0x31
  | .ump => 0x32
  | .stk => 0x40
  | .caddie => 0x41

/-- Block class: the class number of the first page (Table 2.1). -/
def Block.cls : Block → Nat
  | .pkg => 0
  | .mc => 0
  | .flash => 0
  | .sm => 0
  | .sns => 0
  | .sb => 0
  | .sc => 0
  | .ctr => 0
  | .ce => 0
  | .se => 0
  | .chesy => 0
  | .dbg => 0
  | .h => 0
  | .eth => 0
  | .sp => 0
  | .court => 0
  | .tu => 1
  | .acc => 4
  | .ve => 7
  | .st => 10
  | .rg => 13
  | .re => 13
  | .ump => 13
  | .stk => 14
  | .caddie => 14

/-- PAGE_CAPS [31:16] of each page. -/
def Block.blockCaps : Block → Nat
  | .pkg => 0x0000
  | .mc => 0x0000
  | .flash => 0x0000
  | .sm => 0x0000
  | .sns => 0x4400
  | .sb => 0x0000
  | .sc => 0x0920
  | .ctr => 0x0000
  | .ce => 0x080A
  | .se => 0x40FF
  | .chesy => 0x000C
  | .dbg => 0x0000
  | .h => 0x08C8
  | .eth => 0x08C8
  | .sp => 0x0000
  | .court => 0x0000
  | .tu => 0x0042
  | .acc => 0x204F
  | .ve => 0x8020
  | .st => 0x0048
  | .rg => 0x81A0
  | .re => 0x4038
  | .ump => 0x0311
  | .stk => 0x1081
  | .caddie => 0x4340

/-- PAGE_CAPS [15:12]: court_scoped, sideband_visible, service_only, lockable (02_register_pages.md Table 2.5, Table 2.11). -/
def Block.courtScoped : Block → Bool
  | .pkg => false
  | .mc => false
  | .flash => false
  | .sm => false
  | .sns => false
  | .sb => false
  | .sc => false
  | .ctr => false
  | .ce => false
  | .se => false
  | .chesy => false
  | .dbg => false
  | .h => false
  | .eth => false
  | .sp => false
  | .court => true
  | .tu => true
  | .acc => true
  | .ve => true
  | .st => true
  | .rg => true
  | .re => true
  | .ump => false
  | .stk => false
  | .caddie => false

def Block.sidebandVisible : Block → Bool
  | .pkg => true
  | .mc => false
  | .flash => false
  | .sm => false
  | .sns => true
  | .sb => true
  | .sc => true
  | .ctr => false
  | .ce => false
  | .se => false
  | .chesy => false
  | .dbg => false
  | .h => false
  | .eth => false
  | .sp => false
  | .court => false
  | .tu => false
  | .acc => false
  | .ve => false
  | .st => false
  | .rg => false
  | .re => false
  | .ump => false
  | .stk => false
  | .caddie => false

def Block.serviceOnly : Block → Bool
  | .pkg => true
  | .mc => false
  | .flash => true
  | .sm => true
  | .sns => false
  | .sb => false
  | .sc => false
  | .ctr => false
  | .ce => false
  | .se => false
  | .chesy => false
  | .dbg => true
  | .h => false
  | .eth => false
  | .sp => true
  | .court => false
  | .tu => false
  | .acc => false
  | .ve => false
  | .st => false
  | .rg => false
  | .re => false
  | .ump => false
  | .stk => false
  | .caddie => false

def Block.lockable : Block → Bool
  | .pkg => false
  | .mc => false
  | .flash => true
  | .sm => false
  | .sns => true
  | .sb => true
  | .sc => false
  | .ctr => false
  | .ce => false
  | .se => true
  | .chesy => false
  | .dbg => true
  | .h => true
  | .eth => false
  | .sp => true
  | .court => false
  | .tu => false
  | .acc => false
  | .ve => false
  | .st => false
  | .rg => false
  | .re => false
  | .ump => true
  | .stk => true
  | .caddie => false

end Sys2Proof.Machine
end

