-- ==== Sys2Proof/Machine/State.lean ====
section
/-! DEFINITION. Everything the spec gives the machine, as plain data, and the machine right after reset. -/

namespace Sys2Proof.Machine

/-- A finite map in one canonical form: keys strictly rising, no entry at its default. -/
abbrev KMap (α : Type) := List (Nat × α)

/-! ## Memory (11_stacks_and_tiles.md) -/

/-- How a tile is served (R267): written, lost (not written since the stack lost power or its channel retired), or
waiting for the Caddie's rebuild. -/
inductive TileState where
  | lost | written | rebuilding
  deriving DecidableEq, Repr

/-- The trailer of a 4 KiB tile (Table 11.2) and how the tile is served. -/
structure Trailer where
  check : BitVec 32
  tag : BitVec 12
  poison : Bool
  format : BitVec 4
  gen : BitVec 15
  state : TileState
  deriving DecidableEq, Repr

/-- What an unlisted tile's trailer reads as: the tile is lost (R267). -/
def Trailer.lost : Trailer := ⟨0#32, 0#12, false, 0#4, 0#15, .lost⟩

/-- An entry of a stack's range table (R260). -/
structure Range where
  valid : Bool
  deep : Bool
  base : Nat
  tiles : Nat
  tag : BitVec 12
  deriving DecidableEq, Repr

def Range.none : Range := ⟨false, false, 0, 0, 0#12⟩

/-- What a stack holds beside its registers: the range table, the live strikes of each channel (near 0 to 15, NS 16,
deep 17 to 24, DS 25: STK_STRIKES), the channels on probation with 26 for the whole stack (R403), the channel that serves
each index where it is not the index's own (R266, R270), and the scrubber's next tile. -/
structure Stack where
  ranges : KMap Range
  strikes : KMap Nat
  probation : KMap Bool
  serve : KMap Nat
  scrubNext : Nat
  deriving DecidableEq, Repr

def Stack.init : Stack := ⟨[], [], [], [], 0⟩

/-! ## Scorecard (17_scorecard_and_counters.md) -/

/-- An extreme entry (Table 17.3) with its capture slot (Table 16.2). -/
structure Extreme where
  magnitude : Nat
  page : Nat
  huddle : Nat
  uptime : Nat
  detail : List Nat
  capture : List Byte
  deriving DecidableEq, Repr

def Extreme.zero : Extreme := ⟨0, 0, 0, 0, [], []⟩

/-- A Scorecard record (Table 17.2). -/
structure ScRec where
  valid : Bool
  code : Nat
  courtValid : Bool
  court : Nat
  severity : Nat
  count : Nat
  suppressed : Nat
  seq : Nat
  firstUptime : Nat
  lastUptime : Nat
  firstHuddle : Nat
  lastHuddle : Nat
  hist : KMap Nat
  min : Extreme
  max : Extreme
  deriving DecidableEq, Repr

def ScRec.free : ScRec := ⟨false, 0, false, 0, 0, 0, 0, 0, 0, 0, 0, 0, [], .zero, .zero⟩

/-! ## The region sequencer (09_ablos_encoding.md, 10_spatial_pipelines.md) -/

/-- An entry of a stream map (R206): start position, row count, base tile, width; the drain's entry covers the tail. -/
structure MapEntry where
  start : Nat
  len : Nat
  tile : Nat
  width : Nat
  drain : Bool
  deriving DecidableEq, Repr

/-- What an issued and incomplete instruction waits for. -/
inductive Pending where
  | matrix (index : Nat)
  | huddle (group number : Nat)
  | fence (tasks : Nat)
  | produce (pb : Nat) (upto : Nat)
  | rootFetch (use : List Nat)
  deriving DecidableEq, Repr

/-- An issued and incomplete instruction with the token it holds (R201), its address and class. -/
structure InFlight where
  token : Nat
  addr : Nat
  cls : Nat
  what : Pending
  deriving DecidableEq, Repr

/-- A program of a region: its main program, or its running bench task (R203, R214). `waiting` is an issued and
incomplete wait_step. `map` is the map of the last stream it drained. -/
structure Prog where
  pc : Nat
  a : KMap Addr48
  l : KMap W32
  step : BitVec 48
  tokens : KMap Nat
  inflight : List InFlight
  waiting : Bool
  waitToken : Nat
  map : Option (List MapEntry)
  deriving DecidableEq, Repr

def Prog.init : Prog := ⟨0, [], [], 0#48, [], [], false, 0, none⟩

/-- A queued bench task: entry, tag, copied address registers and step register (R214, R230). -/
structure Task where
  entry : Nat
  tag : Nat
  a : KMap Addr48
  step : BitVec 48
  deriving DecidableEq, Repr

/-- A matrix instruction of the stream in flight: its start position, the rows it takes and the positions it covers (the
drain's tail included), its tile and width, group flags, tap index, layer-row base and address. -/
structure Matrix where
  start : Nat
  rows : Nat
  cover : Nat
  tile : Nat
  width : Nat
  opens : Bool
  closes : Bool
  depth : Nat
  tap : Option Nat
  rowBase : Nat
  addr : Nat
  deriving DecidableEq, Repr

/-- A feed word: its matrix instruction, its row there, the elements' bytes and the two MX scales. -/
structure Feed where
  index : Nat
  row : Nat
  bytes : List Byte
  scales : List Nat
  deriving DecidableEq, Repr

/-- The stream in flight of a region (R99 to R102, R206): the program it belongs to, its step number and pair, its
instructions, the feed words at every position so far, the next region step, whether its drain has issued, whether it has
no effect (R495), and the tap indices it has named with those that captured nothing for their format (R160). -/
structure Stream where
  task : Bool
  step : Nat
  wfmt : Nat
  afmt : Nat
  width : Nat
  insts : List Matrix
  feeds : List Feed
  pos : Nat
  drained : Bool
  dead : Bool
  taps : List Nat
  badTaps : List Nat
  deriving DecidableEq, Repr

/-- An armed tap index of a region (R158): its descriptor's bytes and address, the step at the arm, the tapped streams so
far. -/
structure TapArm where
  tap : Nat
  desc : List Byte
  addr : Nat
  step : Nat
  streams : Nat
  deriving DecidableEq, Repr

/-- A set of the valve's set table (R238), in each area oldest first: where it lies, as an offset in its area, and its
tiles. -/
structure ValveSet where
  id : Nat
  deep : Bool
  tiles : Nat
  addr : Nat
  deriving DecidableEq, Repr

/-- An allocation of an area ring, oldest first (R234): offset in tiles, tiles, freed. -/
structure Alloc where
  off : Nat
  tiles : Nat
  freed : Bool
  deriving DecidableEq, Repr

/-- A counted wait (R240): kind, pass buffer, program, instruction address, the deadline that governs it (R242), and its
age in µs when its deadline was reached. -/
structure CWait where
  kind : Nat
  pb : Nat
  task : Bool
  addr : Nat
  deadline : Nat
  age : Nat
  deriving DecidableEq, Repr

/-- A pass-buffer descriptor (Table 9.17). -/
structure PbDesc where
  id : Nat
  kind : Nat
  prodDevice : Nat
  prodRegion : Nat
  consRegion : Nat
  consDevice : Nat
  format : Nat
  entryBytes : Nat
  depth : Nat
  flow : Nat
  ports : Nat
  deriving DecidableEq, Repr

/-- What the valve bench and sequencer of a region hold. -/
structure Region where
  started : Bool
  halted : Bool
  stopped : Bool
  stageId : Nat
  stageDesc : Nat
  image : Nat
  codeCount : Nat
  clusters : BitVec 16
  pbs : List PbDesc
  main : Prog
  task : Prog
  taskRunning : Bool
  taskTag : Nat
  bench : List Task
  enqueued : Nat
  completedTasks : Nat
  stream : Option Stream
  taps : List TapArm
  sets : List ValveSet
  arena : List Alloc
  arenaHead : Nat
  deep : List Alloc
  deepHead : Nat
  waits : List CWait
  /-- an offload left the arena above its high watermark: migration runs (R236) -/
  migrate : Bool
  /-- the held instruction: program, address, and whether its wait ended after the fault (R244) -/
  heldAt : Option (Bool × Nat)
  deriving DecidableEq, Repr

def Region.init : Region :=
  { started := false, halted := false, stopped := false, stageId := 0, stageDesc := 0, image := 0
    codeCount := 0, clusters := 0#16, pbs := [], main := .init, task := .init, taskRunning := false, taskTag := 0
    bench := [], enqueued := 0, completedTasks := 0, stream := none, taps := [], sets := [], arena := [], arenaHead := 0, deep := []
    deepHead := 0, waits := [], migrate := false, heldAt := none }

/-- An entry in a pass buffer: its bytes and whether it is poisoned (R227). -/
structure PbEntry where
  bytes : List Byte
  poison : Bool
  deriving DecidableEq, Repr

/-- A pass buffer: entries in the store, entries in spill with the deep-area offset of each, entries a producer here
still holds for want of room (R228), bytes already taken of the oldest entry, bytes drained by a waiting consumer, bytes
of the entry being filled, and how many entries were produced, and have moved, so far. `ended` counts the stages of its
two that have ended. -/
structure PassBuf where
  desc : PbDesc
  reserved : Bool
  ended : Nat
  store : List PbEntry
  spill : List (Nat × PbEntry)
  queue : List PbEntry
  taken : Nat
  taking : List Byte
  takingPoison : Bool
  filling : List Byte
  produced : Nat
  moved : Nat
  /-- kind 2: credit the producer holds, and entries granted to a remote producer (13_fabric_and_collectives.md R315) -/
  credit : Nat
  granted : Nat
  /-- deep-area offsets reserved for granted entries -/
  room : List Nat
  deriving DecidableEq, Repr

def PassBuf.init (d : PbDesc) (reserved : Bool) : PassBuf :=
  { desc := d, reserved := reserved, ended := 0, store := [], spill := [], queue := [], taken := 0, taking := []
    takingPoison := false, filling := [], produced := 0, moved := 0, credit := 0, granted := 0, room := [] }

/-! ## Clusters (04_tensor_units.md, 05_accumulators.md, 06_vector_lanes.md) -/

/-- Why a shadow bank is not valid (R97), with the address that met the cause: never loaded, a format difference, a
refused access (0 stack-retired, 1 address-range, 2 court-range, 3 tag-mismatch), poison, no version of a ring. -/
inductive BankCause where
  | none | empty | formatMismatch
  | refused (why addr : Nat)
  | poison (addr : Nat)
  | versionAbsent (addr : Nat)
  deriving DecidableEq, Repr

/-- What filled a weight bank (Table 14.4a). -/
structure BankLoad where
  ring : Bool
  addr : Nat
  ringOff : Nat
  version : Nat
  roundAware : Bool
  narrow : Bool
  deriving DecidableEq, Repr

/-- A weight bank with its scale bank: format 0 none, the block's bytes, its scale bytes, the load that filled it. -/
structure Bank where
  fmt : Nat
  valid : Bool
  data : List Byte
  scales : List Byte
  cause : BankCause
  load : BankLoad
  deriving DecidableEq, Repr

def BankLoad.none : BankLoad := ⟨false, 0, 0, 0, false, false⟩
def Bank.empty : Bank := ⟨0, false, [], [], .empty, .none⟩

/-- A row of an accumulator tile: its mark (bit 6 valid, [5:0] row mod 64; R107) and 64 A40 elements. -/
structure AccRow where
  mark : BitVec 7
  els : List (BitVec 40)
  deriving DecidableEq, Repr

def AccRow.zero : AccRow := ⟨0#7, List.replicate 64 0#40⟩

/-- An accumulation group of a unit (R119): base tile, width, depth, whether its close has issued, whether the close's
last region step has completed so that it folds (R121), whether a chunk overflowed (R122), and the address and step of the
instruction that last named it. -/
structure Group where
  base : Nat
  width : Nat
  depth : Nat
  closing : Bool
  folds : Bool
  overflowed : Bool
  addr : Nat
  step : Nat
  deriving DecidableEq, Repr

/-- One unit of a cluster: its banks and which is active, its open groups, the chunk count of row r of the group based at
tile t under key 64t + r (R120), and the state word of every tile that holds a closed result (Table 5.4). -/
structure TUnit where
  active : Bank
  shadow : Bank
  sel : Bool
  groups : List Group
  counts : KMap Nat
  closed : KMap Nat
  deriving DecidableEq, Repr

def TUnit.init : TUnit := ⟨.empty, .empty, false, [], [], []⟩

/-- A captured chunk in the tap's ring (R162): tap index, its slot, layer row, K-chunk, and the 130 bytes of elements and
scales. -/
structure TapSlot where
  tap : Nat
  slot : Nat
  row : Nat
  chunk : Nat
  bytes : List Byte
  deriving DecidableEq, Repr

/-- An outer-product block x yᵀ of one row (R163): the K-chunks of x and y and their 130 bytes. -/
structure TapBlock where
  row : Nat
  a : Nat
  b : Nat
  x : List Byte
  y : List Byte
  deriving DecidableEq, Repr

/-- A slot pair of the factor memory (R157): the arm it serves, its tile t of ranges I and J, the blocks formed in order
(the running and compensation sums are theirs, R166), the rows dropped (R165), and after the close the rows discarded
(R166). -/
structure TapPair where
  used : Bool
  arm : TapArm
  tile : Nat
  rangeI : Nat
  rangeJ : Nat
  formed : List TapBlock
  dropped : List Nat
  closed : Bool
  incomplete : Nat
  deriving DecidableEq, Repr

def TapPair.free : TapPair := ⟨false, ⟨0, [], 0, 0, 0⟩, 0, 0, 0, [], [], false, 0⟩

/-- An accepted root request (08_root_engines.md R176): its descriptor's 64 bytes and its court. -/
structure RootReq where
  desc : List Byte
  court : Option Nat
  deriving DecidableEq, Repr

/-- Everything a physical cluster holds. `acc` is keyed unit × 2048 + tile × 64 + row; `store` by byte address;
`lineFmt` by 64-byte line; `gens` by lane (four 32-bit words of xoshiro128++). -/
structure Cluster where
  units : KMap TUnit
  acc : KMap AccRow
  store : KMap Byte
  lineFmt : KMap Nat
  vregs : KMap (List W32)
  masks : KMap (BitVec 128)
  gens : KMap (List W32)
  ring : List TapSlot
  /-- blocks ready and not yet formed, with their slot pair, in the order they became ready -/
  ready : List (Nat × TapBlock)
  pairs : KMap TapPair
  deriving DecidableEq, Repr

/-- A cluster as a court's assignment leaves it (R113, R137) (DESIGN CHOICE, notes/assumptions/5.md). -/
def Cluster.init : Cluster := ⟨[], [], [], [], [], [], [], [], [], []⟩

/-! ## Sessions, courts and messages (14_host_port.md) -/

/-- A host session (R341) with the sending side of its flow (R311, R312): how many messages the outbox held for its number when it
opened, how many of those since then the host has acknowledged, and how often the oldest other one has been sent again. -/
structure Session where
  isOpen : Bool
  device : Bool
  court : Nat
  source : Nat
  flow : Nat
  commands : Nat
  base : Nat
  acked : Nat
  again : Nat
  deriving DecidableEq, Repr

def Session.closed : Session := ⟨false, false, 0, 0, 0, 0, 0, 0, 0⟩

/-- A command accepted and not yet complete. -/
structure HostCmd where
  session : Nat
  tag : Nat
  typ : Nat
  court : Nat
  quiet : Bool
  deriving DecidableEq, Repr

/-- A running stage (R222). -/
structure Stage where
  court : Nat
  id : Nat
  desc : Nat
  regions : List Nat
  deriving DecidableEq, Repr

/-- Where a message leaves; `sessionAgain` is a retransmission (R312). -/
inductive Dest where
  | session (n : Nat)
  | sessionAgain (n : Nat)
  | device (id : Nat)
  | port (n : Nat)
  | servicePort
  | sideband
  | tap
  | source (addr : Nat)
  deriving DecidableEq, Repr

/-- A message the device sent: Chesy type (Table 13.3) or 0x100 and above for sideband and TAP answers, its words and
its data bytes. -/
structure OutMsg where
  dest : Dest
  typ : Nat
  words : List Nat
  data : List Byte
  deriving DecidableEq, Repr

/-- An entry of the Scorecard's rate table (17_scorecard_and_counters.md R415). -/
structure RateEntry where
  valid : Bool
  code : Nat
  perMin : Nat
  burst : Nat
  deriving DecidableEq, Repr

def RateEntry.none : RateEntry := ⟨false, 0, 0, 0⟩

/-- A snapshot being written (R422, R423): the freeze state it returns to, and per bank its address, its header and its
entries' bytes. -/
structure Snap where
  hold : Bool
  banks : List (Nat × List Byte)
  deriving DecidableEq, Repr

/-! ## Caddies (12_caddie.md) -/

/-- A part at a Caddie: a gradient part, or with `high` the owner's high halves and bitmap. `expired` marks a part whose
wait for a root has expired (R191). -/
structure CPart where
  page : Nat
  part : Nat
  step : Nat
  court : Nat
  high : Bool
  expired : Bool
  data : List Byte
  deriving DecidableEq, Repr

/-- A valid page of a Caddie: its descriptor, the parts applied for the pending step, the hyperparameter record read for
it, its pending ring slot, whether it is held, whether a non-finite master was applied, and whether a digest pass keeps it
busy (R297, R298). -/
structure CPage where
  desc : List Byte
  got : List Nat
  hyper : List Byte
  slot : Nat
  held : Bool
  nonfinite : Bool
  digesting : Bool
  deriving DecidableEq, Repr

/-- A Caddie: its valid pages by page index, its open window's step, the staged parts in arrival order, whether its
transfers for the step have been sent and ready reported, whether it can no longer report ready, the members whose deltas
have all arrived, the chunks a survivor is gathering (lost member, survivors heard, tile index to XOR), the tiles a split
digest left with the replicas' values, its committed digest, and whether it is rebuilding. -/
structure Caddie where
  pages : KMap CPage
  window : Option Nat
  staged : List CPart
  sent : Bool
  ready : Bool
  blocked : Bool
  deltasFrom : List Nat
  /-- every member sends its whole stream before the next ready (R299); a pending parity copy has been begun -/
  whole : Bool
  parity : Bool
  gather : Option (Nat × List Nat × KMap (List Byte))
  split : List (Nat × List (Nat × List Byte))
  digest : Nat
  /-- a replacement member is being rebuilt (R400) -/
  rebuilding : Bool
  /-- the ready deadline has expired for the open window -/
  timedOut : Bool
  /-- tiles of owners' high halves by page, until the page's last one (R296) -/
  incoming : KMap (List Byte)
  /-- where pages of a retired stack went: 1 + page index at the relocation Caddie (R303) -/
  moved : KMap Nat
  deriving DecidableEq, Repr

def Caddie.init : Caddie := ⟨[], none, [], false, false, false, [], false, false, none, [], 0, false, false, [], []⟩

/-! ## Chesy flows, ports and the collective engine (13_fabric_and_collectives.md) -/

/-- A data message sent and not acknowledged: sequence, type, words, bytes, the tiles it was read from, times sent, port. -/
structure Sent where
  seq : Nat
  typ : Nat
  words : List Nat
  data : List Byte
  src : List Nat
  sends : Nat
  port : Nat
  deriving DecidableEq, Repr

/-- This endpoint's side of a flow with a device (R310 to R314): allowed ports, next sequence to send, unacknowledged and
waiting messages, next sequence expected, messages held out of order, those received since the last acknowledgement, bytes
acknowledged and marked in this round trip, the window with its alpha as a fraction, the smoothed round trip and the last
timeout in µs. -/
structure Flow where
  ports : Nat
  next : Nat
  unacked : List Sent
  waiting : List Sent
  expect : Nat
  held : List (Nat × WireHdr × ChesyMsg)
  fresh : Nat
  acked : Nat
  marked : Nat
  cwnd : Nat
  alpha : Nat × Nat
  srtt : Nat
  timeout : Nat
  failed : Bool
  isOpen : Bool
  deriving DecidableEq, Repr

def Flow.init : Flow := ⟨0, 0, [], [], 0, [], 0, 0, 0, 0, (0, 1), 0, 0, false, false⟩

/-- A lane of a port: out of service, marked permanently out, on probation, probations failed in a row, hold-off in s. -/
structure Lane where
  out : Bool
  permanent : Bool
  probation : Bool
  failures : Nat
  holdoff : Nat
  deriving DecidableEq, Repr

def Lane.init : Lane := ⟨false, false, false, 0, 10⟩

/-- An outstanding huddle number (R321 to R325): regions arrived, plan entries and the Relay whose engine arrived, the
smallest step so far, children's counts, whether the package has arrived and sent a fail up, whether it is an orphan. -/
structure HNum where
  number : Nat
  regions : Nat
  engines : List Nat
  step : Option Nat
  children : List (Nat × Nat)
  arrived : Bool
  failedUp : Bool
  orphan : Bool
  deriving DecidableEq, Repr

def HNum.init (h : Nat) : HNum := ⟨h, 0, [], none, [], false, false, false⟩

/-- A huddle group of the table (Table 13.5) with its numbers and its last decision: number, 1 complete or 2 fail. -/
structure HGroup where
  id : Nat
  commit : Bool
  court : Nat
  subtreeM1 : Nat
  regions : Nat
  parent : Nat
  isRoot : Bool
  children : List Nat
  ports : Nat
  timeoutMs : Nat
  out : List HNum
  decided : KMap Nat
  last : Option (Nat × Nat)
  /-- steps whose failure was reported here before a number carried them (R302, R330) -/
  doomed : List Nat
  deriving DecidableEq, Repr

/-- A run of a plan entry (R327): its entry's index and 64 bytes, step and trigger number, tiles received by rank × 2^17 +
tile, norms received by rank (u + w × 2^32), whether its outputs are written, its own norms, parts still to be taken by a
Caddie with the stack of each, and whether its trigger has completed here. -/
structure Run where
  entry : Nat
  desc : List Byte
  step : Nat
  number : Nat
  leaves : KMap (List Byte)
  norms : KMap Nat
  reduced : Bool
  parts : List CPart
  homes : List Nat
  live : Bool
  deriving DecidableEq, Repr

/-- The Relay (R332 to R334): running, the step its numbers carry, and the destination of each staged tile in staging
order. -/
structure Relay where
  running : Bool
  step : Nat
  staged : List Nat
  deriving DecidableEq, Repr

/-! ## Umpires (16_fault_containment.md) -/

/-- A region's Umpire beside its registers: live strikes of unit 4p + u and cluster 68 + p (R389), those in full shadow,
substitutes that wait for a quiet point (unit, cell row; R105), clusters that retire at the next moment with no stream in
flight (R392), and clusters that failed a probation (R402). -/
structure Ump where
  live : KMap Nat
  shadow : List Nat
  subs : List (Nat × Nat)
  retiring : List Nat
  barred : List Nat
  deriving DecidableEq, Repr

def Ump.init : Ump := ⟨[], [], [], [], []⟩

/-! ## Solver engine (15_solver_engine.md) -/

/-- A residual block as read (R367): rows, coupled block indices, the offsets of its Jacobian and residual, and once read
the Jacobian values in coupling order and the residual values as FP32 bits. -/
structure SeBlock where
  rows : Nat
  coupled : List Nat
  jacAt : Nat
  resAt : Nat
  jac : List Nat
  res : List Nat
  deriving DecidableEq, Repr

/-- The iterate of a running PCG in binary64 bits (R373): x, r, p and rz, iterations of this start, and whether λ was
added by the one restart. -/
structure SeCg where
  x : List Nat
  r : List Nat
  p : List Nat
  rz : Nat
  it : Nat
  restarted : Bool
  deriving DecidableEq, Repr

/-- A job queued or running (R369): its descriptor and structure descriptor, court, absolute deadline in µs, pivot
registers at acceptance, whether it runs now and has started; delta records seen, their next byte and those applied; the
next problem and each completed problem's status byte (Table 15.6, 256 added); the header's counts; the sparse tables as
read, the iterate, the delivered solution of a finished solve, the last checkpoint's iteration and norm ratio; whether all but the header is written, and the tiles a
failed analysis needs. -/
structure SeJob where
  desc : List Byte
  sdesc : List Byte
  court : Nat
  due : Nat
  pivot : Nat
  lambda : Nat
  running : Bool
  started : Bool
  deltaSeen : Nat
  deltaOff : Nat
  applied : Nat
  next : Nat
  marks : KMap Nat
  fresh : Nat
  reused : Nat
  singular : Nat
  regularised : Nat
  overflowed : Nat
  sizes : List (Nat × Nat)
  blocks : List SeBlock
  cg : Option SeCg
  answer : List Nat
  iters : Nat
  ckpt : Nat
  residual : Option Nat
  method : Nat
  restructured : Bool
  warmUsed : Bool
  converged : Bool
  finished : Bool
  needed : Nat
  deriving DecidableEq, Repr

/-- A dense problem's last complete solution in FP32 bits and its inputs' identity (R372); `marked` says that a delta has
changed it since. -/
structure SeSol where
  x : List Nat
  gen : Nat
  method : Nat
  mu : Nat
  pivot : Nat
  lambda : Nat
  flags : Nat
  marked : Bool
  deriving DecidableEq, Repr

def SeSol.none : SeSol := ⟨[], 0, 0, 0, 0, 0, 0, false⟩

/-- What the engine keeps of a structure (R368, R372, R374): the generation analysed, the first tile of its work area as
last written, each problem's solution, and the last complete sparse solution by block id. -/
structure SeKept where
  analysed : Option Nat
  front : List Byte
  sols : KMap SeSol
  sparse : Option (Nat × List (Nat × List Nat))
  deriving DecidableEq, Repr

def SeKept.none : SeKept := ⟨Option.none, [], [], Option.none⟩

/-! ## Power, temperature and pins (18_power_and_speed.md, 20_package_and_pins.md) -/

/-- What the power controller and the sensors hold beside SNS registers: each die's controller and thermal ceilings in mV,
each region's controller throttle, the dies at or above warn_c and in their hot state, the stacks hot and in droop, the set
points that ramps leave, consecutive periods over the cap with nothing left to lower, whether every region's gate is
closed, and whether a thermal trip has occurred (THERMTRIP_N asserted, R439, R475). -/
structure Power where
  ceiling : KMap Nat
  thermCeiling : KMap Nat
  ctlThrottle : KMap Nat
  warm : KMap Bool
  hot : KMap Bool
  hotStacks : KMap Bool
  droopStacks : KMap Bool
  ramps : KMap Nat
  beyond : Nat
  gates : Bool
  tripped : Bool
  deriving DecidableEq, Repr

def Power.init : Power := ⟨[], [], [], [], [], [], [], [], 0, false, false⟩

/-! ## Flash, fuses and the board (19_firmware_and_trust.md R443 to R448, 20_package_and_pins.md) -/

/-- An image slot: its 2,048-byte chunks by index, an unlisted one erased; `factory` says that it holds the image the part
left manufacture with, untouched. -/
structure Slot where
  factory : Bool
  chunks : KMap (List Byte)
  deriving DecidableEq, Repr

/-- The image the part leaves manufacture with: a header of Table 19.3 with every layout 0x01 and no body. (PRESUMED, notes/assumptions/120.md) -/
def Slot.made : Slot :=
  ⟨true, [(0, [0x01#8, 0x01#8, 0x6E#8, 0x1A#8, 0#8, 0#8, 0#8, 0x01#8, 0x01#8, 0#8, 0#8, 0#8, 0#8, 0#8, 0#8, 0#8, 0#8, 0x01#8, 0x01#8, 0x01#8]
    ++ List.replicate 2028 0#8), (1, List.replicate 2048 0#8)]⟩

/-- The retained area (R460): a settings blob, a repair map, a Scorecard image. -/
structure Retained where
  settings : Option (List Byte)
  repair : Option (KMap Nat)
  score : Option (List Byte)
  deriving DecidableEq, Repr

/-- The contents of the flash (Table 19.1): the directory's boot count, confirmed digest (none: the factory image's),
activation outcome and copy journal (sectors in all and done; a copy is pending while they differ), the identity area with
its public key, the settings blobs newest first (empty: the factory blob of R492), the repair map's words by index
(16_fault_containment.md Table 16.6; an unlisted word is that of a part with no fault), the Scorecard image's two copies, the
retained area and the two slots. -/
structure Flash where
  bootCount : Nat
  confirmed : Option (List Byte)
  act : Nat
  total : Nat
  copied : Nat
  pubkey : List Byte
  cert : List Byte
  settings : List (List Byte)
  repair : KMap Nat
  scoreNew : List Byte
  scoreOld : List Byte
  retained : Retained
  active : Slot
  staging : Slot
  deriving DecidableEq, Repr

def Flash.init : Flash :=
  { bootCount := 0, confirmed := none, act := 0, total := 0, copied := 0, pubkey := List.replicate 64 0#8, cert := []
    settings := [], repair := [], scoreNew := [], scoreOld := [], retained := ⟨none, none, none⟩, active := .made
    staging := ⟨false, []⟩ }

/-- The fuses (R448). The identity private key never leaves its engine. -/
structure Fuses where
  serial : BitVec 64
  revoked : W32
  counter : Nat
  deriving DecidableEq, Repr

/-- A transfer into the staging slot or the settings buffer (R449): which, the next chunk's offset, the settings bytes so
far, and the command being performed while the state reads busy (3 chunk, 4 verify). -/
structure Xfer where
  settings : Bool
  next : Nat
  buffer : List Byte
  doing : Nat
  deriving DecidableEq, Repr

/-- The board's side and the start: V3P3_AUX and V1P8 within tolerance, PWRGOOD, the on-package rails, the start that waits (for V1P8, or for
HOLDUP_OK in a copy) or runs, whether it waits at step 3, whether the Scorecard store was lost with its rail, whether SP has
lost link, and the TAP's current instruction. -/
structure Board where
  aux : Bool
  v1p8 : Bool
  pwrgood : Bool
  dies : Bool
  starting : Option StartInput
  atStep3 : Bool
  scoreLost : Bool
  spDown : Bool
  tap : TapInstr
  deriving DecidableEq, Repr

def Board.init : Board :=
  { aux := true, v1p8 := false, pwrgood := false, dies := false, starting := none, atStep3 := false, scoreLost := true
    spDown := false, tap := .idcode }

/-! ## The whole state -/

/-- Everything the spec gives the package, and the queue of waiting commands. -/
structure State where
  /-- commands waiting, oldest first -/
  pending : List Instr
  /-- court to regions held (R20, COURT_REGIONS) -/
  assign : KMap W32
  /-- registers by register offset (R39); an unlisted one is at its reset value -/
  regs : KMap W32
  mem : List Host.Cell
  trailers : KMap Trailer
  /-- tiles whose second copy failed on the path: the read that waits for it is served poisoned (R258) -/
  pathBad : KMap Bool
  stackMap : KMap Stack
  score : KMap ScRec
  rates : KMap RateEntry
  /-- tokens taken from a code's bucket (R415) -/
  spent : KMap Nat
  /-- a Scorecard image being written to flash (R418) -/
  saving : Option (List Byte)
  /-- the snapshot whose banks are being written, and the requests behind it: hold, huddle number (R422) -/
  snap : Option Snap
  snapQueue : List (Bool × Nat)
  flash : Flash
  fuses : Fuses
  board : Board
  xfer : Option Xfer
  /-- the 192 signed bytes of a report being signed, and the report in MC_REPORT (R464) -/
  attest : Option (List Byte)
  report : List Byte
  regions : KMap Region
  pbufs : List PassBuf
  clusters : KMap Cluster
  /-- the request queue of each region's root engine, oldest first -/
  roots : KMap (List RootReq)
  caddies : KMap Caddie
  /-- flows by device × 2^32 + flow -/
  flows : KMap Flow
  /-- lanes by 8 × q + lane, q 0 for H and 1 + p for Ep -/
  lanes : KMap Lane
  /-- ports paused by flow control, by q (R314) -/
  paused : KMap Bool
  /-- huddle groups and valid plan entries by table index -/
  groups : KMap HGroup
  plans : KMap (List Byte)
  runs : List Run
  relay : Relay
  /-- bn of each plan entry's last run (R331) -/
  noise : KMap Nat
  /-- an activation drains the package (19_firmware_and_trust.md R456) -/
  draining : Bool
  /-- the solver engine's jobs in acceptance order, and what it keeps by structure address -/
  jobs : List SeJob
  kept : KMap SeKept
  /-- court and tag of the last job past its commit point (R377) -/
  solved : Option (Nat × Nat)
  umps : KMap Ump
  /-- live strikes of engine rows: root engine r 64r + row, Caddie n 64(32 + n) + row, solver 4096 + row (R387) -/
  rowStrikes : KMap Nat
  power : Power
  sessions : KMap Session
  cmds : List HostCmd
  stages : List Stage
  outbox : List OutMsg
  /-- last huddle number the package completed, and that each court completed -/
  lastHuddle : Nat
  courtHuddle : KMap Nat
  /-- a device-fatal event has occurred: the package resumes only after a reset (R384) -/
  fatal : Bool
  /-- the model's own: free values drawn so far -/
  freeCount : Nat
  deriving DecidableEq, Repr

/-- The machine right after the auxiliary rail came within tolerance: every register at its reset value, nothing in the stacks, no court, no
command waiting (DESIGN CHOICE, notes/assumptions/6.md) (DESIGN CHOICE, notes/assumptions/121.md) (PRESUMED, notes/assumptions/119.md). -/
def State.reset : State :=
  { pending := [], assign := [], regs := [], mem := [], trailers := [], pathBad := [], stackMap := [], score := [], rates := []
    spent := [], saving := none, snap := none, snapQueue := [], flash := .init
    fuses := ⟨0#64, 0#32, 0⟩, board := .init, xfer := none, attest := none, report := []
    regions := [], pbufs := [], clusters := [], roots := [], caddies := [], flows := [], lanes := [], paused := []
    groups := [], plans := [], runs := [], relay := ⟨false, 0, []⟩, noise := [], draining := false, jobs := [], kept := [], solved := none, umps := [], rowStrikes := [], power := .init, sessions := [], cmds := [], stages := [], outbox := []
    lastHuddle := 0, courtHuddle := [], fatal := false, freeCount := 0 }

/-- Why a step stops the machine. -/
inductive Fault where
  /-- Raised by no command of this block: every error of the spec is a register bit, a status or a message. Safe. -/
  | unreachable
  deriving DecidableEq, Repr

/-- Why the model has no meaning for a command. -/
inductive Refusal where
  /-- Raised by an arm of exec whose command has no meaning yet; the string is the mnemonic. Safe. -/
  | notModelled (mnemonic : String)
  deriving DecidableEq, Repr

end Sys2Proof.Machine
end

