-- ==== Sys2Proof/Machine/Ops.lean ====
section
/-! DEFINITION. The named operations over the canonical maps, memory bytes and registers, page addresses, and the shape
every command's meaning takes. -/

namespace Sys2Proof.Machine

/-! ## Canonical maps -/

/-- The value at a key; an unlisted key holds the default. -/
def KMap.get {α : Type} (m : KMap α) (d : α) (k : Nat) : α :=
  match m with
  | [] => d
  | (a, v) :: t => if a = k then v else KMap.get t d k

/-- The entries of other keys. -/
def KMap.erase {α : Type} (m : KMap α) (k : Nat) : KMap α := m.filter fun e => e.1 != k

/-- Put a value at a key, keeping the canonical form: the default's entry is removed. -/
def KMap.set {α : Type} [DecidableEq α] (m : KMap α) (d : α) (k : Nat) (v : α) : KMap α :=
  let r := KMap.erase m k
  if v = d then r
  else r.takeWhile (fun e => e.1 < k) ++ (k, v) :: r.dropWhile (fun e => e.1 < k)

/-- Change the value at a key. -/
def KMap.upd {α : Type} [DecidableEq α] (m : KMap α) (d : α) (k : Nat) (f : α → α) : KMap α :=
  KMap.set m d k (f (KMap.get m d k))

/-- Keys strictly rising. -/
def KMap.rising {α : Type} : KMap α → Bool
  | [] => true
  | [_] => true
  | (a, _) :: (b, w) :: t => decide (a < b) && KMap.rising ((b, w) :: t)

/-- The canonical form: keys strictly rising and no entry at its default. -/
def KMap.wf {α : Type} [DecidableEq α] (m : KMap α) (d : Nat → α) : Bool :=
  KMap.rising m && m.all fun e => decide (e.2 ≠ d e.1)

/-! ## Bytes of memory -/

/-- What a byte nothing has written reads as (R267: a lost tile delivers zeros). (DESIGN CHOICE, notes/assumptions/4.md) -/
def byteDefault : Byte := 0#8

/-- Memory in canonical form: addresses strictly rising, no byte at its default. -/
def Memory.wf (m : List Host.Cell) : Bool := KMap.wf m fun _ => byteDefault

/-- One byte of stack memory. -/
def Memory.byte (m : List Host.Cell) (a : Nat) : Byte := KMap.get m byteDefault a

/-- The entries of a run of bytes that differ from the default. -/
def Memory.cells (a : Nat) : List Byte → List Host.Cell
  | [] => []
  | b :: t => if b = byteDefault then Memory.cells (a + 1) t else (a, b) :: Memory.cells (a + 1) t

/-- Write a run of bytes at an address. -/
def Memory.write (m : List Host.Cell) (a : Nat) (bs : List Byte) : List Host.Cell :=
  let r := m.filter fun e => e.1 < a || a + bs.length ≤ e.1
  r.takeWhile (fun e => e.1 < a) ++ Memory.cells a bs ++ r.dropWhile (fun e => e.1 < a)

/-- The bytes from an address on, walking the entries that lie there once. -/
def Memory.run : List Host.Cell → Nat → Nat → List Byte
  | _, _, 0 => []
  | [], a, n + 1 => byteDefault :: Memory.run [] (a + 1) n
  | (k, v) :: t, a, n + 1 =>
    if k = a then v :: Memory.run t (a + 1) n else byteDefault :: Memory.run ((k, v) :: t) (a + 1) n

/-- `n` bytes from address `a`. -/
def Memory.read (m : List Host.Cell) (a n : Nat) : List Byte :=
  Memory.run ((m.dropWhile fun e => e.1 < a)) a n

/-! ## Page addresses (02_register_pages.md R39 to R42) -/

def pageSize : Nat := 0x1000

namespace Page
def pkg : Nat := 0x000000
def mc : Nat := 0x001000
def flash : Nat := 0x002000
def sm : Nat := 0x003000
def sns : Nat := 0x004000
def sb : Nat := 0x005000
def sc : Nat := 0x006000
def ctr : Nat := 0x007000
def ce : Nat := 0x008000
def se : Nat := 0x009000
def chesy : Nat := 0x00A000
def dbg : Nat := 0x00B000
/-- Port H. -/
def h : Nat := 0x010000
/-- Fabric port Ep. -/
def eth (p : Nat) : Nat := 0x011000 + p * 0x1000
def sp : Nat := 0x023000
def court (n : Nat) : Nat := 0x040000 + n * 0x1000
/-- Pages of the cluster whose instance is c (R42). -/
def tu (c : Nat) : Nat := 0x100000 + c * 0x1000
def acc (c : Nat) : Nat := 0x400000 + c * 0x1000
def ve (c : Nat) : Nat := 0x700000 + c * 0x1000
def st (c : Nat) : Nat := 0xA00000 + c * 0x1000
def rg (r : Nat) : Nat := 0xD00000 + r * 0x1000
def re (r : Nat) : Nat := 0xD20000 + r * 0x1000
def ump (r : Nat) : Nat := 0xD40000 + r * 0x1000
def stk (n : Nat) : Nat := 0xE00000 + n * 0x1000
def caddie (n : Nat) : Nat := 0xE20000 + n * 0x1000
end Page

/-- The block and the index within the block of the page at a register offset (Table 2.1); none where unmapped. -/
def pageAt (off : Nat) : Option (Block × Nat) :=
  let p := off / 0x1000
  if off ≥ 0x1000000 then none
  else if p < 0x100 then
    match p with
    | 0 => some (.pkg, 0) | 1 => some (.mc, 0) | 2 => some (.flash, 0) | 3 => some (.sm, 0)
    | 4 => some (.sns, 0) | 5 => some (.sb, 0) | 6 => some (.sc, 0) | 7 => some (.ctr, 0)
    | 8 => some (.ce, 0) | 9 => some (.se, 0) | 10 => some (.chesy, 0) | 11 => some (.dbg, 0)
    | 16 => some (.h, 0)
    | 35 => some (.sp, 0)
    | p =>
      if 17 ≤ p ∧ p ≤ 34 then some (.eth, p - 17)
      else if 64 ≤ p ∧ p ≤ 79 then some (.court, p - 64)
      else none
  else if p < 0x100 + 544 then some (.tu, p - 0x100)
  else if 0x400 ≤ p ∧ p < 0x400 + 544 then some (.acc, p - 0x400)
  else if 0x700 ≤ p ∧ p < 0x700 + 544 then some (.ve, p - 0x700)
  else if 0xA00 ≤ p ∧ p < 0xA00 + 544 then some (.st, p - 0xA00)
  else if 0xD00 ≤ p ∧ p < 0xD20 then some (.rg, p - 0xD00)
  else if 0xD20 ≤ p ∧ p < 0xD40 then some (.re, p - 0xD20)
  else if 0xD40 ≤ p ∧ p < 0xD60 then some (.ump, p - 0xD40)
  else if 0xE00 ≤ p ∧ p < 0xE20 then some (.stk, p - 0xE00)
  else if 0xE20 ≤ p ∧ p < 0xE40 then some (.caddie, p - 0xE20)
  else none

/-- The page's instance (R42). -/
def pageInstance (off : Nat) : Nat :=
  match pageAt off with
  | some (b, _) => off / 0x1000 - b.cls * 0x100
  | none => 0

/-- The region of a page that belongs to one: TU, ACC, VE, ST, RG, RE, UMP pages. -/
def pageRegion (off : Nat) : Option Nat :=
  match pageAt off with
  | some (.tu, i) => some (i / 17)
  | some (.acc, i) => some (i / 17)
  | some (.ve, i) => some (i / 17)
  | some (.st, i) => some (i / 17)
  | some (.rg, i) => some i
  | some (.re, i) => some i
  | some (.ump, i) => some i
  | _ => none

/-- The cluster instance of a region and a physical index (R42). -/
def clusterOf (region phys : Nat) : Nat := 17 * region + phys

/-! ## Registers -/

/-- Does a field cover a register offset within its page, and which of its copies? -/
def Fld.covers (f : Fld) (o : Nat) : Bool :=
  decide (f.off ≤ o) && decide ((o - f.off) % f.stride = 0) && decide ((o - f.off) / f.stride < f.cnt)

/-- The reset value of a block register from the page map's Reset column. -/
def fieldsReset (fs : List Fld) (o : Nat) : Nat :=
  fs.foldl (fun acc f => if f.covers o then acc + f.rst * 2 ^ f.lo else acc) 0

/-- PAGE_CAPS of a block (Table 2.5). -/
def Block.caps (b : Block) : Nat :=
  b.blockCaps * 65536 + b.courtScoped.toNat * 32768 + b.sidebandVisible.toNat * 16384
    + b.serviceOnly.toNat * 8192 + b.lockable.toNat * 4096 + (if b.hasCounters then 8 * 16 else 0) + b.fixedCounters

/-- Values that differ from page to page at reset (R45): skew offsets, the spare's standby state, the logical map. (DESIGN CHOICE, notes/assumptions/2.md) (PRESUMED, notes/assumptions/3.md) -/
def perPageReset (b : Block) (i o : Nat) : Option Nat :=
  match b with
  | .pkg => if o = 0x04C then some 0x01000000 else none
  | .tu => if o = 0x040 then some (i % 17)
           else if o = 0x014 then some (0x40000 + if i % 17 = 16 then 6 else 0) else none
  | .acc => if o = 0x014 then some (if i % 17 = 16 then 6 else 0) else none
  | .ve => if o = 0x014 then some (if i % 17 = 16 then 6 else 0) else none
  | .st => if o = 0x014 then some (if i % 17 = 16 then 6 else 0) else none
  | .ump => if o = 0x014 then some (16 * 65536)
            else if o = 0x060 then some 0x03020100 else if o = 0x064 then some 0x07060504
            else if o = 0x068 then some 0x0B0A0908 else if o = 0x06C then some 0x0F0E0D0C else none
  | _ => none

/-- The reset value of the register at a register offset. -/
def regReset (off : Nat) : W32 :=
  match pageAt off with
  | none => 0#32
  | some (b, i) =>
    let o := off % 0x1000
    BitVec.ofNat 32 <|
      match perPageReset b i o with
      | some v => v
      | none =>
        if o = 0x000 then b.code * 2 ^ 24 + b.cls * 2 ^ 20 + pageInstance off * 256 + 0xA5
        else if o = 0x004 then 0xA1010010
        else if o = 0x008 then b.caps
        else if o = 0x010 then 5
        else if o < 0x014 then 0
        else fieldsReset b.fields o

namespace State

/-- The stored value of a register. -/
def reg (s : State) (off : Nat) : W32 := KMap.get s.regs (regReset off) off

def setReg (s : State) (off : Nat) (v : W32) : State := { s with regs := KMap.set s.regs (regReset off) off v }

/-- A field of a register of a page; `i` picks one of its copies. -/
def fld (s : State) (page : Nat) (f : Fld) (i : Nat := 0) : Nat :=
  bits (s.reg (page + f.off + i * f.stride)).toNat f.hi f.lo

/-- Put a value into a field, keeping the register's other bits; the value is cut to the field's width. -/
def setFld (s : State) (page : Nat) (f : Fld) (v : Nat) (i : Nat := 0) : State :=
  let o := page + f.off + i * f.stride
  let old := (s.reg o).toNat
  let w := 2 ^ (f.hi + 1 - f.lo)
  s.setReg o (BitVec.ofNat 32 (old - bits old f.hi f.lo * 2 ^ f.lo + v % w * 2 ^ f.lo))

/-- A 48-bit value whose low word and high 16 bits lie in two fields (R4). -/
def fld48 (s : State) (page : Nat) (lo hi : Fld) (i : Nat := 0) : Nat :=
  s.fld page lo i + s.fld page hi i * 2 ^ 32

def setFld48 (s : State) (page : Nat) (lo hi : Fld) (v : Nat) (i : Nat := 0) : State :=
  (s.setFld page lo v i).setFld page hi (v / 2 ^ 32) i

/-- Add to a field, saturating at its width. -/
def satFld (s : State) (page : Nat) (f : Fld) (n : Nat) (i : Nat := 0) : State :=
  s.setFld page f (min (s.fld page f i + n) (2 ^ (f.hi + 1 - f.lo) - 1)) i

/-- Raise a field to at least a value. -/
def maxFld (s : State) (page : Nat) (f : Fld) (n : Nat) (i : Nat := 0) : State :=
  s.setFld page f (min (max (s.fld page f i) n) (2 ^ (f.hi + 1 - f.lo) - 1)) i

/-- A 64-bit counter at an offset, low word first. -/
def reg64 (s : State) (off : Nat) : Nat := (s.reg off).toNat + (s.reg (off + 4)).toNat * 2 ^ 32

def setReg64 (s : State) (off v : Nat) : State :=
  (s.setReg off (BitVec.ofNat 32 v)).setReg (off + 4) (BitVec.ofNat 32 (v / 2 ^ 32))

/-! ## Parts of the state by index -/

def region (s : State) (r : Nat) : Region := KMap.get s.regions .init r
def setRegion (s : State) (r : Nat) (x : Region) : State := { s with regions := KMap.set s.regions .init r x }
def updRegion (s : State) (r : Nat) (f : Region → Region) : State := s.setRegion r (f (s.region r))

def cluster (s : State) (c : Nat) : Cluster := KMap.get s.clusters .init c
def setCluster (s : State) (c : Nat) (x : Cluster) : State := { s with clusters := KMap.set s.clusters .init c x }
def updCluster (s : State) (c : Nat) (f : Cluster → Cluster) : State := s.setCluster c (f (s.cluster c))

def stack (s : State) (n : Nat) : Stack := KMap.get s.stackMap .init n
def setStack (s : State) (n : Nat) (x : Stack) : State := { s with stackMap := KMap.set s.stackMap .init n x }
def updStack (s : State) (n : Nat) (f : Stack → Stack) : State := s.setStack n (f (s.stack n))

def session (s : State) (n : Nat) : Session := KMap.get s.sessions .closed n
def setSession (s : State) (n : Nat) (x : Session) : State := { s with sessions := KMap.set s.sessions .closed n x }
/-- The data messages of a session number that have left, oldest first: types 0x10 and above, numbered from 0 (R311). -/
def sessionSent (s : State) (n : Nat) : List OutMsg := s.outbox.filter fun m => m.dest == .session n && decide (16 ≤ m.typ)
/-- Those the host has not acknowledged. -/
def sessionUnacked (s : State) (n : Nat) : List OutMsg := (s.sessionSent n).drop ((s.session n).base + (s.session n).acked)

def trailer (s : State) (tile : Nat) : Trailer := KMap.get s.trailers .lost tile
def setTrailer (s : State) (tile : Nat) (t : Trailer) : State := { s with trailers := KMap.set s.trailers .lost tile t }

/-- Send a message. (DESIGN CHOICE, notes/assumptions/138.md) -/
def send (s : State) (m : OutMsg) : State := { s with outbox := s.outbox ++ [m] }

/-- The regions court n holds, as a mask (COURT_REGIONS). -/
def courtRegions (s : State) (n : Nat) : W32 := KMap.get s.assign 0#32 n

/-- Is the court created? Its mask is then not 0 (R345). -/
def courtCreated (s : State) (n : Nat) : Bool := s.courtRegions n != 0#32

/-- The court that holds a region (R20: at most one). -/
def courtOf (s : State) (r : Nat) : Option Nat :=
  (List.range 16).find? fun n => (s.courtRegions n).getLsbD r

/-- The regions of a court in ascending order. -/
def regionsOf (s : State) (n : Nat) : List Nat := (List.range 32).filter fun r => (s.courtRegions n).getLsbD r

/-- The court's current tag: court × 256 + epoch (R260). -/
def courtTag (s : State) (n : Nat) : BitVec 12 := BitVec.ofNat 12 (n * 256 + s.fld (Page.court n) F.COURT_EPOCH_epoch)

/-- PAGE_STATUS.state as stored: 4 probation, 5 retired, 6 standby, 7 in reset; 0 otherwise (Table 2.8). -/
def pageMode (s : State) (page : Nat) : Nat := (s.reg (page + 0x14)).toNat % 16

def setPageMode (s : State) (page v : Nat) : State :=
  s.setReg (page + 0x14) (BitVec.ofNat 32 ((s.reg (page + 0x14)).toNat / 16 * 16 + v % 16))

def pageRetired (s : State) (page : Nat) : Bool := s.pageMode page == 5

/-- Seconds since the management core started (R410). -/
def uptime (s : State) : Nat := s.fld Page.mc F.MC_UPTIME_seconds

/-- The physical cluster of logical cluster c of a region, as the repair map's mirror holds it (R36, R405);
none where the logical cluster is absent. -/
def physOf (s : State) (r c : Nat) : Option Nat :=
  let b := (s.reg (Page.ump r + 0x60 + c / 4 * 4)).toNat / 2 ^ (8 * (c % 4)) % 256
  if b = 0xFF then none else some b

end State

/-- Apply a state change for every element of a list, in order. -/
def forEach {α σ : Type} (xs : List α) (s : σ) (f : σ → α → σ) : σ := xs.foldl f s

/-- The set bits of a mask below n, ascending. -/
def maskBits (n m : Nat) : List Nat := (List.range n).filter fun i => bit m i

/-- A command's effect: everything it does to the state but the queue and the court assignment, which only create,
release and resets change (R20, R345, R346). -/
def effect (s : State) (f : State → State) : Host.Outcome State Fault Refusal :=
  .next { f s with pending := s.pending, assign := s.assign }

/-- The effect of a command that may change the court assignment: create and release. -/
def effectAssign (s : State) (f : State → State) : Host.Outcome State Fault Refusal :=
  .next { f s with pending := s.pending }

/-- The effect of a command that resets the package or turns its rails off: no court is left. -/
def effectReset (s : State) (f : State → State) : Host.Outcome State Fault Refusal :=
  .next { f s with pending := s.pending, assign := [] }

/-- A command whose conditions do not hold changes nothing: its sender offers it again later. (DESIGN CHOICE, notes/assumptions/11.md) -/
def turnedAway (s : State) : Host.Outcome State Fault Refusal := .next s

end Sys2Proof.Machine
end

