-- ==== Sys2Proof/Machine/Events.lean ====
section
/-! DEFINITION. Events: their codes and severities, the Scorecard record, the event message with its rate limit, PAGE_ERR
and PAGE_EVT, and SMBALERT (02_register_pages.md R49, R50; 16_fault_containment.md R382, R383, R408;
17_scorecard_and_counters.md R409 to R415; 20_package_and_pins.md R484). -/

namespace Sys2Proof.Machine

/-- Where an event comes from and what it carries: the raising page, the court of its key, its magnitude (R411), up to
eight words of detail (R318) and the capture of a sampled mismatch (Table 16.2). -/
structure Ev where
  page : Nat
  court : Option Nat
  mag : Nat := 1
  detail : List Nat := []
  capture : List Byte := []
  deriving DecidableEq, Repr

/-- Severity of every event (Tables 16.7, 18.4, 19.13 and 20.11). -/
def severityOf (code : Nat) : Nat :=
  if code ≥ 0xF000 then
    match code with
    | 0xF001 => 3 | 0xF002 => 2 | 0xF003 => 0 | 0xF004 => 4 | 0xF005 => 0 | 0xF006 => 0 | 0xF007 => 4 | _ => 0
  else if code % 256 < 16 then 1
  else
    match code with
    | 0x2015 => 0
    | 0x2314 => 0 | 0x2315 => 0 | 0x2316 => 0 | 0x2318 => 0
    | 0x3010 => 2 | 0x3011 => 2 | 0x3017 => 0 | 0x3018 => 0
    | 0x3115 => 0 | 0x3116 => 0 | 0x3117 => 0
    | 0x3210 => 0 | 0x3219 => 0 | 0x3213 => 2 | 0x3214 => 2 | 0x3215 => 2 | 0x3218 => 2
    | 0x3212 => 3 | 0x3216 => 3 | 0x3217 => 3
    | 0x4010 => 0 | 0x4012 => 2 | 0x4017 => 2 | 0x401A => 2
    | 0x4113 => 0 | 0x4114 => 0 | 0x4117 => 2 | 0x4118 => 2 | 0x4119 => 2 | 0x411D => 2 | 0x411B => 3
    | 0x0913 => 2 | 0x0914 => 2 | 0x0917 => 2 | 0x091A => 2 | 0x0918 => 0
    | 0x0B10 => 2 | 0x0B12 => 0
    | 0x0E10 => 2 | 0x0E11 => 2 | 0x0E13 => 2 | 0x0E12 => 0
    | 0x1012 => 3
    | 0x0A12 => 0 | 0x0A13 => 0 | 0x0A16 => 0 | 0x0A17 => 0
    | 0x0511 => 2 | 0x0512 => 2 | 0x0513 => 2 | 0x0514 => 4 | 0x0515 => 4
    | 0x0113 => 2 | 0x0114 => 4 | 0x0311 => 2 | 0x0312 => 0
    | 0x0610 => 0 | 0x0612 => 0
    | _ => 1

/-- The event code of an error bit of a page (R382). -/
def codeOf (page bit : Nat) : Nat :=
  match pageAt page with
  | some (b, _) => b.code * 256 + bit
  | none => bit

/-- The court of a page outside an event's own context: the court holding its region, or COURT page n (R409). -/
def pageCourt (s : State) (page : Nat) : Option Nat :=
  match pageAt page with
  | some (.court, n) => some n
  | _ => match pageRegion page with
    | some r => s.courtOf r
    | none => none

/-! ## The Scorecard (R409 to R415) -/

/-- Histogram bucket of a magnitude (R412). -/
def bucketOf (m : Nat) : Nat := Nat.log2 m

/-- The smallest index of a record that satisfies a test. -/
def scFind (s : State) (p : ScRec → Bool) : Option Nat :=
  (s.score.find? fun e => e.2.valid && p e.2).map (·.1)

/-- The lowest free index of the store. -/
def scFree (s : State) : Option Nat := (List.range 512).find? fun i => !(KMap.get s.score .free i).valid

/-- The record a full store gives up for an event of severity `sev`: strictly the lowest severity below it, and among
those the smallest update_seq (R414). -/
def scVictim (s : State) (sev : Nat) : Option Nat :=
  let low := s.score.foldl (fun acc e => if e.2.severity < acc then e.2.severity else acc) sev
  if low < sev then
    (s.score.foldl (fun (acc : Option (Nat × Nat)) e =>
      if e.2.severity = low then
        match acc with
        | none => some (e.1, e.2.seq)
        | some (i, q) => if e.2.seq < q then some (e.1, e.2.seq) else some (i, q)
      else acc) none).map (·.1)
  else none

/-- The extreme entry of an event (Table 17.3). -/
def extremeOf (s : State) (e : Ev) : Extreme :=
  ⟨min e.mag (2 ^ 32 - 1), e.page, s.lastHuddle, s.uptime, e.detail.take 8, e.capture⟩

/-- Update a record with an event (R410, R412, R413). `fresh` is the record's first event. -/
def scUpdate (s : State) (r : ScRec) (fresh : Bool) (code sev seq : Nat) (e : Ev) : ScRec :=
  let x := extremeOf s e
  let b := bucketOf x.magnitude
  { valid := true, code := code, courtValid := e.court.isSome, court := e.court.getD 0, severity := sev
    count := min (r.count + 1) (2 ^ 64 - 1), suppressed := r.suppressed, seq := seq
    firstUptime := if fresh then s.uptime else r.firstUptime, lastUptime := s.uptime
    firstHuddle := if fresh then s.lastHuddle else r.firstHuddle, lastHuddle := s.lastHuddle
    hist := KMap.set r.hist 0 b (min (KMap.get r.hist 0 b + 1) 0xFFFF)
    min := if fresh || x.magnitude < r.min.magnitude then x else r.min
    max := if fresh || r.max.magnitude < x.magnitude then x else r.max }

/-- Record an event: SC_TOTALn always, then its record, a free one, or one displaced (R410, R414). -/
def scRecord (s : State) (code sev : Nat) (e : Ev) : State :=
  let s := s.satFld Page.sc F.SC_TOTAL_count 1 sev
  let seq := (s.fld Page.sc F.SC_SEQ_seq + 1) % 2 ^ 32
  let put (s : State) (i : Nat) (r : ScRec) (fresh : Bool) : State :=
    let s := s.setFld Page.sc F.SC_SEQ_seq seq
    { s with score := KMap.set s.score .free i (scUpdate s r fresh code sev seq e) }
  let mine (r : ScRec) : Bool :=
    r.code == code && r.courtValid == e.court.isSome && r.court == e.court.getD 0
  match scFind s mine with
  | some i => put s i (KMap.get s.score .free i) false
  | none =>
    match scFree s with
    | some i => put s i .free true
    | none =>
      match scVictim s sev with
      | some i =>
        let s := s.satFld Page.sc F.SC_EVICTED_count (KMap.get s.score .free i).count
        put s i .free true
      | none => s.satFld Page.sc F.SC_LOST_count 1

/-- burst and per_min of a code: the first valid rate-table entry that names it, else its severity's default (R415). -/
def rateOf (s : State) (code sev : Nat) : Nat × Nat :=
  match s.rates.find? fun e => e.2.valid && e.2.code == code with
  | some (_, r) => (r.burst, r.perMin)
  | none =>
    match sev with
    | 0 => (s.fld Page.sc F.SC_RATE_DEF0_burst, s.fld Page.sc F.SC_RATE_DEF0_per_min)
    | 1 => (s.fld Page.sc F.SC_RATE_DEF1_burst, s.fld Page.sc F.SC_RATE_DEF1_per_min)
    | _ => (s.fld Page.sc F.SC_RATE_DEF2_burst, s.fld Page.sc F.SC_RATE_DEF2_per_min)

/-- Take a token of the code's bucket; the flag says whether there was one (R415). -/
def takeToken (s : State) (code sev : Nat) : State × Bool :=
  if 3 ≤ sev then (s, true)
  else
    let used := KMap.get s.spent 0 code
    if used < (rateOf s code sev).1 then ({ s with spent := KMap.set s.spent 0 code (used + 1) }, true)
    else (s, false)

/-- Count a withheld message in the record of its key (R415). -/
def suppress (s : State) (code : Nat) (court : Option Nat) : State :=
  match scFind s fun r => r.code == code && r.courtValid == court.isSome && r.court == court.getD 0 with
  | some i => { s with score := KMap.upd s.score .free i fun r =>
      { r with suppressed := Nat.min (r.suppressed + 1) (2 ^ 32 - 1) } }
  | none => s

/-- The sessions that receive a court's notices and events, or a device event (R351). -/
def audience (s : State) (court : Option Nat) : List Nat :=
  (s.sessions.filter fun e => e.2.isOpen && (e.2.device || court == some e.2.court)).map (·.1)

/-- The event message (R318). -/
def eventWords (s : State) (code sev : Nat) (e : Ev) : List Nat :=
  [code * 65536 + (e.court.getD 0) * 4096 + (if e.court.isSome then 2048 else 0) + sev * 256, e.page,
    s.lastHuddle % 2 ^ 32, s.lastHuddle / 2 ^ 32] ++ e.detail.take 8

/-- Send a message on H to the sessions of a court's audience, once for each; one with nobody to receive it is recorded
only, as notice-undelivered (R351). -/
def notify (s : State) (court : Option Nat) (typ : Nat) (ws : List Nat) : State :=
  match audience s court with
  | [] => scRecord s 0xF006 0 { page := Page.h, court := none }
  | ns => ns.foldl (fun s n => s.send ⟨.session n, typ, ws, []⟩) s

/-- Is the page of a court_scoped block, so that its events go to the court's own sessions too (R351)? -/
def courtScopedPage (page : Nat) : Bool :=
  match pageAt page with
  | some (b, _) => b.courtScoped
  | none => false

/-- Send an event message under the rate limit (R415). -/
def sendEvent (s : State) (code sev : Nat) (e : Ev) : State :=
  let (s, ok) := takeToken s code sev
  if ok then notify s (if courtScopedPage e.page then e.court else none) 0x12 (eventWords s code sev e) else suppress s code e.court

/-- SMBALERT_N: an event at or above SB_CTL.alert_sev asserts it (20_package_and_pins.md R484). -/
def smbAlert (s : State) (code sev : Nat) : State :=
  let lim := s.fld Page.sb F.SB_CTL_alert_sev
  if lim ≤ 4 ∧ lim ≤ sev then
    (s.setFld Page.sb F.SB_ALERT_code code).setFld Page.sb F.SB_ALERT_active 1
  else s

/-- Is an error bit of a page set? -/
def errSet (s : State) (page b : Nat) : Bool := bit (s.reg (page + 0x18)).toNat b

/-- Set an error bit of a page; the flag says whether the bit was newly set and unmasked (Table 2.9, R50). -/
def setErr (s : State) (page b : Nat) : State × Bool :=
  let mask := (s.reg (page + 0x1C)).toNat
  if errSet s page b then (s, false)
  else (s.setReg (page + 0x18) (BitVec.ofNat 32 ((s.reg (page + 0x18)).toNat ||| 2 ^ b)), !bit mask b)

/-- Does the page send event messages (PAGE_CTL.err_notify)? -/
def errNotify (s : State) (page : Nat) : Bool := bit (s.reg (page + 0x10)).toNat 2

/-- Record an event of an error bit with a given key: the bit, the Scorecard, PAGE_EVT.last_code, SMBALERT and one
message (R49, R50, R410). The actions of severity 3 and 4 are `raise`'s. (DEDUCED, notes/assumptions/7.md) -/
def noteBit (s : State) (bit : Nat) (e : Ev) : State :=
  let code := codeOf e.page bit
  let sev := severityOf code
  let (s, fresh) := setErr s e.page bit
  let s := scRecord s code sev e
  let s := s.setReg (e.page + 0x20)
    (BitVec.ofNat 32 ((s.reg (e.page + 0x20)).toNat / 65536 * 65536 + code))
  let s := smbAlert s code sev
  if fresh && errNotify s e.page then sendEvent s code sev e else s

/-- Record an event of an error bit; where the bit is already set and err_overflow is not, err_overflow sets as an event of
its own (Table 2.9, R382; notes/assumptions/7.md). -/
def noteEv (s : State) (bit : Nat) (e : Ev) : State :=
  let again := errSet s e.page bit && !errSet s e.page 0
  let s := noteBit s bit e
  if again then noteBit s 0 { page := e.page, court := e.court } else s

/-- Record an event of an error bit under the court of its page. -/
def note (s : State) (page bit : Nat) : State := noteEv s bit { page := page, court := pageCourt s page }

/-- Record an event of an error bit in a named court's key. -/
def noteIn (s : State) (page bit : Nat) (court : Option Nat) : State := noteEv s bit { page := page, court := court }

/-- Record a device event, which no error bit carries, and send it (R382). -/
def noteDevice (s : State) (code sev : Nat) (e : Ev) : State :=
  let s := scRecord s code sev e
  let s := smbAlert s code sev
  sendEvent s code sev e

/-! ## Performance counters (R419, R420) -/

/-- What a countable event carries for the filters of Table 17.4: count, court, master, address, classes, privilege
(29 court work, 30 device work, 31 internal work). -/
structure Cnt where
  n : Nat := 1
  court : Option Nat := none
  master : Option Nat := none
  addr : Option Nat := none
  classes : Nat := 0
  priv : Nat := 29
  deriving DecidableEq, Repr

/-- Does an event pass every enabled filter of a selection (R420)? -/
def counted (s : State) (sel : Nat) (c : Cnt) : Bool :=
  let privMask := bits sel 31 29
  let cls := bits sel 15 8
  (privMask == 0 || bit privMask (c.priv - 29))
    && (!bit sel 28 || c.court == some (bits sel 27 24))
    && (!bit sel 23 || c.master == some (bits sel 22 20))
    && (!bit sel 19 ||
        (match c.addr with
         | none => false
         | some a =>
           let k := bits sel 18 17
           decide (s.fld48 Page.ctr F.CTR_RANGE_base_lo F.CTR_RANGE_base_hi k ≤ a) &&
             decide (a < s.fld48 Page.ctr F.CTR_RANGE_limit_lo F.CTR_RANGE_limit_hi k)))
    && (cls == 0 || c.classes &&& cls != 0)

/-- Are the counters of a page frozen: by CTR (R421) or because the block is retired (R58)? -/
def frozen (s : State) (page : Nat) : Bool :=
  s.fld Page.ctr F.CTR_STAT_frozen == 1 || s.pageRetired page

/-- Count `c.n` events of a selector on a page's programmable counters. -/
def count (s : State) (page sel : Nat) (c : Cnt) : State :=
  if frozen s page then s
  else forEach (List.range 8) s fun s i =>
    let v := (s.reg (page + 0x100 + 4 * i)).toNat
    if v % 256 = sel ∧ sel ≠ 0 ∧ counted s v c then
      s.setReg64 (page + 0x140 + 8 * i) ((s.reg64 (page + 0x140 + 8 * i) + c.n) % 2 ^ 64)
    else s

/-- Count on fixed counter `k` of a page; it wraps at 64 bits. -/
def fixedCount (s : State) (page k n : Nat) : State :=
  if frozen s page then s
  else s.setReg64 (page + 0x180 + 8 * k) ((s.reg64 (page + 0x180 + 8 * k) + n) % 2 ^ 64)

end Sys2Proof.Machine
end

