-- ==== Sys2Proof/Machine/Memory.lean ====
section
/-! DEFINITION. Tiles in the stacks: addresses, ranges and tags, trailers, reads by consumers and carriers, whole and partial
writes, copies, and poison (11_stacks_and_tiles.md R248 to R263, R267). -/

namespace Sys2Proof.Machine

/-- Who makes an access (R257, R261, R420): its court context (none: device context), the reader code of
STK_LAST_FAIL_INFO, and the master code of Table 17.5. -/
structure Who where
  court : Option Nat
  reader : Nat
  master : Nat
  deriving DecidableEq, Repr

def Who.device (reader master : Nat) : Who := ⟨none, reader, master⟩

def tileBytes : Nat := 4096

/-- Fields of a local address (R249). -/
def stackOf (a : Nat) : Nat := a / 2 ^ 43 % 32
def deepOf (a : Nat) : Bool := bit a 42
def offOf (a : Nat) : Nat := a % 2 ^ 42
def tileOf (a : Nat) : Nat := offOf a / tileBytes
/-- Tiles of a tier: 2^35 bytes near, 2^36 deep. -/
def tierTiles (deep : Bool) : Nat := if deep then 2 ^ 24 else 2 ^ 23
/-- The first address of a stack's tier. -/
def tierBase (stack : Nat) (deep : Bool) : Nat := stack * 2 ^ 43 + (if deep then 2 ^ 42 else 0)
/-- The channel index of a tile (R250), numbered as STK_STRIKES numbers them: near 0 to 15, deep 17 to 24. -/
def channelOf (a : Nat) : Nat := if deepOf a then 17 + tileOf a % 8 else tileOf a % 16
/-- The channel that serves an address: the index's own or the one in its place. -/
def servingChannel (s : State) (a : Nat) : Nat := KMap.get (s.stack (stackOf a)).serve (channelOf a) (channelOf a)
/-- The channel as STK_LAST_FAIL_INFO numbers it within its tier. -/
def channelInTier (s : State) (a : Nat) : Nat := if deepOf a then servingChannel s a - 17 else servingChannel s a

/-- Does the address lie within its tier (R249)? -/
def inTier (a : Nat) : Bool := decide (tileOf a < tierTiles (deepOf a))

/-- The valid range that holds a tile (R260). -/
def rangeAt (s : State) (a : Nat) : Option Range :=
  ((s.stack (stackOf a)).ranges.find? fun e =>
    e.2.valid && e.2.deep == deepOf a && decide (e.2.base ≤ tileOf a) && decide (tileOf a < e.2.base + e.2.tiles)).map (·.2)

/-- The tag a write stamps: that of the range holding the tile, or 0x000 (R260). -/
def tagAt (s : State) (a : Nat) : BitVec 12 :=
  match rangeAt s a with
  | some r => r.tag
  | none => 0#12

/-- The trailer of the tile holding an address; trailers are keyed by address ÷ 4096. -/
def trailerAt (s : State) (a : Nat) : Trailer := s.trailer (a / tileBytes)

/-- Trailer word 1 with the poison bit as given (Table 11.2). -/
def word1 (tag : BitVec 12) (poison : Bool) (format : BitVec 4) (gen : BitVec 15) : Nat :=
  tag.toNat * 2 ^ 20 + poison.toNat * 2 ^ 19 + format.toNat * 2 ^ 15 + gen.toNat

/-- The check of a tile: CRC-32C over payload and word 1 with bit 19 taken as 0 (R253). -/
def tileCheck (payload : List Byte) (tag : BitVec 12) (format : BitVec 4) (gen : BitVec 15) : BitVec 32 :=
  BitVec.ofNat 32 (crc32c (payload ++ leBytes 4 (word1 tag false format gen)))

/-- The 8 bytes of a trailer. -/
def trailerBytes (t : Trailer) : List Byte :=
  leBytes 4 t.check.toNat ++ leBytes 4 (word1 t.tag t.poison t.format t.gen)

/-- Record the last failure of a stack (STK_LAST_FAIL). -/
def lastFail (s : State) (w : Who) (a kind : Nat) (gen : Nat) : State :=
  let p := Page.stk (stackOf a)
  let s := s.setFld48 p F.STK_LAST_FAIL_LO_addr_lo F.STK_LAST_FAIL_HI_addr_hi (a % 2 ^ 48)
  s.setReg (p + 0x6C) (BitVec.ofNat 32
    (kind * 2 ^ 28 + (w.court.getD 0) * 2 ^ 24 + (deepOf a).toNat * 2 ^ 23 + channelInTier s a * 2 ^ 18
      + w.reader % 8 * 2 ^ 15 + gen % 2 ^ 15))

/-- Counter attributes of an access to a tile (R420): its classes, and internal work for the scrubber. -/
def tileCnt (w : Who) (a : Nat) (write : Bool) : Cnt :=
  { court := w.court, master := some w.master, addr := some (a % 2 ^ 48)
    classes := (if write then 0x40 else 0x80) + (if deepOf a then 0x10 else 0x20)
    priv := if w.master = 6 then 31 else if w.court.isSome then 29 else 30 }

/-- Count one tile read or written (Table 11.9, STK_FCNT). -/
def countTile (s : State) (w : Who) (a : Nat) (write : Bool) : State :=
  let p := Page.stk (stackOf a)
  let sel := (if write then 2 else 1) + (if deepOf a then 2 else 0)
  fixedCount (count s p sel (tileCnt w a write)) p (if write then 1 else 0) 1

/-- Why an access is refused before it touches the tile (R249, R261, R268). -/
inductive Refused where
  | stackRetired | addressRange | courtRange | tagMismatch
  deriving DecidableEq, Repr

/-- The check before any DRAM access: the stack in service, the address in its tier, and in court context a valid range
of the court's current tag (R261 step 1). -/
def admits (s : State) (w : Who) (a : Nat) : Option Refused :=
  if s.pageRetired (Page.stk (stackOf a)) then some .stackRetired
  else if !inTier a then some .addressRange
  else match w.court with
    | none => none
    | some n =>
      match rangeAt s a with
      | some r => if r.tag = s.courtTag n then none else some .courtRange
      | none => some .courtRange

/-- An event of a stack's page in a court, counted (Table 11.9 selector 0x0D). -/
def stkNote (s : State) (p bit : Nat) (court : Option Nat) : State :=
  count (noteIn s p bit court) p 0x0D { court := court, priv := if court.isSome then 29 else 30 }

/-- Raise the error of a refused access on the stack's page, in the court that made it. -/
def noteRefused (s : State) (w : Who) (a : Nat) (r : Refused) : State :=
  let p := Page.stk (stackOf a)
  match r with
  | .stackRetired => stkNote s p Err.stk_stack_retired w.court
  | .addressRange => stkNote s p Err.stk_address_range w.court
  | .courtRange => count (stkNote s p Err.stk_court_range w.court) p 0x0A (tileCnt w a false)
  | .tagMismatch => count (stkNote s p Err.stk_tag_mismatch w.court) p 0x0A (tileCnt w a false)

/-- What a read of a tile gives: nothing, or its payload with its trailer; a poisoned tile's trailer says so. -/
inductive TileRead where
  | refused (why : Refused)
  | data (payload : List Byte) (t : Trailer)
  deriving DecidableEq, Repr

/-- What an admitted read of a tile delivers: a lost tile as 4,096 zeros with poison 1, generation 0 and its range's tag
(R267), a tile whose path is at fault poisoned (R258), another tile as stored. -/
def tileData (s : State) (a : Nat) : List Byte × Trailer :=
  let base := a / tileBytes * tileBytes
  let t := trailerAt s a
  if t.state = .lost then
    let z := List.replicate tileBytes 0#8
    let tag := tagAt s a
    (z, { check := tileCheck z tag 0#4 0#15, tag := tag, poison := true, format := 0#4, gen := 0#15, state := .lost })
  else (Memory.read s.mem base tileBytes, { t with poison := t.poison || KMap.get s.pathBad false (a / tileBytes) })

/-- The state after a tile is delivered with a trailer: the read is counted; a lost tile raises lost_read (R267), a tile
that arrives poisoned check_poison on the stack's page (Table 11.3 step 5, R259). -/
def tileDelivered (s : State) (w : Who) (a : Nat) (t : Trailer) : State :=
  let p := Page.stk (stackOf a)
  let s := countTile { s with pathBad := KMap.set s.pathBad false (a / tileBytes) false } w a false
  let s := if t.state = .lost then lastFail (stkNote s p Err.stk_lost_read w.court) w a 5 0 else s
  if t.poison then
    let s := stkNote s p Err.stk_check_poison w.court
    let s := count s p 0x09 (tileCnt w a false)
    if w.reader = 6 then lastFail s w a 6 t.gen.toNat else s
  else s

/-- Is a tile's tag another than that of the court that reads it (R261 step 2)? -/
def tagWrong (s : State) (w : Who) (t : Trailer) : Bool :=
  match w.court with
  | some n => t.tag != s.courtTag n
  | none => false

/-- Read the tile that holds an address (R257 to R261, R267). -/
def readTile (s : State) (w : Who) (a : Nat) : State × TileRead :=
  match admits s w a with
  | some r => (noteRefused s w a r, .refused r)
  | none =>
    let (bs, t) := tileData s a
    if tagWrong s w t then (noteRefused s w a .tagMismatch, .refused .tagMismatch)
    else (tileDelivered s w a t, .data bs t)

/-- The tiles a span of bytes touches, as addresses. -/
def spanTiles (a n : Nat) : List Nat :=
  if n = 0 then [] else (List.range ((a + n - 1) / tileBytes - a / tileBytes + 1)).map fun i => (a / tileBytes + i) * tileBytes

/-- What a read of a span gives: refused, poisoned (nothing may be used), or its bytes with the format codes met. -/
inductive SpanRead where
  | refused (why : Refused)
  | poisoned (tile : Nat)
  | bytes (bs : List Byte) (formats : List Nat)
  deriving DecidableEq, Repr

/-- Read tiles in ascending order, stopping at the first that is refused; poison anywhere poisons the whole. -/
def readTiles (s : State) (w : Who) (tiles : List Nat) : State × SpanRead :=
  tiles.foldl (fun (acc : State × SpanRead) a =>
    match acc with
    | (s, .refused r) => (s, .refused r)
    | (s, .poisoned p) =>
      match readTile s w a with
      | (s, .refused r) => (s, .refused r)
      | (s, .data _ _) => (s, .poisoned p)
    | (s, .bytes bs fs) =>
      match readTile s w a with
      | (s, .refused r) => (s, .refused r)
      | (s, .data b t) => if t.poison then (s, .poisoned a) else (s, .bytes (bs ++ b) (fs ++ [t.format.toNat])))
    (s, .bytes [] [])

/-- Read `n` bytes from address `a` as a consumer. -/
def readSpan (s : State) (w : Who) (a n : Nat) : State × SpanRead :=
  match readTiles s w (spanTiles a n) with
  | (s, .bytes bs fs) => (s, .bytes ((bs.drop (a % tileBytes)).take n) fs)
  | r => r

/-- Put a whole tile with a new trailer: format, generation, poison and the tag of its range (R254, R260). -/
def putTile (s : State) (a : Nat) (bs : List Byte) (format : BitVec 4) (gen : BitVec 15) (poison : Bool) : State :=
  let base := a / tileBytes * tileBytes
  let tag := tagAt s a
  let s := { s with
    mem := Memory.write s.mem base (bs.take tileBytes)
    pathBad := KMap.set s.pathBad false (a / tileBytes) false }
  s.setTrailer (a / tileBytes) ⟨tileCheck bs tag format gen, tag, poison, format, gen, .written⟩

/-- The generation a new write gives: the previous one plus 1; a lost tile counts as 0 (R254). -/
def nextGen (t : Trailer) : BitVec 15 := if t.state = .lost then 1#15 else t.gen + 1#15

/-- Write a whole tile (R254). -/
def writeTile (s : State) (w : Who) (a : Nat) (bs : List Byte) (format : Nat) : State × Option Refused :=
  match admits s w a with
  | some r => (noteRefused s w a r, some r)
  | none => (countTile (putTile s a bs (BitVec.ofNat 4 format) (nextGen (trailerAt s a)) false) w a true, none)

/-- Write a copy of a tile: the source trailer's format, generation and poison are kept (R254, R259). -/
def writeCopy (s : State) (w : Who) (a : Nat) (bs : List Byte) (t : Trailer) (poison : Bool) : State × Option Refused :=
  match admits s w a with
  | some r => (noteRefused s w a r, some r)
  | none => (countTile (putTile s a bs t.format t.gen poison) w a true, none)

/-- Replace bytes of a tile's payload. -/
def overlay (old : List Byte) (off : Nat) (new : List Byte) : List Byte :=
  old.take off ++ new ++ old.drop (off + new.length)

/-- A write of less than a tile: read, merge, write again; poison is kept, and a lost tile stays lost (R255, R267). -/
def mergeTile (s : State) (w : Who) (a : Nat) (bs : List Byte) (format : Nat) : State × Option Refused :=
  match admits s w a with
  | some r => (noteRefused s w a r, some r)
  | none =>
    let t := trailerAt s a
    let s := count s (Page.stk (stackOf a)) 0x07 (tileCnt w a true)
    if t.state = .lost then (countTile s w a true, none)
    else
      let old := Memory.read s.mem (a / tileBytes * tileBytes) tileBytes
      (countTile (putTile s a (overlay old (a % tileBytes) bs) (BitVec.ofNat 4 format) (nextGen t) t.poison) w a true, none)

/-- The part of a span within one tile: address and bytes. -/
def spanPart (a : Nat) (bs : List Byte) (tile : Nat) : Nat × List Byte :=
  let lo := max a tile
  let hi := min (a + bs.length) (tile + tileBytes)
  (lo, (bs.drop (lo - a)).take (hi - lo))

/-- Write a span of bytes, whole tiles as such and the rest by merging, in ascending order; it stops at the first
refusal. -/
def writeSpan (s : State) (w : Who) (a : Nat) (bs : List Byte) (format : Nat) : State × Option Refused :=
  (spanTiles a bs.length).foldl (fun (acc : State × Option Refused) tile =>
    match acc with
    | (s, some r) => (s, some r)
    | (s, none) =>
      let (lo, part) := spanPart a bs tile
      if part.length = tileBytes then writeTile s w lo part format else mergeTile s w lo part format)
    (s, none)

/-- Is any tile of a span waiting for the Caddie's rebuild, so that an access to it waits (R267)? -/
def rebuildWaits (s : State) (a n : Nat) : Bool :=
  (spanTiles a n).any fun t => (trailerAt s t).state == .rebuilding

/-- Is any of a run of tiles waiting for rebuild? -/
def tilesWait (s : State) (tiles : List Nat) : Bool := tiles.any fun t => (trailerAt s t).state == .rebuilding

/-- Is an address tile-aligned (R249: whole-tile operations)? -/
def aligned (a : Nat) : Bool := a % tileBytes == 0

/-- Refuse a whole-tile operation at an unaligned address as out of range (R249). -/
def refuseUnaligned (s : State) (w : Who) (a : Nat) : State := noteRefused s w a .addressRange

/-- Copy one whole tile as a carrier (R254, R259). -/
def copyTile (s : State) (w : Who) (src dst : Nat) : State × Option Refused :=
  match readTile s { w with reader := 6 } src with
  | (s, .refused r) => (s, some r)
  | (s, .data bs t) => writeCopy s w dst bs t t.poison

/-- Copy a run of tiles; it stops at the first refusal. -/
def copyTiles (s : State) (w : Who) (src dst n : Nat) : State × Option Refused :=
  (List.range n).foldl (fun (acc : State × Option Refused) i =>
    match acc with
    | (s, some r) => (s, some r)
    | (s, none) => copyTile s w (src + i * tileBytes) (dst + i * tileBytes)) (s, none)

/-- Lose every tile of a tier channel or stack: payload and trailer go back to what an unlisted tile reads as. -/
def loseTiles (s : State) (gone : Nat → Bool) : State :=
  { s with
    mem := s.mem.filter fun e => !gone e.1
    trailers := s.trailers.filter fun e => !gone (e.1 * tileBytes) }

/-- Is any element poisoned, refused or of a format other than named (R62)? -/
def formatsAgree (named : Nat) (fs : List Nat) : Bool := fs.all fun f => Fmt.agree f named

end Sys2Proof.Machine
end

