-- ==== Sys2Proof/Machine/Transport.lean ====
section
/-! DEFINITION. Chesy flows as their sender keeps them: sequence, window, link, acknowledgement, retransmission and failure
(13_fabric_and_collectives.md R310 to R314). -/

namespace Sys2Proof.Machine

def deviceId (s : State) : Nat := s.fld Page.pkg F.PKG_DEVICE_ID_device_id

/-- The package is ready (19_firmware_and_trust.md Table 19.5 step 12): H accepts sessions and the fabric ports run. -/
def isReady (s : State) : Bool := s.fld Page.pkg F.PKG_BOOT_boot_phase == 3

/-! ## Ports -/

/-- Does a fabric port carry traffic: its link up and not held for a duplicate ID (R308, R312)? -/
def portUp (s : State) (p : Nat) : Bool :=
  s.fld (Page.eth p) F.ETH_STATUS_mode != 0 && s.fld (Page.eth p) F.ETH_STATUS_held == 0

/-- Is a port's Chesy traffic paused by flow control (R314)? Ports are numbered 1 + p, H 0. -/
def portPaused (s : State) (q : Nat) : Bool := KMap.get s.paused false q

/-- The lowest port of an allowed set that carries traffic and is not paused. (DESIGN CHOICE, notes/assumptions/93.md) -/
def pickPort (s : State) (allowed : Nat) : Option Nat :=
  (List.range 18).find? fun p => bit allowed p && portUp s p && !portPaused s (1 + p)

def allPorts : Nat := 2 ^ 18 - 1

/-- Does the fabric run: the package ready, and no device-fatal event (R384 step 3)? -/
def fabricUp (s : State) : Bool := isReady s && !s.fatal

/-! ## Flows -/

def flowKey (dev fl : Nat) : Nat := dev * 2 ^ 32 + fl

def flowOf (s : State) (dev fl : Nat) : Flow := KMap.get s.flows .init (flowKey dev fl)

/-- Put a flow and show the count of open ones. -/
def setFlow (s : State) (dev fl : Nat) (f : Flow) : State :=
  let s := { s with flows := KMap.set s.flows .init (flowKey dev fl) f }
  s.setFld Page.chesy F.CHESY_STATUS_open_flows (s.flows.filter fun e => e.2.isOpen).length

/-- A flow opens at its first use with the window of CHESY_CWND_INIT (R314). (DESIGN CHOICE, notes/assumptions/95.md) -/
def openFlow (s : State) (dev fl ports : Nat) : State :=
  let f := flowOf s dev fl
  if f.isOpen then setFlow s dev fl { f with ports := ports }
  else setFlow s dev fl { f with isOpen := true, ports := ports, cwnd := s.fld Page.chesy F.CHESY_CWND_INIT_bytes }

def cwndMin : Nat := 16 * 1024
def cwndMax : Nat := 64 * 1024 * 1024

/-- Bytes of a message on the wire beyond its headers. -/
def sentBytes (m : Sent) : Nat := 4 * m.words.length + m.data.length

def chesyCnt (s : State) (sel : Nat) : State := count s Page.chesy sel { priv := 30, master := some 5 }

/-- Put a message on a port. -/
def emit (s : State) (dev : Nat) (m : Sent) : State :=
  let s := s.send ⟨.device dev, m.typ, m.words, m.data⟩
  let s := count s (Page.eth m.port) 0x01 { priv := 30, master := some 5 }
  chesyCnt s 0x01

/-- Send waiting messages while the window, the 1,024 unacknowledged and a port allow (R311, R314). -/
def pump : Nat → State → Nat → Nat → State
  | 0, s, _, _ => s
  | k + 1, s, dev, fl =>
    let f := flowOf s dev fl
    match f.waiting with
    | [] => s
    | m :: rest =>
      let used := (f.unacked.map sentBytes).sum
      match pickPort s f.ports with
      | none => s
      | some p =>
        if f.unacked.length < 1024 ∧ (f.unacked = [] ∨ used + sentBytes m ≤ f.cwnd) ∧ fabricUp s then
          let m := { m with seq := f.next, sends := 1, port := p }
          let s := setFlow s dev fl { f with waiting := rest, unacked := f.unacked ++ [m], next := (f.next + 1) % 2 ^ 32 }
          pump k (emit s dev m) dev fl
        else s

/-- Send a data message on a flow to a device; a failed flow refuses it (R312). `src` names the tiles it carries. -/
def sendFlow (s : State) (dev fl ports typ : Nat) (words : List Nat) (data : List Byte) (src : List Nat) : State :=
  if (flowOf s dev fl).failed then s
  else
    let s := openFlow s dev fl ports
    let f := flowOf s dev fl
    let s := setFlow s dev fl { f with waiting := f.waiting ++ [⟨0, typ, words, data, src, 0, 0⟩] }
    pump (f.waiting.length + 1) s dev fl

/-- Has a flow delivered everything it was given? -/
def flowIdle (s : State) (dev fl : Nat) : Bool :=
  let f := flowOf s dev fl
  f.unacked == [] && f.waiting == []

/-- Is a sequence number covered by an acknowledgement of everything below `ack`, modulo 2^32? -/
def below (seq ack : Nat) : Bool := decide ((ack + 2 ^ 32 - 1 - seq) % 2 ^ 32 < 2 ^ 31)

/-- Free acknowledged messages: those below ack and those sack names (R311); count their bytes, marked where ece is set
(R314). -/
def applyAck (s : State) (dev fl ack sack : Nat) (ece : Bool) : State :=
  let f := flowOf s dev fl
  if !f.isOpen then s
  else
    let got (m : Sent) : Bool :=
      below m.seq ack || (let d := (m.seq + 2 ^ 32 - ack - 1) % 2 ^ 32; decide (d < 32) && bit sack d)
    let n := ((f.unacked.filter got).map sentBytes).sum
    let s := setFlow s dev fl
      { f with unacked := f.unacked.filter fun m => !got m, acked := f.acked + n, marked := f.marked + (if ece then n else 0) }
    let s := if ece then chesyCnt s 0x05 else s
    pump (f.waiting.length + 1) s dev fl

/-- Read the tiles of a message again from their stacks (R316). -/
def rereadTiles (s : State) (m : Sent) : State × List Byte :=
  m.src.foldl (fun (acc : State × List Byte) a =>
    match readTile acc.1 (.device 6 5) a with
    | (s, .refused _) => (s, acc.2)
    | (s, .data bs t) => (s, acc.2 ++ bs ++ trailerBytes t)) (s, [])

/-- Send one unacknowledged message again. -/
def resendOne (s : State) (dev fl : Nat) (m : Sent) (reread : Bool) : State :=
  let (s, data) := if reread && m.src != [] then rereadTiles s m else (s, m.data)
  let f := flowOf s dev fl
  match pickPort s f.ports with
  | none => s
  | some p =>
    let m := { m with data := data, sends := m.sends + 1, port := p }
    let s := setFlow s dev fl { f with unacked := f.unacked.map fun x => if x.seq = m.seq then m else x }
    chesyCnt (emit s dev m) 0x03

/-- What the failure of a flow does to its users beyond the transport; the users' chapters supply it. -/
abbrev FlowFail := State → Nat → Nat → State

/-- A flow fails (R312): flow-failed, its messages fail, new ones are refused until it is reopened. -/
def failFlow (s : State) (dev fl : Nat) (users : FlowFail) : State :=
  let f := flowOf s dev fl
  let s := setFlow s dev fl { f with failed := true, unacked := [], waiting := [] }
  users (noteIn s Page.chesy Err.chesy_flow_failed none) dev fl

/-- Resend the oldest unacknowledged message, or fail its flow past the retries. -/
def retransmit (s : State) (dev fl : Nat) (reread : Bool) (m : Sent) (users : FlowFail) : State :=
  if s.fld Page.chesy F.CHESY_RTO_retries + 1 ≤ m.sends then failFlow s dev fl users
  else resendOne s dev fl m reread

end Sys2Proof.Machine
end

