-- ==== Sys2Proof/Machine/Discards.lean ====
section
/-! DEFINITION. What an abort, a save or a retirement discards in the engines, and what a court assignment clears in a
region (14_host_port.md Table 14.5; 07_statistics_tap.md R171; 08_root_engines.md R194; 12_caddie.md R293;
13_fabric_and_collectives.md R323, R330; 10_spatial_pipelines.md R246). -/

namespace Sys2Proof.Machine

/-- The clusters of a region by instance, spare included. -/
def clustersOf (r : Nat) : List Nat := (List.range 17).map (clusterOf r)

/-- Registers of a page back at their reset values. -/
def resetRegs (s : State) (page lo hi : Nat) (keep : List Nat) : State :=
  { s with regs := s.regs.filter fun e =>
      !(decide (page + lo ≤ e.1) && decide (e.1 ≤ page + hi)) || keep.contains (e.1 - page) }

/-- Clear the block half of PAGE_STATUS. -/
def clearStatus (s : State) (page : Nat) : State :=
  let v := (s.reg (page + 0x14)).toNat % 65536
  let r := (regReset (page + 0x14)).toNat / 65536 * 65536
  s.setReg (page + 0x14) (BitVec.ofNat 32 (r + v))

/-- The tap discards the partial sums of a cluster and frees its pairs without a drain (R171). -/
def discardTapCluster (s : State) (c : Nat) : State :=
  let x := s.cluster c
  if x.ring = [] ∧ x.pairs = [] then s
  else
    let s := s.setCluster c { x with ring := [], ready := [], pairs := [] }
    let s := resetRegs s (Page.st c) 0x40 0x4F []
    let s := s.setFld (Page.st c) F.ST_RING_STAT_used 0
    let s := s.setFld (Page.st c) F.ST_STATUS_pair0 0
    let s := s.setFld (Page.st c) F.ST_STATUS_pair1 0
    note s (Page.st c) Err.st_tap_discarded

def discardTap (s : State) (r : Nat) : State := forEach (clustersOf r) s discardTapCluster

/-- What a court assignment clears in a cluster: the accumulators with marks, counts and groups (05_accumulators.md R135),
the VE with its cluster store (06_vector_lanes.md R138), the tap (07_statistics_tap.md R172). Weight banks stay. -/
def clearCluster (s : State) (c : Nat) : State :=
  let x := s.cluster c
  let units := (List.range 4).foldl (fun m u =>
    KMap.upd m TUnit.init u fun t => { t with groups := [], counts := [], closed := [] }) x.units
  let s := s.setCluster c { Cluster.init with units := units }
  let s := resetRegs s (Page.tu c) 0x68 0x68 []
  let s := resetRegs s (Page.acc c) 0x44 0x58 []
  let s := resetRegs s (Page.ve c) 0x40 0x48 []
  let s := resetRegs s (Page.ve c) 0x50 0x54 []
  let s := resetRegs s (Page.st c) 0x40 0xFF []
  let s := clearStatus s (Page.acc c)
  let s := clearStatus s (Page.ve c)
  clearStatus s (Page.st c)

/-! ## Root requests (08_root_engines.md R188, R194) -/

def rootQueue (s : State) (r : Nat) : List RootReq := KMap.get s.roots [] r

/-- Set a region's queue and show its length. -/
def setRootQueue (s : State) (r : Nat) (q : List RootReq) : State :=
  let s := { s with roots := KMap.set s.roots [] r q }
  let s := s.setFld (Page.re r) F.RE_STATUS_queue_used q.length
  let s := s.setFld (Page.re r) F.RE_QUEUE_STAT_used q.length
  s.maxFld (Page.re r) F.RE_QUEUE_STAT_high_water q.length

/-- Fields of a root request descriptor (Table 8.1). -/
def reqWord (b : List Byte) (i : Nat) : Nat := wordAt b i
def reqLayer (b : List Byte) : Nat := bits (wordAt b 1) 31 16
def reqKind (b : List Byte) : Nat := bits (wordAt b 1) 15 15
def reqBlock (b : List Byte) : Nat := bits (wordAt b 2) 15 8
def reqUseFrom (b : List Byte) : Nat := wordAt b 6 + bits (wordAt b 7) 15 0 * 2 ^ 32
def reqSlot (b : List Byte) : Nat := (wordAt b 10 + wordAt b 11 * 2 ^ 32) % 2 ^ 48

/-- Rewrite the words of a slot's control tile; the rest of the tile is zero (Table 8.4). -/
def updCtl (s : State) (w : Who) (slot : Nat) (f : List Nat → List Nat) : State :=
  match readTile s w slot with
  | (s, .refused _) => s
  | (s, .data bs t) =>
    if t.poison then s
    else (writeTile s w slot (wordBytes (f ((List.range 8).map (wordAt bs))) ++ List.replicate 4064 0#8) 0).1

/-- The first request of a region's queue finishes with an outcome (R188, RE_LAST_DONE). -/
def finishRoot (s : State) (r outcome iters : Nat) : State :=
  match rootQueue s r with
  | [] => s
  | q :: rest =>
    let slot := reqSlot q.desc
    let next := ((rest.find? fun x => reqSlot x.desc == slot).map fun x => reqUseFrom x.desc).getD 0
    let s := updCtl s ⟨q.court, 4, 0⟩ slot fun w =>
      [w.getD 0 0, w.getD 1 0, w.getD 2 0, w.getD 3 0 / 65536 * 65536 + (w.getD 3 0 % 65536 - 1),
        next % 2 ^ 32, next / 2 ^ 32, w.getD 6 0, w.getD 7 0]
    let s := setRootQueue s r rest
    s.setReg (Page.re r + 0x4C) (BitVec.ofNat 32
      (outcome * 2 ^ 29 + reqKind q.desc * 2 ^ 28 + reqBlock q.desc * 2 ^ 20 + min iters 255 * 2 ^ 12
        + reqLayer q.desc % 4096))

def discardGo (s : State) (r : Nat) : Nat → State
  | 0 => s
  | n + 1 => discardGo (finishRoot s r 6 0) r n

/-- Every queued request of a region is discarded; each finishes under R188 without a commit (R194). -/
def discardRoots (s : State) (r : Nat) : State :=
  match rootQueue s r with
  | [] => s
  | q => note (discardGo s r q.length) (Page.re r) Err.re_root_discarded

/-- What a court assignment clears in a region (R246): every RG register but RG_DEADLINE, the area registers and the
counters; the set table, the rings and the bench; the region's program; its clusters; and the RE queue. -/
def clearRegion (s : State) (r : Nat) : State :=
  let s := resetRegs s (Page.rg r) 0x44 0x94 [0x60, 0x64, 0x68, 0x6C, 0x70, 0x74]
  let s := clearStatus s (Page.rg r)
  let s := s.setRegion r .init
  let s := forEach (clustersOf r) s clearCluster
  let s := { s with roots := KMap.set s.roots [] r [] }
  clearStatus (resetRegs s (Page.re r) 0x40 0x60 []) (Page.re r)


/-! ## Version rings and the Caddie's pending step (12_caddie.md R276, R289, R293) -/

/-- Slots of a ring header; its 64 bytes hold seven. -/
def ringSlots (b : List Byte) : Nat := min (bits (wordAt b 0) 7 4) 7
def ringCurrent (b : List Byte) : Nat := bits (wordAt b 0) 3 0
def ringTiles (b : List Byte) : Nat := wordAt b 1
def ringVersion (b : List Byte) (k : Nat) : Nat := wordAt b (2 + 2 * k) + bits (wordAt b (3 + 2 * k)) 15 0 * 2 ^ 32
def ringState (b : List Byte) (k : Nat) : Nat := bits (wordAt b (3 + 2 * k)) 31 30

/-- A header with one slot's version and state changed. -/
def ringPut (b : List Byte) (k version st : Nat) : List Byte :=
  overlay b (8 + 8 * k) (wordBytes [version % 2 ^ 32, st * 2 ^ 30 + version / 2 ^ 32 % 2 ^ 16])

/-- A header with another current slot. -/
def ringSetCurrent (b : List Byte) (k : Nat) : List Byte :=
  overlay b 0 (wordBytes [wordAt b 0 / 16 * 16 + k % 16])

/-- The context of a Caddie's accesses. (DESIGN CHOICE, notes/assumptions/75.md) -/
def whoCaddie : Who := .device 5 4

/-- Rewrite a tile from its bytes; a tile that cannot be read is left. -/
def rewriteTile (s : State) (w : Who) (a : Nat) (f : List Byte → List Byte) : State :=
  match readTile s w a with
  | (s, .refused _) => s
  | (s, .data bs t) => if t.poison then s else (writeTile s w a (f bs) t.format.toNat).1

def caddie (s : State) (n : Nat) : Caddie := KMap.get s.caddies .init n
def setCaddie (s : State) (n : Nat) (x : Caddie) : State := { s with caddies := KMap.set s.caddies .init n x }
def updCaddie (s : State) (n : Nat) (f : Caddie → Caddie) : State := setCaddie s n (f (caddie s n))

/-- Fields of a page descriptor (Table 12.2). -/
def pgWord (b : List Byte) (i : Nat) : Nat := wordAt b i
def pgAddr (b : List Byte) (i : Nat) : Nat := (wordAt b i + wordAt b (i + 1) * 2 ^ 32) % 2 ^ 48
def pgCourt (b : List Byte) : Nat := bits (wordAt b 1) 31 28
def pgNear (b : List Byte) : Nat := pgAddr b 4

def showStaged (s : State) (n : Nat) : State :=
  let used := ((caddie s n).staged.map fun p => p.data.length / tileBytes).sum
  let s := s.setFld (Page.caddie n) F.CADDIE_STAGE_STAT_used used
  s.maxFld (Page.caddie n) F.CADDIE_STAGE_STAT_high_water used

/-- A Caddie event in a court, with CADDIE_LAST_EVENT and its counter; the action of its severity is the raiser's. -/
def caddieNote (s : State) (n : Nat) (court : Option Nat) (page bit mag : Nat) : State :=
  let p := Page.caddie n
  let s := s.setReg (p + 0xA0) (BitVec.ofNat 32 ((bit - 16) * 2 ^ 28 + court.getD 0 * 2 ^ 24 + page % 4096 * 2 ^ 12))
  let s := count s p 0x0A { court := court, master := some 4, priv := if court.isSome then 29 else 30 }
  noteEv s bit { page := p, court := court, mag := mag }

/-- The window of a Caddie closes with an outcome; every page forgets the step. -/
def closeWindow (s : State) (n outcome : Nat) : State :=
  let s := updCaddie s n fun x =>
    { x with
      window := none, sent := false, ready := false, blocked := false, timedOut := false, deltasFrom := [], parity := false
      pages := x.pages.map fun e => (e.1, { e.2 with got := [], hyper := [], slot := 0, held := false, nonfinite := false }) }
  let p := Page.caddie n
  let s := s.setFld p F.CADDIE_STATUS_window_open 0
  let s := s.setFld p F.CADDIE_COMMIT_STAT_state 0
  let s := s.setFld p F.CADDIE_COMMIT_STAT_pages_left 0
  s.setFld p F.CADDIE_COMMIT_STAT_last_outcome outcome

/-- Discard the pending step (R293): pending slots are freed, copy headers stay, the pending parity copy and the staged
parts go. -/
def discardCaddie (s : State) (n : Nat) (court : Option Nat) : State :=
  let x := caddie s n
  match x.window with
  | none => showStaged (updCaddie s n fun x => { x with staged := [], incoming := [] }) n
  | some _ =>
    if s.fld (Page.caddie n) F.CADDIE_COMMIT_STAT_state = 4 then
      -- commit(s) has come first (R294)
      s.setFld (Page.caddie n) F.CADDIE_COMMIT_STAT_last_outcome 3
    else
    let s := forEach x.pages s fun s e =>
      if e.2.got = [] ∧ e.2.hyper = [] then s
      else rewriteTile s whoCaddie (pgNear e.2.desc) fun b => ringPut b e.2.slot 0 0
    let s := closeWindow (updCaddie s n fun x => { x with staged := [], incoming := [] }) n 2
    caddieNote (showStaged s n) n court 0 Err.caddie_caddie_discarded 1

/-- Does a Caddie serve a court: it holds a valid page of it? -/
def servesCourt (s : State) (n court : Nat) : Bool := (caddie s n).pages.any fun e => pgCourt e.2.desc == court

/-- The Caddies that serve a court discard their pending step (R293). -/
def discardCaddies (s : State) (court : Nat) : State :=
  forEach (s.caddies.map (·.1)) s fun s n => if servesCourt s n court then discardCaddie s n (some court) else s

/-! ## Huddle decisions and runs that fail (13_fabric_and_collectives.md R323, R324, R330) -/

/-- The words of a huddle message (Table 13.6). -/
def huddleWords (id cause h step arrivals : Nat) : List Nat :=
  [id * 65536 + cause, h % 2 ^ 32, h / 2 ^ 32, step % 2 ^ 32, step / 2 ^ 32 % 2 ^ 16, arrivals]

/-- Send a huddle message on the group's flow; kind 0 arrive, 1 complete, 2 fail. -/
def sendHuddle (s : State) (g : HGroup) (dev kind cause h step arrivals : Nat) : State :=
  sendFlow s dev (2 * 2 ^ 28 + g.id) g.ports (0x40 + kind) (huddleWords g.id cause h step arrivals) [] []

/-- No entry: its identifier is none of the 16-bit ones. -/
def noGroup : HGroup := ⟨65536, false, 0, 0, 0, 0, false, [], 0, 0, [], [], none, []⟩

def group (s : State) (i : Nat) : HGroup := KMap.get s.groups noGroup i
def setGroup (s : State) (i : Nat) (g : HGroup) : State :=
  let s := { s with groups := KMap.set s.groups noGroup i g }
  s.setFld Page.ce F.CE_STATUS_huddles_out ((s.groups.map fun e => e.2.out.length).sum)

def findNum (g : HGroup) (h : Nat) : Option HNum := g.out.find? fun n => n.number == h

/-- Has a group decided a number, or a later one (R322)? -/
def numDecided (g : HGroup) (h : Nat) : Bool :=
  match g.decided.getLast? with
  | some (top, _) => decide (h ≤ top)
  | none => false

/-- The index of a group by its identifier. -/
def groupIndex (s : State) (id : Nat) : Option Nat := (s.groups.find? fun e => e.2.id == id).map (·.1)

def ctrArmNum (s : State) : Nat := s.fld48 Page.ctr F.CTR_ARM_NUM_LO_number F.CTR_ARM_NUM_HI_number
def actNum (s : State) : Nat := s.fld48 Page.pkg F.PKG_ACT_NUM_LO_number F.PKG_ACT_NUM_HI_number

/-- Is an action of CTR armed at (g, h)? -/
def ctrArmedAt (s : State) (id h : Nat) : Bool :=
  s.fld Page.ctr F.CTR_ARM_armed == 1 && s.fld Page.ctr F.CTR_ARM_group == id && ctrArmNum s == h

/-- Is an activation armed at (g, h)? -/
def actArmedAt (s : State) (id h : Nat) : Bool :=
  s.fld Page.pkg F.PKG_ACT_ARM_armed == 1 && s.fld Page.pkg F.PKG_ACT_ARM_group == id && actNum s == h

/-- The CTR arm goes with an outcome. -/
def ctrDisarm (s : State) (outcome : Nat) : State :=
  let s := s.setFld Page.ctr F.CTR_ARM_armed 0
  let s := s.setFld Page.ctr F.CTR_STAT_armed 0
  s.setFld Page.ctr F.CTR_STAT_arm_outcome outcome

/-- An unfired activation is dropped with an outcome (19_firmware_and_trust.md R455). -/
def actDrop (s : State) (outcome : Nat) : State :=
  let s := s.setFld Page.pkg F.PKG_ACT_ARM_armed 0
  let s := s.setFld Page.pkg F.PKG_ACT_STAT_outcome outcome
  noteIn s Page.pkg Err.pkg_act_dropped none

/-- The arms at a number that failed are dropped (17_scorecard_and_counters.md R425; R455). -/
def dropArms (s : State) (id h : Nat) : State :=
  let s := if ctrArmedAt s id h then ctrDisarm s 2 else s
  if actArmedAt s id h then actDrop s 4 else s

/-- Record a decision of a number and pass it to the children (R323): one decision for each. -/
def recordDecision (s : State) (i h step outcome cause : Nat) : State :=
  let g := group s i
  let s := setGroup s i
    { g with out := g.out.filter fun n => n.number != h, decided := KMap.set g.decided 0 h outcome, last := some (h, outcome) }
  let s := forEach g.children s fun s d => sendHuddle s g d (if outcome = 1 then 1 else 2) cause h step 0
  let s := if outcome = 2 then dropArms s g.id h else s
  let s := fixedCount s Page.ce 1 1
  count s Page.ce (if outcome = 1 then 0x05 else 0x06) { court := some g.court, master := some 5 }

/-- A local failure of a number: the root decides fail; another member sends fail upward once (R323). -/
def localFail (s : State) (i h cause : Nat) : State :=
  let g := group s i
  match findNum g h with
  | none => s
  | some n =>
    if g.isRoot then
      noteIn (recordDecision s i h (n.step.getD 0) 2 cause) Page.ce Err.ce_huddle_failed (some g.court)
    else if n.failedUp then s
    else
      let s := setGroup s i { g with out := g.out.map fun k => if k.number = h then { k with failedUp := true } else k }
      sendHuddle s g g.parent 2 cause h (n.step.getD 0) 0

/-- HD sends fail, as a local failure, for every outstanding number of a court's groups (R323; Table 14.5 step 2). -/
def failHuddles (s : State) (court : Nat) : State :=
  forEach s.groups s fun s e =>
    if e.2.court = court then forEach e.2.out s fun s n => localFail s e.1 n.number 1 else s

/-- A run's court (Table 13.7). -/
def runCourt (r : Run) : Nat := bits (wordAt r.desc 0) 3 0

/-- The court's active collective runs fail (R330). -/
def failRuns (s : State) (court : Nat) : State :=
  let gone := s.runs.filter fun r => runCourt r == court
  let s := { s with runs := s.runs.filter fun r => runCourt r != court }
  let s := s.setFld Page.ce F.CE_STATUS_runs_active (min s.runs.length 255)
  forEach gone s fun s _ =>
    count (noteIn s Page.ce Err.ce_coll_failed (some court)) Page.ce 0x02 { court := some court, master := some 5 }

end Sys2Proof.Machine
end

