-- ==== Sys2Proof/Config.lean ====
section
/-! DEFINITION. What an implementation fixes and what the spec leaves open: opaque constants, so that nothing can be
proved of the value of one. -/

namespace Sys2Proof.Config

/-- A byte the spec leaves open: the number of the draw and the index within it. (DESIGN CHOICE, notes/assumptions/133.md) -/
opaque freeByte : Nat → Nat → Byte

/-- The two elements a Jacobi rotation (c, s) makes of x and y: c·x − s·y and s·x + c·y, in FP32, whose order of
roundings the spec does not state (08_root_engines.md R184). (DESIGN CHOICE, notes/assumptions/49.md) -/
opaque rotate : (c s x y : Nat) → Nat × Nat

/-- The tiles the solver engine's symbolic analysis needs for a structure (15_solver_engine.md R368), from its descriptor
and table bytes. (DESIGN CHOICE, notes/assumptions/105.md) -/
opaque solverWork : List Byte → List Byte → Nat

/-- The tiles the factor of the reduced system takes (R373, method auto). -/
opaque solverFactor : List Byte → List Byte → Nat

/-- The fill-reducing ordering of the reduced unknowns (R368). -/
opaque solverOrder : List Byte → List Byte → List Nat

/-- A column of binary64 elements after the Householder reflection that a pivot column of elements `v` and the root of its
pivot define; the order of its roundings is not stated (R372). (DESIGN CHOICE, notes/assumptions/107.md) -/
opaque reflect : (v : List Nat) → (root : Nat) → (col : List Nat) → List Nat

/-- The Smiquevy root public key in the management core's mask ROM, x and y (19_firmware_and_trust.md R447). -/
opaque rootKey : Nat × Nat

end Sys2Proof.Config
end

