-- ==== Sys2Proof/Machine/SolverEnd.lean ====
section
/-! DEFINITION. A solver job's fields, its result buffer, and its end (15_solver_engine.md R365, R369, R376 to R378). -/

namespace Sys2Proof.Machine

/-- A 48-bit address in words i and i + 1 of a descriptor. -/
def seAddr (bs : List Byte) (i : Nat) : Nat := wordAt bs i + bits (wordAt bs (i + 1)) 15 0 * 2 ^ 32

/-! Job descriptor fields (Table 15.2). -/
def seTag (d : List Byte) : Nat := bits (wordAt d 1) 15 0
def seMethod (d : List Byte) : Nat := bits (wordAt d 1) 25 24
def seWarm (d : List Byte) : Bool := bit (wordAt d 1) 23
def seStruct (d : List Byte) : Nat := seAddr d 2
def seMu (d : List Byte) : Nat := wordAt d 8
def seResult (d : List Byte) : Nat := seAddr d 11

/-! Structure descriptor fields (Table 15.1). -/
def ssSparse (d : List Byte) : Bool := bit (wordAt d 1) 27
def ssGen (d : List Byte) : Nat := bits (wordAt d 1) 15 0
/-- Problems of a dense structure. -/
def ssProblems (d : List Byte) : Nat := bits (wordAt d 2) 15 0 + 1
/-- Eliminated blocks of a sparse structure. -/
def ssElim (d : List Byte) : Nat := bits (wordAt d 2) 23 0
def ssNmax (d : List Byte) : Nat := bits (wordAt d 3) 24 16
def ssMmax (d : List Byte) : Nat := bits (wordAt d 3) 12 0
/-- Reduced blocks of a sparse structure. -/
def ssReduced (d : List Byte) : Nat := bits (wordAt d 3) 23 0
def ssBlocks (d : List Byte) : Nat := bits (wordAt d 4) 24 0
def ssBstride (d : List Byte) : Nat := bits (wordAt d 5) 31 16
def ssAstride (d : List Byte) : Nat := bits (wordAt d 5) 15 0
def ssTable (d : List Byte) : Nat := seAddr d 6
def ssArea1 (d : List Byte) : Nat := seAddr d 8
def ssArea2 (d : List Byte) : Nat := seAddr d 10
def ssWork (d : List Byte) : Nat := seAddr d 12
def ssWorkTiles (d : List Byte) : Nat := wordAt d 14

/-- The accesses of a job: its court, by the solver (R362). -/
def seWho (court : Nat) : Who := ⟨some court, 4, 7⟩

/-- Counter attributes of the engine's events: court work of the solver. -/
def seCnt (court n : Nat) : Cnt := { n := n, court := some court, master := some 7 }

def seCount (s : State) (court sel n : Nat) : State := if n = 0 then s else count s Page.se sel (seCnt court n)

/-- An error of the engine in a job's court, counted (Table 15.11 selector 0x0A). -/
def seErr (s : State) (bit court : Nat) : State :=
  seCount (noteIn s Page.se bit (some court)) court 0x0A 1

/-- SE_QUEUE_STAT, PAGE_STATUS.jobs and SE_ACTIVE (Tables 15.8, 15.10). -/
def showJobs (s : State) : State :=
  let n := s.jobs.length
  let s := s.setFld Page.se F.SE_STATUS_jobs n
  let s := s.setFld Page.se F.SE_QUEUE_STAT_used n
  let s := s.maxFld Page.se F.SE_QUEUE_STAT_high_water n
  match s.jobs.find? (·.running) with
  | some j =>
    let s := s.setFld Page.se F.SE_ACTIVE_busy 1
    let s := s.setFld Page.se F.SE_ACTIVE_court j.court
    s.setFld Page.se F.SE_ACTIVE_tag (seTag j.desc)
  | none =>
    let s := s.setFld Page.se F.SE_ACTIVE_busy 0
    let s := s.setFld Page.se F.SE_ACTIVE_court 0
    s.setFld Page.se F.SE_ACTIVE_tag 0

/-- What the engine keeps of a job's structure: nothing where its work area no longer starts as the engine left it. -/
def keptOf (s : State) (sdesc : List Byte) (addr : Nat) : SeKept :=
  let k := KMap.get s.kept .none addr
  if k.front ≠ [] ∧ Memory.read s.mem (ssWork sdesc) tileBytes = k.front then k else .none

def setKept (s : State) (addr : Nat) (k : SeKept) : State := { s with kept := KMap.set s.kept .none addr k }

/-- A problem's last complete solution under the structure's generation (R372, R374). -/
def solOf (s : State) (j : SeJob) (p : Nat) : Option SeSol :=
  (KMap.get (keptOf s j.sdesc (seStruct j.desc)).sols .none p |> fun x =>
    if x.x ≠ [] ∧ x.gen = ssGen j.sdesc then some x else none)

/-- n of a problem from the problem table, for a problem the job did not reach; n_max where the table cannot be read. -/
def seTableN (s : State) (j : SeJob) (p : Nat) : Nat :=
  match readSpan s (seWho j.court) (ssTable j.sdesc + 8 * p) 8 with
  | (_, .bytes bs _) => bits (wordAt bs 0) 8 0
  | _ => ssNmax j.sdesc

/-- Write FP32 values at an address of the result buffer. -/
def writeX (s : State) (court a : Nat) (xs : List Nat) : State × Bool :=
  let (s, r) := writeSpan s (seWho court) a (wordBytes xs) 1
  (s, r.isNone)

/-- Where the solution of problem p, and where the status bytes, lie (Table 15.5). -/
def xAddr (j : SeJob) (p : Nat) : Nat := seResult j.desc + tileBytes + 4 * ssNmax j.sdesc * p
def statusAddr (j : SeJob) : Nat :=
  seResult j.desc + tileBytes + (4 * ssNmax j.sdesc * ssProblems j.sdesc + tileBytes - 1) / tileBytes * tileBytes

/-- A problem not completed: its last complete solution with source 2, or NaNs with source 3 (Table 15.6). -/
def writeMissing (s : State) (j : SeJob) (p : Nat) : State × Nat :=
  match solOf s j p with
  | some x => ((writeX s j.court (xAddr j p) x.x).1, 2 * 32 + x.flags)
  | none => ((writeX s j.court (xAddr j p) (List.replicate (seTableN s j p) fp32.canonNan)).1, 3 * 32)

/-- The status bytes of a dense job: written for every problem, the missing ones filled first; the count with source 2. -/
def writeStatuses (s : State) (j : SeJob) : State × Nat × Bool :=
  let (s, bs, prev) := (List.range (ssProblems j.sdesc)).foldl (fun (acc : State × List Byte × Nat) p =>
    let v := KMap.get j.marks 0 p
    if 256 ≤ v then (acc.1, acc.2.1 ++ [BitVec.ofNat 8 v], acc.2.2)
    else
      let (s, b) := writeMissing acc.1 j p
      (s, acc.2.1 ++ [BitVec.ofNat 8 b], acc.2.2 + (if b / 32 = 2 then 1 else 0))) (s, [], 0)
  let (s, r) := writeSpan s (seWho j.court) (statusAddr j) bs 0
  (s, prev, r.isNone)

/-- A word the spec gives no value for: fresh at every use. (DESIGN CHOICE, notes/assumptions/110.md) -/
def freeWord (s : State) : State × Nat :=
  ({ s with freeCount := s.freeCount + 1 }, leNat ((List.range 4).map (Config.freeByte s.freeCount)))

/-- The header's words (Table 15.5). The elapsed µs, and the relative residual of a job without PCG, are free. -/
def headerWords (j : SeJob) (incomplete : Bool) (status reason prev elapsed residual : Nat) : List Nat :=
  [0x5E4D * 65536 + 256 + incomplete.toNat * 2 + 1,
    status * 2 ^ 28 + j.court * 2 ^ 24 + seTag j.desc,
    reason,
    ssGen j.sdesc + j.restructured.toNat * 2 ^ 16 + j.warmUsed.toNat * 2 ^ 17 + j.converged.toNat * 2 ^ 18
      + j.method * 2 ^ 19 + (bit j.pivot 31).toNat * 2 ^ 21,
    j.applied, if ssSparse j.sdesc then j.iters else j.fresh, if ssSparse j.sdesc then j.ckpt else j.reused, prev,
    j.singular, j.regularised, j.overflowed, residual, elapsed, j.needed, 0, 0]

/-- The header tile, written last (R378). -/
def writeHeader (s : State) (j : SeJob) (incomplete : Bool) (status reason prev : Nat) : State × Bool :=
  let (s, elapsed) := freeWord s
  let (s, residual) := match j.residual with
    | some r => (s, r)
    | none => freeWord s
  let (s, r) := writeSpan s (seWho j.court) (seResult j.desc)
    (wordBytes (headerWords j incomplete status reason prev elapsed residual) ++ List.replicate 4032 0#8) 0
  (s, r.isNone)

/-- The solve-done notice and SE_LAST_DONE (R376). -/
def solveDone (s : State) (court tag status reason : Nat) (incomplete : Bool) : State :=
  let s := s.setFld Page.se F.SE_LAST_DONE_status status
  let s := s.setFld Page.se F.SE_LAST_DONE_court court
  let s := s.setFld Page.se F.SE_LAST_DONE_reason reason
  let s := s.setFld Page.se F.SE_LAST_DONE_tag tag
  notify s (some court) 0x2D
    [court * 2 ^ 24, 3, status * 2 ^ 28 + court * 2 ^ 24 + tag, reason * 65536 + incomplete.toNat]

/-- The job at index i ends before its commit point: failed (status 1) or cancelled (status 3). The result buffer shows an
incomplete result (R376, R377); areas and previous solutions stay. -/
def endJob (s : State) (i status reason : Nat) : State :=
  match s.jobs[i]? with
  | none => s
  | some j =>
    let (s, prev) := if ssSparse j.sdesc then (s, 0) else
      let (s, prev, _) := writeStatuses s j
      (s, prev)
    let s := (writeHeader s { j with converged := false } true status reason prev).1
    let s := showJobs { s with jobs := s.jobs.eraseIdx i }
    let s := if status = 3 then seErr s Err.se_se_cancelled j.court
      else if reason = 0x0B then
        seErr (seCount (s.satFld Page.se F.SE_MISS_COUNT_misses 1) j.court 0x03 1) Err.se_se_deadline j.court
      else seErr s Err.se_se_failed j.court
    solveDone s j.court (seTag j.desc) status reason true

/-- An abort of a court ends its jobs (R377; Table 14.5 step 4). -/
def abortJobs (s : State) (n : Nat) : State :=
  let go (s : State) : State :=
    match s.jobs.findIdx? fun j => j.court == n with
    | some i => endJob s i 3 0x0D
    | none => s
  forEach (List.range 64) s fun s _ => go s

end Sys2Proof.Machine
end

