-- ==== Sys2Proof/Machine/Abort.lean ====
section
/-! DEFINITION. The abort of a court, the device-fatal sequence, and the actions of severities 3 and 4
(14_host_port.md Table 14.5, R356, R357; 16_fault_containment.md R383, R384, R397). -/

namespace Sys2Proof.Machine

/-- Complete a host command: message 0x21 to its session, unless it is quiet and OK (R344); a completion whose session is
gone is dropped and recorded (R343). (DESIGN CHOICE, notes/assumptions/63.md) -/
def complete (s : State) (c : HostCmd) (status detail winner : Nat) (result : List Nat) : State :=
  if c.quiet && status == 0 then s
  else if (s.session c.session).isOpen then
    s.send ⟨.session c.session, 0x21,
      [c.typ * 65536 + c.tag, min detail 0xFFFF * 65536 + winner * 256 + status] ++ result, []⟩
  else noteDevice s 0xF006 0 { page := Page.h, court := none }

/-- The commands in progress of a court complete ABORTED (Table 14.5 step 1, R356). -/
def abortCmds (s : State) (p : HostCmd → Bool) : State :=
  let gone := s.cmds.filter p
  let s := { s with cmds := s.cmds.filter fun c => !p c }
  forEach gone s fun s c => complete s c 0x0B 0 1 []

/-- A region of an aborted court: engine work discarded, then its state cleared as at court assignment; quiesce
settings stay. -/
def abortRegion (s : State) (r : Nat) : State :=
  let s := discardTap s r
  let s := discardRoots s r
  clearRegion s r

/-- Release the pass-buffer reservations of a court's regions (R225): the buffers its stages consumed or produced. -/
def releaseBuffers (s : State) (regions : List Nat) : State :=
  { s with pbufs := s.pbufs.filter fun b => !(regions.contains b.desc.consRegion || regions.contains b.desc.prodRegion) }

/-- Steps 1 to 5 of Table 14.5; `cause` 1 host, 2 device. -/
def abortCourt (s : State) (n cause code : Nat) : State :=
  let rs := s.regionsOf n
  let s := abortCmds s fun c => c.court == n
  let s := failHuddles s n
  let s := discardCaddies s n
  let s := failRuns s n
  let s := abortJobs s n
  let s := forEach rs s abortRegion
  let s := releaseBuffers s rs
  let s := { s with stages := s.stages.filter fun t => t.court != n }
  let p := Page.court n
  let s := s.setFld p F.COURT_LAST_ABORT_winner 1
  let s := s.setFld p F.COURT_LAST_ABORT_cause cause
  s.setFld p F.COURT_LAST_ABORT_code (if cause = 2 then code else 0)

/-- A notice of kind k to the sessions of a court (R351). (DESIGN CHOICE, notes/assumptions/62.md) -/
def notice (s : State) (court : Option Nat) (kind : Nat) (detail : List Nat) : State :=
  notify s court 0x2D ([(court.getD 0) * 2 ^ 24, kind] ++ detail)

/-- A court-fatal event aborts the court it names (R357): the abort, court_aborted, and notice kind 2. -/
def courtFatal (s : State) (n code : Nat) : State :=
  if s.courtCreated n then
    let s := abortCourt s n 2 code
    let s := noteIn s (Page.court n) Err.court_court_aborted (some n)
    notice s (some n) 2 [code, 0]
  else s

/-- The sequence of R384: every court aborted with cause device, every outstanding number failed, every command in
progress completed ABORTED; the package resumes only after a package reset. -/
def deviceFatal (s : State) (code : Nat) : State :=
  let s := forEach (List.range 16) s fun s n => if s.courtCreated n then abortCourt s n 2 code else s
  let s := forEach (List.range 16) s fun s n => failHuddles s n
  let s := forEach (List.range 16) s fun s n => discardCaddies s n
  abortCmds { s with fatal := true } fun _ => true

/-- The action of an event's severity (R383). -/
def act (s : State) (code sev : Nat) (court : Option Nat) : State :=
  if sev = 4 then deviceFatal s code
  else if sev = 3 then
    match court with
    | some n => courtFatal s n code
    | none => s
  else s

/-- Raise an error bit with the action of its severity. (DESIGN CHOICE, notes/assumptions/135.md) -/
def raiseEv (s : State) (bit : Nat) (e : Ev) : State :=
  let code := codeOf e.page bit
  act (noteEv s bit e) code (severityOf code) e.court

/-- Raise an error bit in the court of its page. -/
def raise (s : State) (page bit : Nat) : State := raiseEv s bit { page := page, court := pageCourt s page }

/-- Raise a device event with the action of its severity. -/
def raiseDevice (s : State) (code : Nat) (e : Ev) : State :=
  act (noteDevice s code (severityOf code) e) code (severityOf code) e.court

/-- A consumer uses a poisoned tile (R397): severity 3 in its court, 2 in device context. -/
def poisonConsumed (s : State) (w : Who) (tile instr : Nat) : State :=
  let e : Ev := { page := Page.stk (stackOf tile), court := w.court
                  detail := [tile % 2 ^ 32, tile / 2 ^ 32 % 2 ^ 16, w.reader, instr] }
  match w.court with
  | some _ => raiseDevice s 0xF001 e
  | none => noteDevice s 0xF001 2 e

/-- Read a span as a consumer that meets the court's poison handling: its bytes and format codes, or nothing. -/
def consume (s : State) (w : Who) (a n instr : Nat) : State × Option (List Byte × List Nat) :=
  match readSpan s w a n with
  | (s, .refused _) => (s, none)
  | (s, .poisoned t) => (poisonConsumed s w t instr, none)
  | (s, .bytes bs fs) => (s, some (bs, fs))

end Sys2Proof.Machine
end

