-- ==== Sys2Proof/Machine/Seq.lean ====
section
/-! DEFINITION. The region sequencer: when an instruction issues, tokens, waits, the scalar state, illegal words, the stage
deadline (09_ablos_encoding.md R197 to R208, R214 to R218; 10_spatial_pipelines.md R230 to R233, R240 to R244). -/

namespace Sys2Proof.Machine

/-! ## Programs of a region -/

def progOf (x : Region) (task : Bool) : Prog := if task then x.task else x.main
def setProg (x : Region) (task : Bool) (p : Prog) : Region := if task then { x with task := p } else { x with main := p }

/-- Change the program of a region. -/
def updProg (s : State) (r : Nat) (task : Bool) (f : Prog → Prog) : State :=
  s.updRegion r fun x => setProg x task (f (progOf x task))

/-- The issuing program of a header. -/
def State.prog (s : State) (h : Hdr) : Prog := progOf (s.region h.region.toNat) h.task

def aReg (p : Prog) (i : Nat) : Addr48 := KMap.get p.a 0#48 i
def lReg (p : Prog) (i : Nat) : W32 := KMap.get p.l 0#32 i
def tokenCount (p : Prog) (n : Nat) : Nat := KMap.get p.tokens 0 n

/-- The address an operand names (R204). -/
def addrOf (p : Prog) (o : AddrOp) : Nat := (aReg p o.areg.toNat + o.disp.signExtend 48).toNat

/-- PAGE_CTL.quiesce or a cleared enable stops the main program (R47, R48). -/
def issueStopped (s : State) (r : Nat) : Bool :=
  let c := (s.reg (Page.rg r + 0x10)).toNat
  bit c 1 || !bit c 0

/-- Is a stream of the program open: started, and its drain not issued (R99)? -/
def streamOwned (x : Region) (task : Bool) : Bool :=
  match x.stream with
  | some t => t.task == task && !t.drained
  | none => false

/-- Is a counted wait of the program standing at its next instruction? That instruction has issued and waits. -/
def waitingAt (x : Region) (task : Bool) : Bool :=
  x.waits.any fun w => w.task == task && w.addr == (progOf x task).pc

def isHeld (s : State) (r : Nat) : Bool := s.fld (Page.rg r) F.RG_STATUS_held == 1

/-- May the region's sequencer issue for the program: it runs, is not held or stopped, no wait_step is pending, and
quiesce or disable does not stop it at this boundary (R47, R216, R243, R352)? A held region still completes the
instruction that waits (R243). -/
def mayIssue (s : State) (h : Hdr) : Bool :=
  let r := h.region.toNat
  let x := s.region r
  x.started && !x.stopped && !s.fatal && !s.pageRetired (Page.rg r)
    && (!isHeld s r || waitingAt x h.task)
    && (if h.task then x.taskRunning
        else !x.halted && !x.main.waiting && (!issueStopped s r || streamOwned x false))

/-- The token, sync and counter conditions of the header (R201, R202). -/
def headerReady (s : State) (h : Hdr) : Bool :=
  let p := s.prog h
  (!h.sync || p.inflight == [])
    && (List.range 7).all (fun i => !h.wait.getLsbD i || tokenCount p (i + 1) == 0)
    && (h.signal == 0#3 || decide (tokenCount p h.signal.toNat < 255))

/-- The context of a region's accesses: its court, a reader code and a master code. (DEDUCED, notes/assumptions/60.md) -/
def regionWho (s : State) (h : Hdr) (reader : Nat) : Who :=
  ⟨s.courtOf h.region.toNat, reader, if h.task then 1 else 0⟩

/-- The address of the instruction word at the program's next instruction (R217). -/
def codeAddr (s : State) (h : Hdr) : Nat := (s.region h.region.toNat).image + 64 + 16 * (s.prog h).pc

/-- The code tile of the next instruction can be fetched: admitted, of the court's tag, not poisoned (R218). -/
def fetchOk (s : State) (h : Hdr) : Bool :=
  let w := regionWho s h 2
  let a := codeAddr s h
  match admits s w a with
  | some _ => false
  | none =>
    let t := (tileData s a).2
    !t.poison && (match w.court with
      | some n => t.tag == s.courtTag n
      | none => true)

/-- What issue finds for the next instruction of a program. -/
inductive Issue where
  | waits
  | badFetch
  | illegal (reason : Nat)
  | go
  deriving DecidableEq, Repr

/-- The checks of issue, in their order: the region issues, the code tile can be used, the word is legal, then its header
conditions. `reason` is the lowest reason of Table 9.14 the word's fields give, 0 none; `falls` says that the next word
follows, whose address must lie below code_count (reason 0x07). (DESIGN CHOICE, notes/assumptions/10.md) -/
def issueCheck (s : State) (h : Hdr) (reason : Nat) (falls : Bool) : Issue :=
  let x := s.region h.region.toNat
  if !mayIssue s h then .waits
  else if !fetchOk s h then .badFetch
  else if reason ≠ 0 ∧ reason < 7 then .illegal reason
  else if falls ∧ x.codeCount ≤ (s.prog h).pc + 1 then .illegal 7
  else if reason ≠ 0 then .illegal reason
  else if !headerReady s h then .waits
  else .go

/-- A region's fetch meets a tile it cannot use: it stops, and poison is met in the court (R218). -/
def fetchFails (s : State) (h : Hdr) : State :=
  let w := regionWho s h 2
  let a := codeAddr s h
  let s := s.updRegion h.region.toNat fun x => { x with stopped := true }
  match readTile s w a with
  | (s, .data _ t) => if t.poison then poisonConsumed s w a (progOf (s.region h.region.toNat) h.task).pc else s
  | (s, .refused _) => s

/-- An illegal word reaches issue (R216): the region is held, the word is recorded, illegal-instruction is raised. -/
def illegalWord (s : State) (h : Hdr) (reason : Nat) : State :=
  let r := h.region.toNat
  let pg := Page.rg r
  let pc := (s.prog h).pc
  let s := s.setFld pg F.RG_STATUS_held 1
  let s := s.setFld pg F.RG_ILLEGAL_valid 1
  let s := s.setFld pg F.RG_ILLEGAL_in_task h.task.toNat
  let s := s.setFld pg F.RG_ILLEGAL_reason reason
  let s := s.setFld pg F.RG_ILLEGAL_ADDR_instr_addr pc
  let s := s.updRegion r fun x => { x with heldAt := some (h.task, pc) }
  raise s pg Err.rg_illegal_instruction

/-- A counted wait ends: its record goes, and where the region is held at it, ended_after becomes 1 (R244). -/
def endWait (s : State) (r : Nat) (task : Bool) (addr : Nat) : State :=
  let x := s.region r
  if x.waits.any (fun w => w.task == task && w.addr == addr) then
    let s := s.setRegion r { x with waits := x.waits.filter fun w => !(w.task == task && w.addr == addr) }
    if isHeld s r && x.heldAt == some (task, addr) then s.setFld (Page.rg r) F.RG_DEADLINE_INFO_ended_after 1 else s
  else s

/-- A counted wait begins at the program's next instruction (R240, R242), once. (DESIGN CHOICE, notes/assumptions/12.md) -/
def beginWait (s : State) (h : Hdr) (kind pb : Nat) : State :=
  let r := h.region.toNat
  let x := s.region r
  if waitingAt x h.task then s
  else
    let w : CWait := ⟨kind, pb, h.task, (s.prog h).pc, s.fld (Page.rg r) F.RG_DEADLINE_deadline_us, 0⟩
    count (s.setRegion r { x with waits := x.waits ++ [w] }) (Page.rg r) 0x07
      { court := s.courtOf r, master := some (if h.task then 1 else 0) }

/-- Issue: counters, the end of a wait at this instruction, and the program counter moves on. -/
def advance (s : State) (h : Hdr) : State :=
  let r := h.region.toNat
  let pc := (s.prog h).pc
  let s := endWait s r h.task pc
  let s := count s (Page.rg r) (if h.task then 0x02 else 0x01)
    { court := s.courtOf r, master := some (if h.task then 1 else 0) }
  updProg s r h.task fun p => { p with pc := pc + 1 }

/-- Can the instruction proceed beyond issue: at once, not yet (a hazard, a bank, an open stream), or as a counted
wait of a kind and pass buffer (Table 10.3)? -/
inductive Ready where
  | yes
  | hazard
  | counted (kind pb : Nat)
  deriving DecidableEq, Repr

/-- The next instruction of a region's program: turned away while it cannot issue; held where illegal; otherwise its
body, after issue. `onWait` is what a counted wait does beside waiting. -/
def issue (s : State) (h : Hdr) (reason : Nat) (falls : Bool) (ready : Ready) (body : State → State)
    (onWait : State → State := id) : Host.Outcome State Fault Refusal :=
  match issueCheck s h reason falls with
  | .waits => turnedAway s
  | .badFetch => effect s fun s => fetchFails s h
  | .illegal c => effect s fun s => illegalWord s h c
  | .go =>
    match ready with
    | .yes => effect s fun s => body (advance s h)
    | .hazard => turnedAway s
    | .counted k pb => effect s fun s => onWait (beginWait s h k pb)

/-- Hold a token for an instruction that completes later (R201). -/
def hold (s : State) (h : Hdr) (addr cls : Nat) (what : Pending) : State :=
  updProg s h.region.toNat h.task fun p =>
    { p with
      inflight := p.inflight ++ [⟨h.signal.toNat, addr, cls, what⟩]
      tokens := if h.signal = 0#3 then p.tokens
                else KMap.set p.tokens 0 h.signal.toNat (tokenCount p h.signal.toNat + 1) }

/-- Instructions in flight that a test picks complete: their tokens fall (R201). -/
def completeInflight (p : Prog) (done : InFlight → Bool) : Prog :=
  let fin := p.inflight.filter done
  { p with
    inflight := p.inflight.filter fun i => !done i
    tokens := fin.foldl (fun m i => if i.token = 0 then m else KMap.set m 0 i.token (KMap.get m 0 i.token - 1)) p.tokens }

/-! ## Control class (R207, R208) -/

def progA (s : State) (h : Hdr) (i : Nat) (v : Addr48) : State :=
  updProg s h.region.toNat h.task fun p => { p with a := KMap.set p.a 0#48 i v }
def progL (s : State) (h : Hdr) (i : Nat) (v : W32) : State :=
  updProg s h.region.toNat h.task fun p => { p with l := KMap.set p.l 0#32 i v }
def progPc (s : State) (h : Hdr) (pc : Nat) : State :=
  updProg s h.region.toNat h.task fun p => { p with pc := pc }

/-- NOP has no effect but its issue. -/
def execNop (h : Hdr) (s : State) : Host.Outcome State Fault Refusal := issue s h 0 true .yes id

/-- SET_A: A[reg] := imm48. -/
def execSetA (h : Hdr) (reg : BitVec 4) (imm : BitVec 48) (s : State) : Host.Outcome State Fault Refusal :=
  issue s h 0 true .yes fun s => progA s h reg.toNat imm

/-- ADD_A: A[reg] := (A[reg] + sign-extended imm32) mod 2^48. -/
def execAddA (h : Hdr) (reg : BitVec 4) (imm : BitVec 32) (s : State) : Host.Outcome State Fault Refusal :=
  issue s h 0 true .yes fun s => progA s h reg.toNat (aReg (s.prog h) reg.toNat + imm.signExtend 48)

/-- SET_COUNT: L[reg] := imm32; an L index above 3 is illegal (reason 0x06). -/
def execSetCount (h : Hdr) (reg : BitVec 4) (imm : BitVec 32) (s : State) : Host.Outcome State Fault Refusal :=
  issue s h (if 3 < reg.toNat then 6 else 0) true .yes fun s => progL s h reg.toNat imm

/-- Is a branch target at or beyond code_count (reason 0x07)? -/
def badTarget (s : State) (h : Hdr) (t : Nat) : Bool := decide ((s.region h.region.toNat).codeCount ≤ t)

/-- LOOP (R208). -/
def execLoop (h : Hdr) (reg : BitVec 4) (target : BitVec 32) (s : State) : Host.Outcome State Fault Refusal :=
  issue s h (if 3 < reg.toNat then 6 else if badTarget s h target.toNat then 7 else 0) true .yes fun s =>
    let l := lReg (s.prog h) reg.toNat
    if l = 0#32 then s
    else
      let s := progL s h reg.toNat (l - 1#32)
      if l - 1#32 = 0#32 then s else progPc s h target.toNat

/-- JUMP: the next instruction is imm32. -/
def execJump (h : Hdr) (target : BitVec 32) (s : State) : Host.Outcome State Fault Refusal :=
  issue s h (if badTarget s h target.toNat then 7 else 0) false .yes fun s => progPc s h target.toNat

/-- WAIT_STEP issues and blocks the main program until it completes (R208); inside a task it is illegal. It holds its
token until then. -/
def execWaitStep (h : Hdr) (s : State) : Host.Outcome State Fault Refusal :=
  issue s h (if h.task then 9 else 0) true .yes fun s =>
    updProg s h.region.toNat false fun p =>
      { p with
        waiting := true
        waitToken := h.signal.toNat
        tokens := if h.signal = 0#3 then p.tokens
                  else KMap.set p.tokens 0 h.signal.toNat (tokenCount p h.signal.toNat + 1) }

/-- The number the court of a region holds (R350). -/
def heldStep (s : State) (n : Nat) : Nat := s.fld48 (Page.court n) F.COURT_STEP_LO_step F.COURT_STEP_HI_step

/-- A pending wait_step completes once the held number exceeds the step register, and loads it (R350). -/
def waitStepReady (s : State) (r : Nat) : Bool :=
  match s.courtOf r with
  | some n => (s.region r).main.waiting && decide ((s.region r).main.step.toNat < heldStep s n)
  | none => false

def execWaitStepComplete (region : BitVec 5) (s : State) : Host.Outcome State Fault Refusal :=
  let r := region.toNat
  if waitStepReady s r then
    effect s fun s =>
      updProg s r false fun p =>
        { p with
          waiting := false
          waitToken := 0
          step := BitVec.ofNat 48 (heldStep s ((s.courtOf r).getD 0))
          tokens := if p.waitToken = 0 then p.tokens else KMap.set p.tokens 0 p.waitToken (tokenCount p p.waitToken - 1) }
  else turnedAway s

/-- HALT: the region's main program issues nothing further; inside a task it is illegal. -/
def execHalt (h : Hdr) (s : State) : Host.Outcome State Fault Refusal :=
  issue s h (if h.task then 9 else 0) false .yes fun s =>
    s.updRegion h.region.toNat fun x => { x with halted := true }

/-- A fence or a commit arrive that waits for tasks already enqueued completes when they have (R214, R231). -/
def completeFences (s : State) (r : Nat) : State :=
  let x := s.region r
  let done (i : InFlight) : Bool := match i.what with
    | .fence n => decide (n ≤ x.completedTasks)
    | _ => false
  let fin := x.main.inflight.filter done
  let s := updProg s r false fun p => completeInflight p done
  forEach fin s fun s i => endWait s r false i.addr

/-- TASK_END ends the running task once every instruction of the task has completed (R214, R230); outside a task it is
illegal. -/
def execTaskEnd (h : Hdr) (s : State) : Host.Outcome State Fault Refusal :=
  issue s h (if h.task then 0 else 9) false (if (s.prog h).inflight = [] then .yes else .hazard) fun s =>
    let r := h.region.toNat
    let pg := Page.rg r
    let s := s.updRegion r fun x =>
      { x with taskRunning := false, task := { Prog.init with map := x.task.map }, taskTag := 0, completedTasks := x.completedTasks + 1 }
    let s := s.setFld pg F.RG_STATUS_task_running 0
    let s := s.setFld pg F.RG_STATUS_bench_queued (s.region r).bench.length
    let s := s.setFld pg F.RG_BENCH_STAT_running 0
    let s := s.setFld pg F.RG_BENCH_STAT_running_tag 0
    let s := fixedCount s pg 0 1
    let s := count s pg 0x03 { court := s.courtOf r, master := some 1 }
    completeFences s r

/-! ## Bench (R214, R230) -/

/-- ENQUEUE queues a task with a copy of the address and step registers; a full bench of 256 waits (R230). (DESIGN CHOICE, notes/assumptions/43.md) -/
def execEnqueue (h : Hdr) (entry : BitVec 32) (tag : BitVec 16) (s : State) : Host.Outcome State Fault Refusal :=
  let r := h.region.toNat
  let x := s.region r
  let n := x.bench.length + x.taskRunning.toNat
  issue s h (if badTarget s h entry.toNat then 7 else if h.task then 9 else 0) true
    (if n < 256 then .yes else .counted 6 0) fun s =>
    let p := s.prog h
    let s := s.updRegion r fun x =>
      { x with bench := x.bench ++ [⟨entry.toNat, tag.toNat, p.a, p.step⟩], enqueued := x.enqueued + 1 }
    let s := s.setFld (Page.rg r) F.RG_STATUS_bench_queued (n + 1)
    s.maxFld (Page.rg r) F.RG_BENCH_STAT_high_water (n + 1)

/-- The next queued task starts after the previous one has completed (R230): its own loop counters and tokens at zero,
the registers as they stood at its enqueue. The bench keeps its stream map from task to task (R232). -/
def execBenchTaskStart (region : BitVec 5) (s : State) : Host.Outcome State Fault Refusal :=
  let r := region.toNat
  let x := s.region r
  match x.bench with
  | [] => turnedAway s
  | t :: rest =>
    if x.taskRunning || !x.started || x.stopped || isHeld s r || s.fatal then turnedAway s
    else effect s fun s =>
      let s := s.setRegion r
        { x with
          bench := rest, taskRunning := true, taskTag := t.tag
          task := { Prog.init with pc := t.entry, a := t.a, step := t.step, map := x.task.map } }
      let pg := Page.rg r
      let s := s.setFld pg F.RG_STATUS_task_running 1
      let s := s.setFld pg F.RG_BENCH_STAT_running 1
      s.setFld pg F.RG_BENCH_STAT_running_tag t.tag

/-- FENCE completes when every task enqueued before it has completed; waiting for them is a counted wait of kind 5
(R214, R240). -/
def execFence (h : Hdr) (s : State) : Host.Outcome State Fault Refusal :=
  let r := h.region.toNat
  issue s h (if h.task then 9 else 0) true .yes fun s' =>
    let x := s'.region r
    if x.enqueued ≤ x.completedTasks then s'
    else
      let pc := (s.prog h).pc
      let w : CWait := ⟨5, 0, false, pc, s.fld (Page.rg r) F.RG_DEADLINE_deadline_us, 0⟩
      hold (s'.updRegion r fun x => { x with waits := x.waits ++ [w] }) h pc 8 (.fence x.enqueued)

/-! ## Stage deadline (R242, R243) -/

/-- A counted wait of a region reaches its deadline D; it is raised at an age of at least D and less than D + 3 µs
(R242). `index` counts the region's standing waits, oldest first. -/
def deadlineReached (s : State) (r index age : Nat) : Bool :=
  match (s.region r).waits[index]? with
  | some w => w.deadline != 0 && decide (w.deadline ≤ age) && decide (age < w.deadline + 3) && w.age == 0
  | none => false

/-- STAGE_DEADLINE: a counted wait reaches its stage's deadline, and its region is held (R242, R243)
(DESIGN CHOICE, notes/assumptions/136.md). -/
def execStageDeadline (region : BitVec 5) (index : BitVec 8) (age : BitVec 32) (s : State) :
    Host.Outcome State Fault Refusal :=
  let r := region.toNat
  if deadlineReached s r index.toNat age.toNat then
    effect s fun s =>
      let x := s.region r
      let w := x.waits[index.toNat]?.getD ⟨0, 0, false, 0, 0, 0⟩
      let pg := Page.rg r
      let s := s.setRegion r
        { x with
          heldAt := some (w.task, w.addr)
          waits := x.waits.set index.toNat { w with age := age.toNat } }
      let s := s.setReg (pg + 0x44) (BitVec.ofNat 32
        (2 ^ 31 + w.kind * 2 ^ 27 + w.task.toNat * 2 ^ 26 + w.pb % 256 * 2 ^ 18))
      let s := s.setFld pg F.RG_DEADLINE_ADDR_instr_addr w.addr
      let s := s.setFld pg F.RG_STATUS_held 1
      let s := fixedCount s pg 1 age.toNat
      raiseEv s Err.rg_stage_deadline
        { page := pg, court := s.courtOf r, mag := age.toNat, detail := [(s.reg (pg + 0x44)).toNat, w.addr] }
  else turnedAway s

end Sys2Proof.Machine
end

