-- ==== Sys2Proof/Machine/Valve.lean ====
section
/-! DEFINITION. The valve of a region: the arena and the deep area as rings, the set table, offload, migration, restore and
mark recompute (10_spatial_pipelines.md R234 to R239). -/

namespace Sys2Proof.Machine

/-! ## Area rings (R234) -/

def areaBase (s : State) (r : Nat) (deep : Bool) : Nat :=
  if deep then s.fld48 (Page.rg r) F.RG_DEEP_BASE_LO_base F.RG_DEEP_BASE_HI_base
  else s.fld48 (Page.rg r) F.RG_ARENA_BASE_LO_base F.RG_ARENA_BASE_HI_base

/-- Size of an area in tiles; an area not wholly in its tier of one stack, or not tile-aligned, counts as 0. -/
def areaTiles (s : State) (r : Nat) (deep : Bool) : Nat :=
  let n := if deep then s.fld (Page.rg r) F.RG_DEEP_TILES_tiles else s.fld (Page.rg r) F.RG_ARENA_TILES_tiles
  let b := areaBase s r deep
  if deepOf b == deep && aligned b && decide (tileOf b + n ≤ tierTiles deep) then n else 0

def ringOf (x : Region) (deep : Bool) : List Alloc := if deep then x.deep else x.arena
def ringHead (x : Region) (deep : Bool) : Nat := if deep then x.deepHead else x.arenaHead

/-- Tiles allocated, from ring tail to head. -/
def ringFill (l : List Alloc) : Nat := (l.map (·.tiles)).sum

/-- Has an area room for n tiles? -/
def hasRoom (s : State) (r : Nat) (deep : Bool) (n : Nat) : Bool :=
  decide (ringFill (ringOf (s.region r) deep) + n ≤ areaTiles s r deep)

def showFill (s : State) (r : Nat) : State :=
  let x := s.region r
  let s := s.setFld (Page.rg r) F.RG_ARENA_FILL_tiles (ringFill x.arena)
  s.setFld (Page.rg r) F.RG_DEEP_FILL_tiles (ringFill x.deep)

/-- Take n tiles at the head of an area's ring; the offset in tiles of the first. -/
def ringTake (s : State) (r : Nat) (deep : Bool) (n : Nat) : State × Nat :=
  let size := areaTiles s r deep
  let x := s.region r
  let head := ringHead x deep
  let a : Alloc := ⟨head, n, false⟩
  let next := if size = 0 then 0 else (head + n) % size
  let x := if deep then { x with deep := x.deep ++ [a], deepHead := next }
           else { x with arena := x.arena ++ [a], arenaHead := next }
  (showFill (s.setRegion r x) r, head)

/-- Mark the first live allocation at an offset as freed. -/
def markFreed : List Alloc → Nat → List Alloc
  | [], _ => []
  | a :: t, off => if a.off = off ∧ !a.freed then { a with freed := true } :: t else a :: markFreed t off

/-- Free an allocation; space returns once every older one has been freed (R234). -/
def ringFree (s : State) (r : Nat) (deep : Bool) (off : Nat) : State :=
  let x := s.region r
  let l := (markFreed (ringOf x deep) off).dropWhile (·.freed)
  showFill (s.setRegion r (if deep then { x with deep := l } else { x with arena := l })) r

/-- Address of tile i of an allocation at offset `off` of an area. -/
def areaTile (s : State) (r : Nat) (deep : Bool) (off i : Nat) : Nat :=
  areaBase s r deep + (off + i) % (max 1 (areaTiles s r deep)) * tileBytes

/-- Copy n tiles, source and destination given tile by tile; it stops at the first refusal. -/
def copyEach (s : State) (w : Who) (n : Nat) (src dst : Nat → Nat) : State × Option Refused :=
  (List.range n).foldl (fun (acc : State × Option Refused) i =>
    match acc with
    | (s, some r) => (s, some r)
    | (s, none) => copyTile s w (src i) (dst i)) (s, none)

/-! ## Sets (R235 to R238) -/

def valveWho (s : State) (h : Hdr) : Who := ⟨s.courtOf h.region.toNat, 6, 2⟩

def findSet (x : Region) (id : Nat) : Option ValveSet := x.sets.find? fun t => t.id == id

def valveCnt (s : State) (r : Nat) (n : Nat) : Cnt := { n := n, court := s.courtOf r, master := some 2 }

def setCount (s : State) (r : Nat) : State :=
  s.setFld (Page.rg r) F.RG_SET_COUNT_sets (s.region r).sets.length

/-- Enter a copied set in the table at the offset it was given. -/
def offloadTo (s : State) (h : Hdr) (deep : Bool) (id n src : Nat) : State :=
  let r := h.region.toNat
  let (s, off) := ringTake s r deep n
  let dst := fun i => areaTile s r deep off i
  match copyEach s (valveWho s h) n (fun i => src + i * tileBytes) dst with
  | (s, some _) => ringFree s r deep off
  | (s, none) =>
    let s := s.updRegion r fun x => { x with sets := x.sets ++ [⟨id, deep, n, off⟩] }
    count (setCount s r) (Page.rg r) (if deep then 0x09 else 0x08) (valveCnt s r 1)

/-- The watermarks of RG_VALVE_CTL in tiles × 100: fill above high starts migration, at or below low ends it (R236). -/
def highMark (s : State) (r : Nat) : Nat := s.fld (Page.rg r) F.RG_VALVE_CTL_high_pct * s.fld (Page.rg r) F.RG_ARENA_TILES_tiles
def lowMark (s : State) (r : Nat) : Nat :=
  min (s.fld (Page.rg r) F.RG_VALVE_CTL_low_pct) (s.fld (Page.rg r) F.RG_VALVE_CTL_high_pct)
    * s.fld (Page.rg r) F.RG_ARENA_TILES_tiles
def arenaFill (s : State) (r : Nat) : Nat := ringFill (s.region r).arena * 100

/-- Where an offload puts its set: the arena under watermark 1 with room, else the deep area with room, else nowhere. (DESIGN CHOICE, notes/assumptions/74.md) -/
def offloadArea (s : State) (r n : Nat) (watermark : Bool) : Option Bool :=
  if watermark && hasRoom s r false n then some false else if hasRoom s r true n then some true else none

/-- OFFLOAD (R235, R238). -/
def execOffload (h : Hdr) (setId : BitVec 16) (tilesM1 : BitVec 20) (a : AddrOp) (watermark : Bool) (s : State) :
    Host.Outcome State Fault Refusal :=
  let r := h.region.toNat
  let x := s.region r
  let n := tilesM1.toNat + 1
  let src := addrOf (s.prog h) a
  let known := (findSet x setId.toNat).isSome || decide (1024 ≤ x.sets.length)
  let ready : Ready :=
    if known || !aligned src then .yes
    else if rebuildWaits s src (n * tileBytes) then .hazard
    else match offloadArea s r n watermark with
      | some _ => .yes
      | none => .counted 4 0
  issue s h 0 true ready fun s =>
    if known then raise s (Page.rg r) Err.rg_valve_set
    else if !aligned src then refuseUnaligned s (valveWho s h) src
    else match offloadArea s r n watermark with
      | none => s
      | some deep =>
        let s := offloadTo s h deep setId.toNat n src
        if watermark && decide (highMark s r < arenaFill s r) then s.updRegion r fun x => { x with migrate := true }
        else s

/-- Migrate one set, the oldest in the arena, if the deep area has room (R236); it reports whether it moved one. -/
def migrateOne (s : State) (r : Nat) : State × Bool :=
  let x := s.region r
  match x.sets.find? fun t => !t.deep with
  | none => (s, false)
  | some t =>
    if hasRoom s r true t.tiles then
      let (s, off) := ringTake s r true t.tiles
      let w : Who := ⟨s.courtOf r, 6, 2⟩
      match copyEach s w t.tiles (fun i => areaTile s r false t.addr i) (fun i => areaTile s r true off i) with
      | (s, some _) => (ringFree s r true off, false)
      | (s, none) =>
        let s := ringFree s r false t.addr
        let s := s.updRegion r fun x =>
          { x with sets := (x.sets.filter fun u => u.id != t.id) ++ [{ t with deep := true, addr := off }] }
        (count s (Page.rg r) 0x0A (valveCnt s r t.tiles), true)
    else (s, false)

/-- Migrate until the fill is at or below low_pct, or no room is left. -/
def migrateGo : Nat → State → Nat → State
  | 0, s, _ => s
  | k + 1, s, r =>
    if lowMark s r < arenaFill s r then
      match migrateOne s r with
      | (s, true) => migrateGo k s r
      | (s, false) => s
    else s.updRegion r fun x => { x with migrate := false }

/-- VALVE_MIGRATE (R236): runs while an offload has left the arena above its high watermark. -/
def execValveMigrate (region : BitVec 5) (s : State) : Host.Outcome State Fault Refusal :=
  let r := region.toNat
  if (s.region r).migrate then effect s fun s => migrateGo ((s.region r).sets.length + 1) s r
  else turnedAway s

/-- VALVE_RESTORE (R237, R238). -/
def execValveRestore (h : Hdr) (setId : BitVec 16) (tilesM1 : BitVec 20) (a : AddrOp) (s : State) :
    Host.Outcome State Fault Refusal :=
  let r := h.region.toNat
  let n := tilesM1.toNat + 1
  let dst := addrOf (s.prog h) a
  issue s h 0 true (if rebuildWaits s dst (n * tileBytes) then .hazard else .yes) fun s =>
    match findSet (s.region r) setId.toNat with
    | none => raise s (Page.rg r) Err.rg_valve_order
    | some t =>
      if t.tiles ≠ n then raise s (Page.rg r) Err.rg_valve_order
      else if !aligned dst then refuseUnaligned s (valveWho s h) dst
      else
        match copyEach s (valveWho s h) n (fun i => areaTile s r t.deep t.addr i) (fun i => dst + i * tileBytes) with
        | (s, some _) => s
        | (s, none) =>
          let s := ringFree s r t.deep t.addr
          let s := s.updRegion r fun x => { x with sets := x.sets.filter fun u => u.id != t.id }
          count (setCount s r) (Page.rg r) 0x0B (valveCnt s r n)

/-- MARK_RECOMPUTE moves nothing and takes no slot (R238). -/
def execMarkRecompute (h : Hdr) (_setId : BitVec 16) (_tilesM1 : BitVec 20) (_a : AddrOp) (s : State) :
    Host.Outcome State Fault Refusal :=
  let r := h.region.toNat
  issue s h 0 true .yes fun s =>
    count (s.satFld (Page.rg r) F.RG_SET_COUNT_recompute_marks 1) (Page.rg r) 0x0C (valveCnt s r 1)

end Sys2Proof.Machine
end

