-- ==== Sys2Proof/Machine/PassBuf.lean ====
section
/-! DEFINITION. Pass buffers: reservation, entries in and out, backpressure, spill and credit
(10_spatial_pipelines.md R224 to R229; 13_fabric_and_collectives.md R315). -/

namespace Sys2Proof.Machine

/-- The pass buffer of a descriptor. -/
def findBuf (s : State) (d : PbDesc) : Option PassBuf := s.pbufs.find? fun b => b.desc == d

def bufOf (s : State) (d : PbDesc) : PassBuf := (findBuf s d).getD (.init d false)

def setBuf (s : State) (b : PassBuf) : State :=
  { s with pbufs :=
    if s.pbufs.any fun x => x.desc == b.desc then s.pbufs.map fun x => if x.desc == b.desc then b else x
    else s.pbufs ++ [b] }

/-- The descriptor of index i of a region's running stage. -/
def pbDesc (s : State) (r i : Nat) : Option PbDesc := (s.region r).pbs[i]?

/-- Does the store of the buffer lie on this package, and here is its consumer (R224)? -/
def consumedHere (s : State) (d : PbDesc) : Bool := d.kind != 2 || d.consDevice == deviceId s

/-- The next die on the one route between two dies (R13). -/
def nextDie (a b : Nat) : Nat :=
  if a = b then b
  else if (a + 1) % 4 = b ∨ (b + 1) % 4 = a then b
  else if a % 2 = 0 then 1 else 2

/-- The last edge of the route from die a to die b, with its direction: the edge is named by the die it enters from. -/
def lastEdge (a b : Nat) : Nat × Nat :=
  let m := nextDie a b
  if m = b then (a, b) else (m, b)

/-- The store a buffer's entries lie in (Table 10.1): a region's switch, or the last ring edge in one direction. -/
inductive Store where
  | switch (region : Nat)
  | edge (fromDie toDie : Nat)
  deriving DecidableEq, Repr

def storeOf (d : PbDesc) : Store :=
  if d.kind = 1 then
    let e := lastEdge (d.prodRegion / 8) (d.consRegion / 8)
    .edge e.1 e.2
  else .switch d.consRegion

def Store.capacity : Store → Nat
  | .switch _ => 2 ^ 20
  | .edge _ _ => 2 ^ 21

/-- Bytes reserved in a store (R225). -/
def reservedIn (s : State) (st : Store) : Nat :=
  (s.pbufs.map fun b => if b.reserved && storeOf b.desc == st then b.desc.entryBytes * b.desc.depth else 0).sum

/-- Reserve the buffers of a starting stage that lie on this package and are not reserved yet; none where a store's
capacity would be exceeded (R225, PB_SPACE). -/
def reserveBufs (s : State) (ds : List PbDesc) : Option State :=
  ds.foldl (fun (acc : Option State) d =>
    match acc with
    | none => none
    | some s =>
      if (findBuf s d).isSome then some s
      else if !consumedHere s d then some (setBuf s (.init d false))
      else if reservedIn s (storeOf d) + d.entryBytes * d.depth ≤ (storeOf d).capacity then
        some (setBuf s (.init d true))
      else none) (some s)

/-- RG_SPILL_EN of the consumer's region for a buffer (R229); the bit is that of the buffer's index there. -/
def spillEnabled (s : State) (d : PbDesc) : Bool :=
  let r := d.consRegion
  match (s.region r).pbs.findIdx? fun x => x == d with
  | some i => bit (if i < 32 then s.fld (Page.rg r) F.RG_SPILL_EN_LO_enable else s.fld (Page.rg r) F.RG_SPILL_EN_HI_enable) (i % 32)
  | none => false

def entryTiles (d : PbDesc) : Nat := (d.entryBytes + tileBytes - 1) / tileBytes

/-- Where the bytes of a spilled entry lie, tile by tile. -/
def spillWrite (s : State) (r off : Nat) (e : PbEntry) (n : Nat) : State :=
  let w : Who := ⟨s.courtOf r, 6, 2⟩
  forEach (List.range n) s fun s i =>
    let part := (e.bytes.drop (i * tileBytes)).take tileBytes
    let a := areaTile s r true off i
    match admits s w a with
    | some x => noteRefused s w a x
    | none => countTile (putTile s a part 0#4 (nextGen (trailerAt s a)) e.poison) w a true

/-- Take the oldest waiting entry into the store or, where it is full or spill has begun, into spill; `none` where the
entry must go on waiting (R228, R229). (DESIGN CHOICE, notes/assumptions/72.md) -/
def admitEntry (s : State) (d : PbDesc) (e : PbEntry) : Option State :=
  let b := bufOf s d
  if b.store.length < d.depth ∧ b.spill = [] then
    some (setBuf s { b with store := b.store ++ [e], moved := b.moved + 1 })
  else if consumedHere s d && spillEnabled s d && hasRoom s d.consRegion true (entryTiles d) then
    let r := d.consRegion
    let (s, off) := ringTake s r true (entryTiles d)
    let s := spillWrite s r off e (entryTiles d)
    let s := count s (Page.rg r) 0x06 { court := s.courtOf r, master := some 2 }
    let s := s.setFld (Page.rg r) F.RG_STATUS_spilling 1
    some (setBuf s { b with spill := b.spill ++ [(off, e)], moved := b.moved + 1 })
  else none

/-- Refill the store from spill, oldest first (R229). -/
def refill : Nat → State → PbDesc → State
  | 0, s, _ => s
  | k + 1, s, d =>
    let b := bufOf s d
    match b.spill with
    | [] => s
    | (off, e) :: rest =>
      if b.store.length < d.depth then
        let r := d.consRegion
        let bad := (List.range (entryTiles d)).any fun i => (trailerAt s (areaTile s r true off i)).poison
        let s := ringFree s r true off
        let s := setBuf s { b with store := b.store ++ [{ e with poison := e.poison || bad }], spill := rest }
        let s := if rest = [] ∧ !(s.pbufs.any fun x => x.desc.consRegion == r && x.spill != []) then
            s.setFld (Page.rg r) F.RG_STATUS_spilling 0 else s
        refill k s d
      else s

/-- Move entries a local producer still holds while there is room, then complete the producing instructions whose bytes
have all moved (R228). -/
def drainQueue : Nat → State → PbDesc → State
  | 0, s, _ => s
  | k + 1, s, d =>
    let b := bufOf s d
    match b.queue with
    | [] => s
    | e :: rest =>
      match admitEntry (setBuf s { b with queue := rest }) d e with
      | some s => drainQueue k s d
      | none => s

def pbIndex (s : State) (r : Nat) (d : PbDesc) : Nat := ((s.region r).pbs.findIdx? fun x => x == d).getD 0

/-- Producing instructions whose last entry has moved complete, and their counted waits end. -/
def completeProducers (s : State) (d : PbDesc) : State :=
  let b := bufOf s d
  let r := d.prodRegion
  let i := pbIndex s r d
  let done (x : InFlight) : Bool := match x.what with
    | .produce pb upto => pb == i && decide (upto ≤ b.moved)
    | _ => false
  forEach [false, true] s fun s task =>
    let fin := (progOf (s.region r) task).inflight.filter done
    let s := updProg s r task fun p => completeInflight p done
    forEach fin s fun s x => endWait s r task x.addr

/-! ### Ethernet buffers (13_fabric_and_collectives.md R315) -/

/-- Send entries a remote consumer has granted credit for; a failed flow takes none (R312). -/
def drainRemote : Nat → State → PbDesc → State
  | 0, s, _ => s
  | k + 1, s, d =>
    let b := bufOf s d
    match b.queue with
    | [] => s
    | e :: rest =>
      if b.credit = 0 ∨ (flowOf s d.consDevice d.flow).failed then s
      else
        let s := setBuf s { b with queue := rest, credit := b.credit - 1, moved := b.moved + 1 }
        drainRemote k (sendFlow s d.consDevice d.flow d.ports 0x30 [] (e.bytes ++ leBytes 4 (crc32c e.bytes)) []) d

/-- Reserve deep-area room for entries of a buffer that may spill. -/
def reserveRoom : Nat → State → PbDesc → State
  | 0, s, _ => s
  | k + 1, s, d =>
    if spillEnabled s d && decide (0 < entryTiles d) && hasRoom s d.consRegion true (entryTiles d) then
      let (s, off) := ringTake s d.consRegion true (entryTiles d)
      let b := bufOf s d
      reserveRoom k (setBuf s { b with room := b.room ++ [off], granted := b.granted + 1 }) d
    else s

/-- Grant a remote producer the free entries of the store and of the deep area it does not yet hold credit for. -/
def grantCredit (s : State) (d : PbDesc) : State :=
  if d.kind ≠ 2 ∨ !consumedHere s d ∨ d.prodDevice = deviceId s then s
  else
    let b := bufOf s d
    let free := d.depth - b.store.length - (b.granted - b.room.length)
    let free := if b.spill = [] then free else 0
    let s := setBuf s { b with granted := b.granted + free }
    let s := reserveRoom (min (areaTiles s d.consRegion true) 65535) s d
    let n := (bufOf s d).granted - b.granted
    if n = 0 then s
    else s.send ⟨.device d.prodDevice, 0x03, [d.flow, (flowOf s d.prodDevice d.flow).expect, 0, min n 65535], []⟩

/-- Put an arrived entry where its credit has room: the store, or spill (R229). -/
def storeGranted (s : State) (d : PbDesc) (e : PbEntry) : State :=
  let b := bufOf s d
  let r := d.consRegion
  if b.store.length < d.depth ∧ b.spill = [] then
    let s := setBuf s { b with store := b.store ++ [e], granted := b.granted - 1 }
    match b.room with
    | off :: rest => if b.granted - 1 < b.room.length then
        ringFree (setBuf s { bufOf s d with room := rest }) r true off else s
    | [] => s
  else match b.room with
    | off :: rest =>
      let s := setBuf s { b with room := rest, granted := b.granted - 1, spill := b.spill ++ [(off, e)] }
      let s := spillWrite s r off e (entryTiles d)
      let s := count s (Page.rg r) 0x06 { court := s.courtOf r, master := some 2 }
      s.setFld (Page.rg r) F.RG_STATUS_spilling 1
    | [] => s

/-- Settle a buffer after entries came or went. -/
def settle (s : State) (d : PbDesc) : State :=
  let b := bufOf s d
  let s := refill (b.spill.length + 1) s d
  let s := if d.kind = 2 ∧ !consumedHere s d then drainRemote (b.queue.length + 1) s d
    else drainQueue (b.queue.length + 1) s d
  grantCredit (completeProducers s d) d

/-- Cut bytes into whole entries; the rest stays in the entry being filled. -/
def cutEntries (size : Nat) : Nat → List Byte → List PbEntry × List Byte
  | 0, bs => ([], bs)
  | k + 1, bs =>
    if size ≠ 0 ∧ size ≤ bs.length then
      let (es, r) := cutEntries size k (bs.drop size)
      (⟨bs.take size, false⟩ :: es, r)
    else ([], bs)

/-- Put bytes into a buffer as its producer (R226). Entries without room wait in the producer's queue (R228); entries of
a remote consumer wait for credit (R315). -/
def pushBytes (s : State) (d : PbDesc) (bs : List Byte) : State :=
  let b := bufOf s d
  let all := b.filling ++ bs
  let (es, rest) := cutEntries d.entryBytes (all.length + 1) all
  let s := setBuf s { b with filling := rest, queue := b.queue ++ es, produced := b.produced + es.length }
  let s := count s (Page.rg d.prodRegion) 0x04 { n := es.length, court := s.courtOf d.prodRegion, master := some 2 }
  let s := settle s d
  if d.kind = 2 ∧ !consumedHere s d ∧ (bufOf s d).queue ≠ [] then chesyCnt s 0x06 else s

/-- Has every entry a producer made so far left for the store? -/
def allMoved (s : State) (d : PbDesc) : Bool := (bufOf s d).queue == []

/-- After its bytes were put in, a producing instruction completes at once or waits, counted, until they have moved. -/
def finishProducer (s : State) (h : Hdr) (d : PbDesc) (addr cls : Nat) : State :=
  if allMoved s d then s
  else
    let r := h.region.toNat
    let i := pbIndex s r d
    let w : CWait := ⟨1, i, h.task, addr, s.fld (Page.rg r) F.RG_DEADLINE_deadline_us, 0⟩
    hold (s.updRegion r fun x => { x with waits := x.waits ++ [w] }) h addr cls (.produce i (bufOf s d).produced)

/-- Bytes a consumer can take now: drained ones, the store, spill, and what a local producer still holds. -/
def available (s : State) (d : PbDesc) : Nat :=
  let b := bufOf s d
  b.taking.length + (b.store.length + b.spill.length + b.queue.length) * d.entryBytes - b.taken

/-- Take the rest of the oldest entry whole or `n` bytes of it: bytes, poison. -/
def takeStep (s : State) (d : PbDesc) (n : Nat) : State × List Byte × Bool :=
  let b := bufOf s d
  match b.store with
  | [] => (s, [], false)
  | e :: rest =>
    let left := e.bytes.drop b.taken
    if left.length ≤ n then
      let s := setBuf s { b with store := rest, taken := 0, granted := b.granted }
      let s := count s (Page.rg d.consRegion) 0x05 { court := s.courtOf d.consRegion, master := some 2 }
      (settle s d, left, e.poison)
    else (setBuf s { b with taken := b.taken + n }, left.take n, e.poison)

/-- Take n bytes, entry by entry; an entry is freed when its last byte has been taken (R226). -/
def takeGo : Nat → State → PbDesc → Nat → List Byte → Bool → State × List Byte × Bool
  | 0, s, _, _, acc, bad => (s, acc, bad)
  | k + 1, s, d, n, acc, bad =>
    if n = 0 then (s, acc, bad)
    else
      let (s, bs, p) := takeStep s d n
      if bs = [] then (s, acc, bad) else takeGo k s d (n - bs.length) (acc ++ bs) (bad || p)

/-- Take n bytes from a buffer as its consumer: the bytes and whether any entry was poisoned (R227). -/
def takeBytes (s : State) (d : PbDesc) (n : Nat) : State × List Byte × Bool :=
  let b := bufOf s d
  let have0 := b.taking
  let s := setBuf s { b with taking := have0.drop n, takingPoison := if have0.length ≤ n then false else b.takingPoison }
  takeGo (n + 1) s d (n - have0.length) (have0.take n) (b.takingPoison && have0 != [])

/-- A waiting consumer drains the store, so that more entries can come (R228). -/
def drainStore (s : State) (d : PbDesc) (n : Nat) : State :=
  let b := bufOf s d
  let (s, bs, bad) := takeGo (n + 1) s d (n - b.taking.length) [] false
  let b := bufOf s d
  setBuf s { b with taking := b.taking ++ bs, takingPoison := b.takingPoison || bad }

/-- RG_PB_STAT of the buffer RG_PB_SEL names (Table 10.8). -/
def pbStat (s : State) (r : Nat) : Nat :=
  match pbDesc s r (s.fld (Page.rg r) F.RG_PB_SEL_index) with
  | none => 0
  | some d =>
    if consumedHere s d && d.consRegion == r then
      let b := bufOf s d
      2 ^ 31 + (if b.queue = [] then 0 else 2 ^ 30) + min b.spill.length 0xFFF * 4096 + min b.store.length 0xFFF
    else 0

end Sys2Proof.Machine
end

