-- ==== Sys2Proof/Machine/HostPort.lean ====
section
/-! DEFINITION. Host sessions and commands: admission, courts, data, stages, steps, quiesce and resume, abort, region resume,
notices (14_host_port.md R340 to R359; 09_ablos_encoding.md R219 to R221). -/

namespace Sys2Proof.Machine

/-! ## Work of a region and its states -/

/-- Is a closed group of a region still to be folded (05_accumulators.md R121)? -/
def foldPending (s : State) (r : Nat) : Bool :=
  ((List.range 16).filterMap (s.physOf r)).any fun p =>
    (s.cluster (clusterOf r p)).units.any fun e => e.2.groups.any (·.closing)

/-- Does a region hold accepted work that has not completed (R47)? -/
def regionWork (s : State) (r : Nat) : Bool :=
  let x := s.region r
  x.main.inflight != [] || x.taskRunning || x.bench != [] || x.stream.isSome || x.waits != [] || x.migrate || foldPending s r

def quiesceSet (s : State) (page : Nat) : Bool := bit (s.reg (page + 0x10)).toNat 1

/-- May a block accept new work (PAGE_CTL, Table 2.6)? (DESIGN CHOICE, notes/assumptions/22.md) -/
def pageAccepts (s : State) (page : Nat) : Bool :=
  bit (s.reg (page + 0x10)).toNat 0 && !quiesceSet s page

/-- A region's pages read quiesced (R47, R48). -/
def regionQuiesced (s : State) (r : Nat) : Bool := quiesceSet s (Page.rg r) && !regionWork s r

/-- A region is idle: in no running stage, no work, in service. -/
def regionIdle (s : State) (r : Nat) : Bool :=
  !(s.region r).started && !regionWork s r && !s.pageRetired (Page.rg r)

/-- Pages whose quiesce and enable act together (R48), with the region's RE page for a host quiesce (R352). -/
def regionPages (r : Nat) : List Nat :=
  Page.rg r :: (clustersOf r).flatMap fun c => [Page.tu c, Page.acc c, Page.ve c, Page.st c]

/-- Set a bit of PAGE_CTL. -/
def setCtl (s : State) (page b : Nat) (v : Bool) : State :=
  let o := (s.reg (page + 0x10)).toNat
  s.setReg (page + 0x10) (BitVec.ofNat 32 (o - (if bit o b then 2 ^ b else 0) + (if v then 2 ^ b else 0)))

def setQuiesce (s : State) (r : Nat) (v : Bool) : State :=
  forEach (regionPages r ++ [Page.re r]) s fun s p => setCtl s p 1 v

/-- A pending wait_step is withdrawn and issues again after resume (R352). -/
def withdrawWait (s : State) (r : Nat) : State :=
  updProg s r false fun p =>
    if p.waiting then
      { p with
        waiting := false, waitToken := 0, pc := p.pc - 1
        tokens := if p.waitToken = 0 then p.tokens else KMap.set p.tokens 0 p.waitToken (tokenCount p p.waitToken - 1) }
    else p

/-! ## Sessions (R341 to R343) -/

/-- Does an address lie within a prefix of four words, the first the highest? A length of 0 admits every address. -/
def prefixAdmits (len : Nat) (w : Nat → Nat) (a : NetAddr) : Bool :=
  if len = 0 then true
  else if a.v6 then
    let p := w 0 * 2 ^ 96 + w 1 * 2 ^ 64 + w 2 * 2 ^ 32 + w 3
    decide (len ≤ 128) && decide (a.addr.toNat / 2 ^ (128 - len) = p / 2 ^ (128 - len))
  else decide (len ≤ 32) && decide (a.addr.toNat % 2 ^ 32 / 2 ^ (32 - len) = w 0 / 2 ^ (32 - len))

/-- Does a source address lie within H_ALLOW / H_ALLOW_LEN (R342)? -/
def admitted (s : State) (a : NetAddr) : Bool :=
  prefixAdmits (s.fld Page.h F.H_ALLOW_LEN_length) (fun i => s.fld Page.h F.H_ALLOW_prefix i) a

def openSessions (s : State) : Nat := (s.sessions.filter fun e => e.2.isOpen).length

def freeSession (s : State) : Option Nat := (List.range 64).find? fun i => !(s.session (i + 1)).isOpen

/-- The completion of an open goes to the datagram's source address (R319). -/
def openReply (s : State) (src : NetAddr) (tag status word2 : Nat) : State :=
  s.send ⟨.source src.addr.toNat, 0x21, [0x20 * 65536 + tag, status, word2], []⟩

def execSessionOpen (src : NetAddr) (flow : BitVec 28) (device : Bool) (court : BitVec 4) (tag : BitVec 16)
    (s : State) : Host.Outcome State Fault Refusal :=
  if !isReady s then turnedAway s
  else if !admitted s src then
    effect s fun s => openReply (note s Page.h Err.h_session_refused) src tag.toNat 1 0
  else match freeSession s with
    | none => effect s fun s => openReply s src tag.toNat 2 0
    | some i => effect s fun s =>
        let s := s.setSession (i + 1)
          ⟨true, device, court.toNat, src.addr.toNat, flow.toNat, 0, (s.sessionSent (i + 1)).length, 0, 0⟩
        openReply s src tag.toNat 0 (i + 1)

/-- A close ends the session and aborts nothing (R343). -/
def execSessionClose (session : BitVec 7) (tag : BitVec 16) (s : State) : Host.Outcome State Fault Refusal :=
  let x := s.session session.toNat
  if isReady s && x.isOpen then
    effect s fun s =>
      (s.send ⟨.session session.toNat, 0x21, [0x20 * 65536 + tag.toNat, 0, session.toNat], []⟩).setSession
        session.toNat .closed
  else turnedAway s

/-! ## Commands (R342, R344) -/

def cmdOf (c : HostHdr) (typ : Nat) : HostCmd := ⟨c.session.toNat, c.tag.toNat, typ, c.court.toNat, c.quiet⟩

/-- What acceptance of a command finds. -/
inductive Accept where
  | dropped
  | aborted
  | status (code : Nat)
  | go
  deriving DecidableEq, Repr

/-- Acceptance: the package ready and the session open; after a device-fatal event or while an activation drains
every command but a data read completes ABORTED (R384, R456); a court-scope session may command its own court only, and not create or release (R342);
the court must be created where the command needs one. (DESIGN CHOICE, notes/assumptions/61.md) (DESIGN CHOICE, notes/assumptions/98.md) -/
def accept (s : State) (c : HostHdr) (typ : Nat) (needsCourt : Bool) : Accept :=
  let x := s.session c.session.toNat
  if !isReady s || !x.isOpen then .dropped
  else if (s.fatal || s.draining) && typ != 0x25 then .aborted
  else if !x.device && (x.court != c.court.toNat || typ == 0x22 || typ == 0x23) then .status 1
  else if needsCourt && !s.courtCreated c.court.toNat then .status 3
  else .go

def countCmd (s : State) (c : HostHdr) : State :=
  let x := s.session c.session.toNat
  s.setSession c.session.toNat { x with commands := (x.commands + 1) % 65536 }

/-- Run a host command. -/
def hostCmd (s : State) (c : HostHdr) (typ : Nat) (needsCourt : Bool) (body : State → State) :
    Host.Outcome State Fault Refusal :=
  match accept s c typ needsCourt with
  | .dropped => turnedAway s
  | .aborted => effect s fun s => complete (countCmd s c) (cmdOf c typ) 0x0B 0 0 []
  | .status k => effect s fun s => complete (countCmd s c) (cmdOf c typ) k 0 0 []
  | .go => effect s fun s => body (countCmd s c)

/-- The context of a host command's accesses: the court for a court-scope session or court_ctx 1 (R344). -/
def hostWho (s : State) (c : HostHdr) : Who :=
  let x := s.session c.session.toNat
  if !x.device then ⟨some x.court, 1, 3⟩ else if c.courtCtx then ⟨some c.court.toNat, 1, 3⟩ else ⟨none, 1, 3⟩

/-- Does the command act in a court's context? -/
def inCourt (s : State) (c : HostHdr) : Bool := !(s.session c.session.toNat).device || c.courtCtx

def done (s : State) (c : HostHdr) (typ status : Nat) (detail : Nat := 0) (result : List Nat := []) : State :=
  complete s (cmdOf c typ) status detail 0 result

/-! ## Courts (R345, R346, R262) -/

/-- The sweep of R262 when court n's epoch wraps: its tags go to 0x000 with poison 1. -/
def sweepCourt (s : State) (n : Nat) : State :=
  { s with trailers := s.trailers.map fun e =>
      let a := e.1 * tileBytes
      if e.2.tag ≠ 0#12 ∧ e.2.tag.toNat / 256 = n ∧ !s.pageRetired (Page.stk (stackOf a)) then
        (e.1, { e.2 with tag := 0#12, poison := true })
      else e }

/-- The epoch of a court advances; it skips 0, and the step from 255 to 1 follows the sweep (R260, R262). -/
def nextEpoch (s : State) (n : Nat) : State :=
  let e := s.fld (Page.court n) F.COURT_EPOCH_epoch
  if e = 255 then (sweepCourt s n).setFld (Page.court n) F.COURT_EPOCH_epoch 1
  else s.setFld (Page.court n) F.COURT_EPOCH_epoch (e + 1)

/-- May a mask of regions be assigned: none in a court, each idle and in service? -/
def regionsFree (s : State) (mask : W32) : Bool :=
  (List.range 32).all fun r => !mask.getLsbD r || ((s.courtOf r).isNone && regionIdle s r)

/-- The effect of a court create: the court's registers reset, its epoch advanced, its regions assigned and cleared (R246, R260, R345)
(DESIGN CHOICE, notes/assumptions/67.md). -/
def createCourt (s : State) (n : Nat) (mask : W32) : State :=
  let s := resetRegs s (Page.court n) 0x40 0x84 [0x44]
  let s := nextEpoch s n
  let s := { s with assign := KMap.set s.assign 0#32 n mask, courtHuddle := KMap.set s.courtHuddle 0 n 0 }
  forEach (s.regionsOf n) s clearRegion

def execCourtCreate (c : HostHdr) (mask : W32) (s : State) : Host.Outcome State Fault Refusal :=
  let n := c.court.toNat
  match accept s c 0x22 false with
  | .go =>
    if s.courtCreated n then effect s fun s => done (countCmd s c) c 0x22 2
    else if !regionsFree s mask then effect s fun s => done (countCmd s c) c 0x22 4
    else if mask = 0#32 then effect s fun s => done (countCmd s c) c 0x22 0x0C
    else effectAssign s fun s =>
      let s := createCourt (countCmd s c) n mask
      done s c 0x22 0 0 [s.fld (Page.court n) F.COURT_EPOCH_epoch]
  | _ => hostCmd s c 0x22 false id

/-- Stages of a court that run (R346). -/
def courtStages (s : State) (n : Nat) : List Stage := s.stages.filter fun t => t.court == n

def releaseCourt (s : State) (n : Nat) : State :=
  let rs := s.regionsOf n
  let s := releaseBuffers s rs
  { s with assign := KMap.set s.assign 0#32 n 0#32 }

def execCourtRelease (c : HostHdr) (s : State) : Host.Outcome State Fault Refusal :=
  let n := c.court.toNat
  match accept s c 0x23 true with
  | .go =>
    if courtStages s n ≠ [] then effect s fun s => done (countCmd s c) c 0x23 2
    else effectAssign s fun s => done (releaseCourt (countCmd s c) n) c 0x23 0
  | _ => hostCmd s c 0x23 true id

/-! ## Data (R347, R348) -/

/-- Does a tile as carried agree with its check (R253)? -/
def wireOk (t : WireTile) : Bool :=
  BitVec.ofNat 32 (crc32c (t.data ++ leBytes 4 (t.word1.toNat - bits t.word1.toNat 19 19 * 2 ^ 19))) == t.check

/-- Write one tile of a data write as a carrier: format and generation as the host set them, the tag stamped, poison
kept, and set where the resent copy failed too (R347, R316). (DEDUCED, notes/assumptions/64.md) -/
def putWire (s : State) (w : Who) (a : Nat) (t : WireTile) : State × Option Refused :=
  match admits s w a with
  | some r => (noteRefused s w a r, some r)
  | none =>
    let w1 := t.word1.toNat
    let poison := bit w1 19 || !wireOk t
    (countTile (putTile s a t.data (BitVec.ofNat 4 (bits w1 18 15)) (BitVec.ofNat 15 (bits w1 14 0)) poison) w a true, none)

def execDataWrite (c : HostHdr) (addr : Addr48) (tiles : List WireTile) (s : State) :
    Host.Outcome State Fault Refusal :=
  let a := addr.toNat
  if tilesWait s ((List.range tiles.length).map fun i => a + i * tileBytes) then turnedAway s
  else if (accept s c 0x24 (inCourt s c) = .go) ∧ tiles.any fun t => !wireOk t && !t.resent then
    -- a first failure asks for a copy reread from its source (R316)
    effect s fun s => s.send ⟨.session c.session.toNat, 0x02, [2 ^ 29], []⟩
  else hostCmd s c 0x24 (inCourt s c) fun s =>
    let w := hostWho s c
    if tiles = [] ∨ 2 < tiles.length then done s c 0x24 0x0C
    else if !aligned a then done (refuseUnaligned s w a) c 0x24 0x0C
    else
      let (s, bad) := (tiles.zip (List.range tiles.length)).foldl (fun (acc : State × Option Refused) e =>
        match acc with
        | (s, some r) => (s, some r)
        | (s, none) => putWire s w (a + e.2 * tileBytes) e.1) (s, none)
      match bad with
      | some _ => done s c 0x24 0x0C
      | none =>
        let n := (tiles.filter fun t => !wireOk t).length
        if n = 0 then done s c 0x24 0 else done s c 0x24 0x09 n

/-- Send one tile of a data read: header with the tag and address, the tile, its trailer; poison travels with it. -/
def sendTile (s : State) (c : HostHdr) (a : Nat) (bs : List Byte) (t : Trailer) : State :=
  s.send ⟨.session c.session.toNat, 0x25, [c.tag.toNat, a % 2 ^ 32, a / 2 ^ 32], bs ++ trailerBytes t⟩

/-- Read and send tiles in ascending order until one is refused; counts the poisoned ones. -/
def sendTiles (s : State) (c : HostHdr) (w : Who) (a n : Nat) : State × Option Refused × Nat :=
  (List.range n).foldl (fun (acc : State × Option Refused × Nat) i =>
    match acc with
    | (s, some r, k) => (s, some r, k)
    | (s, none, k) =>
      match readTile s w (a + i * tileBytes) with
      | (s, .refused r) => (s, some r, k)
      | (s, .data bs t) => (sendTile s c (a + i * tileBytes) bs t, none, k + t.poison.toNat)) (s, none, 0)

def execDataRead (c : HostHdr) (addr : Addr48) (count : BitVec 32) (s : State) : Host.Outcome State Fault Refusal :=
  let a := addr.toNat
  let n := count.toNat
  if n ≤ 65536 ∧ tilesWait s ((List.range n).map fun i => a + i * tileBytes) then turnedAway s
  else hostCmd s c 0x25 (inCourt s c) fun s =>
    let w := hostWho s c
    if n = 0 ∨ 65536 < n then done s c 0x25 0x0C
    else if !aligned a then done (refuseUnaligned s w a) c 0x25 0x0C
    else
      match sendTiles s c w a n with
      | (s, some _, _) => done s c 0x25 0x0C
      | (s, none, 0) => done s c 0x25 0
      | (s, none, k) => done s c 0x25 0x09 k

/-! ## Stage start (R219 to R221, R349) -/

/-- A region entry of a stage descriptor (Table 9.16). -/
structure StageRegion where
  region : Nat
  clusters : Nat
  entry : Nat
  image : Nat
  deriving DecidableEq, Repr

/-- A stage descriptor as read. -/
structure StageDesc where
  id : Nat
  court : Nat
  pbCount : Nat
  deadline : Nat
  pbTable : Nat
  a12 : List Nat
  regions : List StageRegion
  deriving DecidableEq, Repr

def zeroBytes (bs : List Byte) : Bool := bs.all (· == 0#8)

/-- Read a stage descriptor's 256 bytes; none where a mark, layout, count or reserved field is wrong (R219, R221). -/
def parseStage (bs : List Byte) : Option StageDesc :=
  let w := wordAt bs
  let n := bits (w 1) 11 8
  let entry (k : Nat) : StageRegion :=
    ⟨bits (w (16 + 4 * k)) 31 24, bits (w (16 + 4 * k)) 15 0, w (17 + 4 * k), w (18 + 4 * k) + w (19 + 4 * k) * 2 ^ 32⟩
  if bits (w 0) 31 8 = 0x57A601 ∧ bits (w 0) 7 0 = 0 ∧ 1 ≤ n ∧ n ≤ 8 ∧ bits (w 1) 7 0 ≤ 64
      ∧ w 3 = 0 ∧ bits (w 5) 31 16 = 0 ∧ (List.range 4).all (fun i => bits (w (7 + 2 * i)) 31 16 == 0)
      ∧ w 14 = 0 ∧ w 15 = 0 ∧ zeroBytes ((bs.drop (64 + 16 * n)).take (192 - 16 * n))
      ∧ (List.range n).all (fun k => bits (w (16 + 4 * k)) 23 16 == 0 && bits (w (19 + 4 * k)) 31 16 == 0) then
    some ⟨bits (w 1) 31 16, bits (w 1) 15 12, bits (w 1) 7 0, w 2, w 4 + w 5 * 2 ^ 32,
      (List.range 4).map fun i => w (6 + 2 * i) + w (7 + 2 * i) * 2 ^ 32, (List.range n).map entry⟩
  else none

/-- Read a pass-buffer descriptor's 64 bytes; none where a mark, layout or reserved field is wrong, or where an Ethernet
flow carries another class than 0x1 (13_fabric_and_collectives.md R310). -/
def parsePb (bs : List Byte) : Option PbDesc :=
  let w := wordAt bs
  let kind := bits (w 1) 15 14
  if w 0 = 0x9A550100 ∧ bits (w 1) 13 0 = 0 ∧ bits (w 3) 11 0 = 0 ∧ bits (w 4) 31 14 = 0 ∧ bits (w 5) 31 12 = 0
      ∧ bits (w 7) 31 18 = 0 ∧ (kind = 2 ∨ (w 6 = 0 ∧ w 7 = 0)) ∧ (kind ≠ 2 ∨ bits (w 6) 31 28 = 1)
      ∧ zeroBytes ((bs.drop 32).take 32) then
    some ⟨bits (w 1) 31 16, kind, bits (w 2) 31 16, bits (w 2) 15 8, bits (w 2) 7 0, bits (w 3) 31 16,
      bits (w 3) 15 12, (w 4 + 1) * 64, w 5 + 1, w 6, w 7⟩
  else none

/-- Does the kind of a buffer fit where its ends sit (R220)? -/
def kindFits (d : PbDesc) : Bool :=
  if d.prodDevice ≠ d.consDevice then d.kind == 2
  else if d.prodRegion / 8 = d.consRegion / 8 then d.kind == 0 else d.kind == 1

/-- code_count of a program image's header; none where it fails R217, names another court, or an unknown version. -/
def parseImage (bs : List Byte) (court : Nat) : Option Nat :=
  let w := wordAt bs
  if w 0 = 0xAB050100 ∧ w 1 = 0x01000000 ∧ w 3 = court * 2 ^ 28 ∧ zeroBytes ((bs.drop 16).take 48) then some (w 2) else none

/-- Why a stage start is not performed: a status and detail of Table 14.3. -/
abbrev StartErr := Nat × Nat

/-- A descriptor or header read for a start: refused gives RANGE, poisoned gives POISONED (R221). -/
def startRead (s : State) (w : Who) (a n : Nat) : State × Except StartErr (List Byte) :=
  match readSpan s w a n with
  | (s, .refused _) => (s, .error (0x0C, 0))
  | (s, .poisoned _) => (s, .error (0x09, 1))
  | (s, .bytes bs _) => (s, .ok bs)

/-- Read the pass-buffer descriptors of a stage. -/
def startPbs (s : State) (w : Who) (d : StageDesc) : State × Except StartErr (List PbDesc) :=
  (List.range d.pbCount).foldl (fun (acc : State × Except StartErr (List PbDesc)) i =>
    match acc with
    | (s, .error e) => (s, .error e)
    | (s, .ok ds) =>
      match startRead s w (d.pbTable + 64 * i) 64 with
      | (s, .error e) => (s, .error e)
      | (s, .ok bs) => match parsePb bs with
        | some p => (s, .ok (ds ++ [p]))
        | none => (s, .error (5, 1))) (s, .ok [])

/-- Read the image headers of a stage's regions: their code_counts. -/
def startImages (s : State) (w : Who) (d : StageDesc) : State × Except StartErr (List Nat) :=
  d.regions.foldl (fun (acc : State × Except StartErr (List Nat)) e =>
    match acc with
    | (s, .error x) => (s, .error x)
    | (s, .ok ns) =>
      match startRead s w e.image 64 with
      | (s, .error x) => (s, .error x)
      | (s, .ok bs) => match parseImage bs d.court with
        | some n => (s, .ok (ns ++ [n]))
        | none => (s, .error (5, 4))) (s, .ok [])

/-- A listed region is not held by the court, listed twice, above 31, or names an absent logical cluster (R221, R393). -/
def regionsBad (s : State) (d : StageDesc) (pbs : List PbDesc) : Bool :=
  d.regions.any (fun e => decide (31 < e.region) || s.courtOf e.region != some d.court
      || (maskBits 16 e.clusters).any fun c => (s.physOf e.region c).isNone)
    || !(decide (d.regions.map (·.region)).Nodup)
    || pbs.any (fun p => decide (31 < p.prodRegion) || decide (31 < p.consRegion))

/-- A started region's state (R221, R242). -/
def startRegion (s : State) (d : StageDesc) (desc : Nat) (pbs : List PbDesc) (e : StageRegion) (code : Nat) : State :=
  let a := (List.range 4).foldl (fun m i => KMap.set m 0#48 (12 + i) (BitVec.ofNat 48 ((d.a12[i]?).getD 0))) []
  let s := s.updRegion e.region fun x =>
    { x with
      started := true, halted := false, stopped := false, stageId := d.id, stageDesc := desc, image := e.image
      codeCount := code, clusters := BitVec.ofNat 16 e.clusters, pbs := pbs
      main := { Prog.init with pc := e.entry, a := a }, task := .init, taskRunning := false, bench := []
      enqueued := 0, completedTasks := 0, stream := none, waits := [], heldAt := none }
  let s := s.setFld (Page.rg e.region) F.RG_STATUS_held 0
  s.setFld (Page.rg e.region) F.RG_DEADLINE_deadline_us d.deadline

/-- The checks of a stage start in the order descriptor, region, pass-buffer kind, image, entry, space. (DESIGN CHOICE, notes/assumptions/65.md) -/
def startCheck (s : State) (w : Who) (n desc : Nat) :
    State × Except StartErr (StageDesc × List PbDesc × List Nat) :=
  match startRead s w desc 256 with
  | (s, .error e) => (s, .error e)
  | (s, .ok bs) =>
    match parseStage bs with
    | none => (s, .error (5, 1))
    | some d =>
      if d.court ≠ n then (s, .error (5, 1))
      else match startPbs s w d with
      | (s, .error e) => (s, .error e)
      | (s, .ok pbs) =>
        if regionsBad s d pbs then (s, .error (5, 2))
        else if d.regions.any fun e => (s.region e.region).started then (s, .error (4, 0))
        else if !(pbs.all kindFits) then (s, .error (5, 3))
        else match startImages s w d with
        | (s, .error e) => (s, .error e)
        | (s, .ok codes) =>
          if (d.regions.zip codes).any fun e => decide (e.2 ≤ e.1.entry) then (s, .error (5, 5))
          else if (reserveBufs s pbs).isNone then (s, .error (6, 0))
          else (s, .ok (d, pbs, codes))

/-- COURT_STEP and stage count as shown on the COURT page are views; the stage joins the running ones. -/
def startStage (s : State) (c : HostHdr) (desc : Nat) (d : StageDesc) (pbs : List PbDesc) (codes : List Nat) : State :=
  let s := (reserveBufs s pbs).getD s
  let s := forEach (d.regions.zip codes) s fun s e => startRegion s d desc pbs e.1 e.2
  let s := { s with stages := s.stages ++ [⟨d.court, d.id, desc, d.regions.map (·.region)⟩] }
  let s := forEach pbs s grantCredit
  done s c 0x26 0 0 [d.id]

def execStageStart (c : HostHdr) (addr : Addr48) (s : State) : Host.Outcome State Fault Refusal :=
  hostCmd s c 0x26 true fun s =>
    let n := c.court.toNat
    match startCheck s ⟨some n, 1, 3⟩ n addr.toNat with
    | (s, .error (st, dt)) => done s c 0x26 st dt
    | (s, .ok (d, pbs, codes)) => startStage s c addr.toNat d pbs codes

/-- Every region of a stage has halted and its instructions and bench tasks have completed (R351). -/
def stageFinished (s : State) (t : Stage) : Bool :=
  t.regions.all fun r => (s.region r).halted && !regionWork s r

/-- A stage ends: its regions run none, its buffers lose one of their two stages and are released when both have ended. -/
def endStage (s : State) (t : Stage) : State :=
  let s := forEach t.regions s fun s r => s.updRegion r fun x => { x with started := false }
  let ours (b : PassBuf) : Nat :=
    (t.regions.contains b.desc.prodRegion).toNat + (t.regions.contains b.desc.consRegion).toNat
  let sides (b : PassBuf) : Nat := if b.desc.kind = 2 then 1 else 2
  let left := (s.pbufs.map fun b => { b with ended := b.ended + ours b }).filter fun b => decide (b.ended < sides b)
  let s := { s with pbufs := left }
  { s with stages := s.stages.filter fun u => u != t }

def execStageDone (court : BitVec 4) (stageId : BitVec 16) (s : State) : Host.Outcome State Fault Refusal :=
  match s.stages.find? fun t => t.court == court.toNat && t.id == stageId.toNat with
  | none => turnedAway s
  | some t =>
    if stageFinished s t then
      effect s fun s =>
        let st := heldStep s t.court
        notice (endStage s t) (some t.court) 1 [t.id, st % 2 ^ 32, st / 2 ^ 32]
    else turnedAway s

/-! ## Steps (R350) -/

def setHeldStep (s : State) (n v : Nat) : State :=
  s.setFld48 (Page.court n) F.COURT_STEP_LO_step F.COURT_STEP_HI_step v

def committedStep (s : State) (n : Nat) : Nat :=
  s.fld48 (Page.court n) F.COURT_COMMIT_LO_step F.COURT_COMMIT_HI_step

def stale (s : State) (c : HostHdr) : State :=
  done (note s (Page.court c.court.toNat) Err.court_step_stale) c 0x27 0x0A

def execStep (c : HostHdr) (step : BitVec 48) (s : State) : Host.Outcome State Fault Refusal :=
  hostCmd s c 0x27 true fun s =>
    let n := c.court.toNat
    if heldStep s n < step.toNat then done (setHeldStep s n step.toNat) c 0x27 0 else stale s c

/-- Does a region still issue, so that a redo is BUSY: not stopped, held, quiesced, in wait_step, or in no stage? -/
def stillIssues (s : State) (r : Nat) : Bool :=
  let x := s.region r
  x.started && !x.stopped && !isHeld s r && !regionQuiesced s r && !x.main.waiting

def execStepRedo (c : HostHdr) (step : BitVec 48) (s : State) : Host.Outcome State Fault Refusal :=
  hostCmd s c 0x27 true fun s =>
    let n := c.court.toNat
    let v := step.toNat
    if v ≤ committedStep s n ∨ heldStep s n < v then stale s c
    else if (s.regionsOf n).any (stillIssues s) then done s c 0x27 2
    else
      let s := setHeldStep s n v
      let s := forEach (s.regionsOf n) s fun s r => updProg s r false fun p => { p with step := BitVec.ofNat 48 (v - 1) }
      done s c 0x27 0

/-! ## Quiesce and resume (R352) -/

/-- QUIESCE sets quiesce on the court's pages and withdraws its waiting wait_steps; it completes by QUIESCE_DONE. -/
def execQuiesce (c : HostHdr) (s : State) : Host.Outcome State Fault Refusal :=
  hostCmd s c 0x28 true fun s =>
    let n := c.court.toNat
    let s := forEach (s.regionsOf n) s fun s r => withdrawWait (setQuiesce s r true) r
    { s with cmds := s.cmds ++ [cmdOf c 0x28] }

def courtQuiesced (s : State) (n : Nat) : Bool := (s.regionsOf n).all (regionQuiesced s)

/-- The pages of a court's regions read quiesced, and the quiesce completes (R47, R352). -/
def execQuiesceDone (court : BitVec 4) (s : State) : Host.Outcome State Fault Refusal :=
  let n := court.toNat
  let mine (k : HostCmd) : Bool := k.court == n && k.typ == 0x28
  if courtQuiesced s n && s.cmds.any mine then
    effect s fun s =>
      let fin := s.cmds.filter mine
      let s := { s with cmds := s.cmds.filter fun k => !mine k }
      forEach fin s fun s k => complete s k 0 0 0 []
  else turnedAway s

def execResume (c : HostHdr) (s : State) : Host.Outcome State Fault Refusal :=
  hostCmd s c 0x28 true fun s =>
    done (forEach (s.regionsOf c.court.toNat) s fun s r => setQuiesce s r false) c 0x28 0

/-! ## Abort and region resume (R355, R356, R359) -/

/-- Does a court run a stage or hold a command in progress (R356)? -/
def courtActive (s : State) (n : Nat) : Bool :=
  courtStages s n != [] || s.cmds.any fun k => k.court == n

def stepWords (v : Nat) : List Nat := [v % 2 ^ 32, v / 2 ^ 32]

def execAbortCourt (c : HostHdr) (s : State) : Host.Outcome State Fault Refusal :=
  hostCmd s c 0x2B true fun s =>
    let n := c.court.toNat
    let last := committedStep s n
    if courtActive s n then complete (abortCourt s n 1 0) (cmdOf c 0x2B) 0 0 1 (stepWords last)
    else
      let s := s.setFld (Page.court n) F.COURT_LAST_ABORT_winner 2
      let s := s.setFld (Page.court n) F.COURT_LAST_ABORT_cause 1
      complete (s.setFld (Page.court n) F.COURT_LAST_ABORT_code 0) (cmdOf c 0x2B) 0 0 2 (stepWords last)

/-- A command in progress is a quiesce: discarded before its completion, its quiesce is withdrawn. (DESIGN CHOICE, notes/assumptions/66.md) -/
def execAbortCommand (c : HostHdr) (tag : BitVec 16) (s : State) : Host.Outcome State Fault Refusal :=
  hostCmd s c 0x2B false fun s =>
    let mine (k : HostCmd) : Bool := k.session == c.session.toNat && k.tag == tag.toNat
    if s.cmds.any mine then
      let fin := s.cmds.filter mine
      let s := forEach fin s fun s k => forEach (s.regionsOf k.court) s fun s r => setQuiesce s r false
      complete (abortCmds s mine) (cmdOf c 0x2B) 0 0 1 []
    else complete s (cmdOf c 0x2B) 0 0 3 []

/-- Clear held and stopped, with a fresh timer for a wait that still stands (R243, R359). -/
def clearHold (s : State) (r : Nat) : State :=
  let d := s.fld (Page.rg r) F.RG_DEADLINE_deadline_us
  let s := s.updRegion r fun x =>
    { x with stopped := false, heldAt := none
             waits := x.waits.map fun w => if w.age = 0 then w else { w with age := 0, deadline := d } }
  s.setFld (Page.rg r) F.RG_STATUS_held 0

/-- Restart the held program, or the main program, at an address; a wait at its old place is dropped. -/
def resumeAt (s : State) (r addr : Nat) : State :=
  let x := s.region r
  let task := match x.heldAt with
    | some (t, _) => t
    | none => false
  let pc := (progOf x task).pc
  let s := s.updRegion r fun x => { x with waits := x.waits.filter fun w => !(w.task == task && w.addr == pc) }
  updProg (clearHold s r) r task fun p => { p with pc := addr }

def execRegionResume (c : HostHdr) (region : BitVec 5) (atAddr : Bool) (addr : BitVec 32) (s : State) :
    Host.Outcome State Fault Refusal :=
  let r := region.toNat
  hostCmd s c 0x2C true fun s =>
    let x := s.region r
    if s.courtOf r ≠ some c.court.toNat ∨ (!isHeld s r ∧ !x.stopped) then done s c 0x2C 4
    else if atAddr ∧ x.codeCount ≤ addr.toNat then done s c 0x2C 0x0C
    else done (if atAddr then resumeAt s r addr.toNat else clearHold s r) c 0x2C 0

end Sys2Proof.Machine
end

