-- ==== Sys2Proof/Machine/RegAccess.lean ====
section
/-! DEFINITION. Register accesses: permission by path and context, the completion statuses, refusals and their error bits,
and the reply (02_register_pages.md R53 to R58, Tables 2.11 and 2.12; 13_fabric_and_collectives.md R317). -/

namespace Sys2Proof.Machine

/-! Completion statuses of a register access (Table 2.12). -/
namespace RegStatus
def ok : Nat := 0
def unmapped : Nat := 1
def denied : Nat := 2
def locked : Nat := 3
def retired : Nat := 4
def misaligned : Nat := 5
def range : Nat := 6
def court : Nat := 7
end RegStatus

/-- Is the page at an offset mapped? In recovery only PKG, MC, FLASH, SM and SP are (19_firmware_and_trust.md R452). -/
def mapped (s : State) (off : Nat) : Bool :=
  match pageAt off with
  | none => false
  | some (b, _) =>
    if s.fld Page.pkg F.PKG_BOOT_boot_phase = 4 then
      match b with
      | .pkg => true | .mc => true | .flash => true | .sm => true | .sp => true
      | _ => false
    else true

/-- The court a path acts for; none in device context and on the other paths. -/
def pathCourt : RegPath → Option Nat
  | .host _ (some n) => some n.toNat
  | _ => none

/-- A court-scope session may name its own context only (R342). -/
def contextOk (s : State) : RegPath → Bool
  | .host k c =>
    let x := s.session k.toNat
    x.device || c.map BitVec.toNat == some x.court
  | _ => true

/-- Court rules for a page in context n (R55): none where the page is the court's own; otherwise the refusal. -/
def courtRefusal (s : State) (b : Block) (page n : Nat) : Option (Nat × Nat) :=
  if b.courtScoped then
    match pageCourt s page with
    | some m => if m = n then none else some (RegStatus.court, Err.courtViolation)
    | none => some (RegStatus.denied, Err.accessDenied)
  else some (RegStatus.denied, Err.accessDenied)

/-- May the path write the register (Table 2.11)? The refusal names its status and error bit. -/
def writeRefusal (s : State) (p : RegPath) (off : Nat) : Option (Nat × Nat) :=
  match pageAt off with
  | none => some (RegStatus.unmapped, 0)
  | some (b, _) =>
    let page := off / 0x1000 * 0x1000
    let o := off % 0x1000
    let deny := some (RegStatus.denied, Err.accessDenied)
    if !contextOk s p then deny
    else match p with
    | .host _ none => if b.serviceOnly && decide (0x40 ≤ o) then deny else none
    | .host _ (some n) =>
      match courtRefusal s b page n.toNat with
      | some r => some r
      | none =>
        if b = .court then (if o = 0x58 then deny else none)
        else if 0x40 ≤ o ∨ o = 0x10 ∨ o = 0x18 ∨ o = 0x1C then none else deny
    | .sideband => if b = .sb then none else deny
    | _ => none

/-- May the path read the register (Table 2.11)? -/
def readRefusal (s : State) (p : RegPath) (off : Nat) : Option (Nat × Nat) :=
  match pageAt off with
  | none => some (RegStatus.unmapped, 0)
  | some (b, _) =>
    let page := off / 0x1000 * 0x1000
    if !contextOk s p then some (RegStatus.denied, Err.accessDenied)
    else if off % 0x1000 < 0x40 then none
    else match p with
    | .host _ (some n) => courtRefusal s b page n.toNat
    | .sideband => if b.sidebandVisible then none else some (RegStatus.denied, Err.accessDenied)
    | _ => none

/-- An access to an unmapped page is counted as unmapped-access, in the key of its context (Table 2.12). -/
def noteUnmapped (s : State) (p : RegPath) (off : Nat) : State :=
  noteDevice s 0xF005 0 { page := 0, court := pathCourt p, mag := off }

/-- Can the path reach the registers at all now: H once the package is ready and its session is open; SP from the service
phase on, while its link stands; the sideband from then on but in recovery (20_package_and_pins.md R482); the management core
while its rail stands; the TAP while DBG_CTL.tap_regs is 1? -/
def pathUp (s : State) : RegPath → Bool
  | .host k _ => isReady s && (s.session k.toNat).isOpen
  | .sp _ => s.fld Page.pkg F.PKG_BOOT_boot_phase != 0 && !s.board.spDown
  | .sideband => s.fld Page.pkg F.PKG_BOOT_boot_phase != 0 && s.fld Page.pkg F.PKG_BOOT_boot_phase != 4
  | .mc => s.board.aux
  | .tap => s.board.aux && s.fld Page.dbg F.DBG_CTL_tap_regs == 1

/-- SP accepts requests from within SP_ALLOW only (19_firmware_and_trust.md R466). -/
def spAdmits (s : State) : RegPath → Bool
  | .sp a => prefixAdmits (s.fld Page.sp F.SP_ALLOW_LEN_length) (fun i => s.fld Page.sp F.SP_ALLOW_prefix i) a
  | _ => true

/-- The completion of a register access on its path (Table 13.4). -/
def regReply (s : State) (h : RegHdr) (status failOff : Nat) (data : List Nat) : State :=
  let dest := match h.path with
    | .host k _ => Dest.session k.toNat
    | .sp _ => Dest.servicePort
    | .sideband => Dest.sideband
    | .mc => Dest.device 0
    | .tap => Dest.tap
  match h.path with
  | .mc => s
  | _ => s.send ⟨dest, 0x11, [h.tag.toNat, status * 2 ^ 28 + if status = RegStatus.ok then 0 else failOff % 4096] ++ data, []⟩

/-- A write refused before it touches the register: its status and error. -/
def refuseWrite (s : State) (p : RegPath) (off : Nat) (r : Nat × Nat) : State :=
  if r.1 = RegStatus.unmapped then noteUnmapped s p off else note s (off / 0x1000 * 0x1000) r.2

/-- The check of a write before its register acts: alignment, mapping, permission, retirement (R54 to R58). -/
def writeCheck (s : State) (p : RegPath) (off : Nat) : Option (Nat × Nat) :=
  if off % 4 ≠ 0 then some (RegStatus.misaligned, 0)
  else if !mapped s off then some (RegStatus.unmapped, 0)
  else match writeRefusal s p off with
    | some r => some r
    | none =>
      if 0x40 ≤ off % 0x1000 ∧ s.pageRetired (off / 0x1000 * 0x1000) then some (RegStatus.retired, Err.retiredAccess)
      else none

/-- Apply a refusal: MISALIGNED sets no bit. -/
def applyRefusal (s : State) (p : RegPath) (off : Nat) (r : Nat × Nat) : State :=
  if r.1 = RegStatus.misaligned then s else refuseWrite s p off r

/-- The refusals of a write before its register acts; none where it may act. -/
def regRefused (s : State) (h : RegHdr) (off : Nat) : Option (State → State) :=
  if !spAdmits s h.path then some fun s => note s Page.sp Err.sp_sp_refused
  else match writeCheck s h.path off with
    | some r => some fun s => regReply (applyRefusal s h.path off r) h r.1 off []
    | none => none

/-- A command that is the write of one register: refused with its status, or the register's action and its status. -/
def regCommand (s : State) (h : RegHdr) (off : Nat) (body : State → State × Nat) : Host.Outcome State Fault Refusal :=
  if !pathUp s h.path then turnedAway s
  else match regRefused s h off with
    | some f => effect s f
    | none => effect s fun s =>
        let (s, st) := body s
        regReply s h st off []

/-- The same for a write that resets the package where it is accepted; `body` answers none where it refuses. -/
def resetCommand (s : State) (h : RegHdr) (off : Nat) (body : State → Option State) : Host.Outcome State Fault Refusal :=
  if !pathUp s h.path then turnedAway s
  else match regRefused s h off with
    | some f => effect s f
    | none =>
      match body (regReply s h RegStatus.ok off []) with
      | some t => effectReset s fun _ => t
      | none => effect s fun s => regReply s h RegStatus.denied off []

end Sys2Proof.Machine
end

