-- ==== Sys2Proof/Machine/Scorecard.lean ====
section
/-! DEFINITION. The Scorecard's window and cursor, its rate tokens and its save (17_scorecard_and_counters.md R415 to R418,
Tables 17.2 and 17.3). -/

namespace Sys2Proof.Machine

/-- An extreme entry as 64 bytes (Table 17.3). -/
def extremeBytes (e : Extreme) : List Byte :=
  wordBytes ([e.magnitude, (if e.capture = [] then 0 else 2 ^ 31) + e.page % 2 ^ 24, e.huddle % 2 ^ 32, e.huddle / 2 ^ 32,
    e.uptime, 0, 0, 0] ++ (e.detail ++ List.replicate 8 0).take 8)

/-- A capture slot of 192 bytes. -/
def captureBytes (e : Extreme) : List Byte := (e.capture ++ List.replicate 192 0#8).take 192

/-- A record as 640 bytes (Table 17.2). A free record is all zero. -/
def recordBytes (r : ScRec) : List Byte :=
  if !r.valid then List.replicate 640 0#8
  else
    wordBytes ([r.code * 65536 + r.court * 4096 + r.courtValid.toNat * 2048 + r.severity * 256 + 1,
      r.count % 2 ^ 32, r.count / 2 ^ 32, r.suppressed, r.seq, r.firstUptime, r.lastUptime,
      r.firstHuddle % 2 ^ 32, r.firstHuddle / 2 ^ 32, r.lastHuddle % 2 ^ 32, r.lastHuddle / 2 ^ 32, 0, 0, 0, 0, 0])
    ++ (List.range 32).flatMap (fun b => leBytes 2 (KMap.get r.hist 0 b))
    ++ extremeBytes r.min ++ extremeBytes r.max ++ captureBytes r.min ++ captureBytes r.max

def scRecord' (s : State) (i : Nat) : ScRec := KMap.get s.score .free i

/-- Load a record into the window: SC_WIN_STAT and the 160 words of SC_WINDOW (R416). -/
def loadWindow (s : State) (i : Nat) (valid : Bool) : State :=
  let bs := recordBytes (if valid then scRecord' s i else .free)
  let s := s.setFld Page.sc F.SC_WIN_STAT_valid valid.toNat
  let s := s.setFld Page.sc F.SC_WIN_STAT_index i
  forEach (List.range 160) s fun s k => s.setReg (Page.sc + 0x400 + 4 * k) (BitVec.ofNat 32 (wordAt bs k))

/-- Valid records, PAGE_STATUS.used. -/
def scUsed (s : State) : Nat := (s.score.filter fun e => e.2.valid).length

/-- cmd 0: the record at an index. -/
def scLoadIndex (s : State) (i : Nat) : State × Nat := (loadWindow s i (scRecord' s i).valid, RegStatus.ok)

/-- cmd 1: the first valid record after an index, in ascending order, continuing from 0 and ending at the index itself. -/
def scLoadNext (s : State) (i : Nat) : State × Nat :=
  match ((List.range 512).map fun k => (i + 1 + k) % 512).find? fun k => (scRecord' s k).valid with
  | some k => (loadWindow s k true, RegStatus.ok)
  | none => (loadWindow s i false, RegStatus.ok)

/-- cmd 2: the record whose key matches SC_KEY. -/
def scLoadKey (s : State) : State × Nat :=
  let code := s.fld Page.sc F.SC_KEY_code
  let court := s.fld Page.sc F.SC_KEY_court
  let cv := s.fld Page.sc F.SC_KEY_court_valid == 1
  match scFind s fun r => r.code == code && r.courtValid == cv && (!cv || r.court == court) with
  | some i => (loadWindow s i true, RegStatus.ok)
  | none => (loadWindow s 0 false, RegStatus.ok)

/-- cmd 3: clear the record at an index. -/
def scClearRecord (s : State) (i : Nat) : State × Nat :=
  ({ s with score := KMap.set s.score .free i .free }, RegStatus.ok)

/-- cmd 4: clear every record, SC_LOST and SC_EVICTED. -/
def scClearAll (s : State) : State × Nat :=
  (({ s with score := [] } : State).setFld Page.sc F.SC_LOST_count 0 |>.setFld Page.sc F.SC_EVICTED_count 0, RegStatus.ok)

/-- The write of SC_CURSOR (R416): go 0 does nothing; a cmd above 4 is ignored with RANGE. (DESIGN CHOICE, notes/assumptions/139.md) -/
def scCursor (s : State) (v : Nat) : State × Nat :=
  if !bit v 31 then (s, RegStatus.ok)
  else
    let i := bits v 8 0
    match bits v 18 16 with
    | 0 => scLoadIndex s i
    | 1 => scLoadNext s i
    | 2 => scLoadKey s
    | 3 => scClearRecord s i
    | 4 => scClearAll s
    | _ => (s, RegStatus.range)

def scCursorOff : Nat := Page.sc + 0x40

def execScLoadIndex (h : RegHdr) (i : BitVec 9) (s : State) : Host.Outcome State Fault Refusal :=
  regCommand s h scCursorOff fun s => scLoadIndex s i.toNat

def execScLoadNext (h : RegHdr) (i : BitVec 9) (s : State) : Host.Outcome State Fault Refusal :=
  regCommand s h scCursorOff fun s => scLoadNext s i.toNat

def execScLoadKey (h : RegHdr) (s : State) : Host.Outcome State Fault Refusal := regCommand s h scCursorOff scLoadKey

def execScClearRecord (h : RegHdr) (i : BitVec 9) (s : State) : Host.Outcome State Fault Refusal :=
  regCommand s h scCursorOff fun s => scClearRecord s i.toNat

def execScClearAll (h : RegHdr) (s : State) : Host.Outcome State Fault Refusal := regCommand s h scCursorOff scClearAll

/-- The store image (R418): a 64-byte header with mark, layout, SC_SEQ and device ID, then the 512 records. -/
def scImage (s : State) : List Byte :=
  wordBytes ([0x5C0D0100, s.fld Page.sc F.SC_SEQ_seq, deviceId s] ++ List.replicate 13 0)
    ++ (List.range 512).flatMap fun i => recordBytes (scRecord' s i)

/-- SC_CMD.save: the image of this moment is taken, and SC_SAVE_STAT reads busy until it is written (R418). -/
def scSave (s : State) : State × Nat :=
  (({ s with saving := some (scImage s) } : State).setFld Page.sc F.SC_SAVE_STAT_state 1, RegStatus.ok)

def execScSave (h : RegHdr) (s : State) : Host.Outcome State Fault Refusal := regCommand s h (Page.sc + 0x88) scSave

/-- Place the saved image in flash, over the older of its two copies (19_firmware_and_trust.md R445). -/
def storeScImage (s : State) (bs : List Byte) : State :=
  { s with flash := { s.flash with scoreOld := s.flash.scoreNew, scoreNew := bs } }

/-- The image finishes writing: done, or failed where the flash reported an error (R418). -/
def execScSaveDone (failed : Bool) (s : State) : Host.Outcome State Fault Refusal :=
  match s.saving with
  | none => turnedAway s
  | some bs => effect s fun s =>
      let s := { s with saving := none }
      if failed then s.setFld Page.sc F.SC_SAVE_STAT_state 3
      else (storeScImage s bs).setFld Page.sc F.SC_SAVE_STAT_state 2

/-- A code's bucket gains one token, up to its burst; a per_min of 0 adds none (R415). (DESIGN CHOICE, notes/assumptions/134.md) -/
def execRateTokenTick (code : BitVec 16) (s : State) : Host.Outcome State Fault Refusal :=
  let k := code.toNat
  let used := KMap.get s.spent 0 k
  if (rateOf s k (severityOf k)).2 = 0 then turnedAway s
  else effect s fun s => { s with spent := KMap.set s.spent 0 k (used - 1) }

end Sys2Proof.Machine
end

