-- ==== Sys2Proof/Machine/SolverMath.lean ====
section
/-! DEFINITION. The solver engine's binary64 arithmetic, its pivot policy, dense Cholesky and QR, the Schur complement and
the parts of the conjugate gradient (15_solver_engine.md R363, R372 to R375). -/

namespace Sys2Proof.Machine

/-! ## binary64 operations on bit patterns, each rounded once under RNE (R363) -/

def d64 (v : XNum) : Nat := (fp64.round .rne 0 false v).1
def num64 (x : Nat) : XNum := fp64.decode x
/-- An FP32 value widened exactly. -/
def widen64 (x : Nat) : Nat := d64 (fp32.decode x)
def dadd (a b : Nat) : Nat := d64 ((num64 a).add (num64 b)).1
def dsub (a b : Nat) : Nat := d64 ((num64 a).sub (num64 b)).1
def dmul (a b : Nat) : Nat := d64 ((num64 a).mul (num64 b)).1
def ddiv (a b : Nat) : Nat := d64 ((num64 a).div (num64 b)).1
def dsqrt (a : Nat) : Nat := d64 (num64 a).sqrt.1
def dfma (a b c : Nat) : Nat := d64 (XNum.fma (num64 a) (num64 b) (num64 c)).1
/-- c − a·b by one fma64. -/
def dfnma (a b c : Nat) : Nat := d64 (XNum.fma (num64 a).neg (num64 b) (num64 c)).1
def dzero (a : Nat) : Bool := (num64 a).isZero
def d1 : Nat := 0x3FF0000000000000
def dnan : Nat := fp64.canonNan

/-- Σ xᵢ·yᵢ in ascending order, each term by one fma64. -/
def ddot (xs ys : List Nat) : Nat := (xs.zip ys).foldl (fun acc e => dfma e.1 e.2 acc) 0
/-- c − Σ xᵢ·yᵢ in ascending order. -/
def ddown (c : Nat) (xs ys : List Nat) : Nat := (xs.zip ys).foldl (fun acc e => dfnma e.1 e.2 acc) c
/-- The same, skipping every term whose coefficient xᵢ is exactly zero in native mode (R375). -/
def ddownSkip (compat : Bool) (c : Nat) (xs ys : List Nat) : Nat :=
  (xs.zip ys).foldl (fun acc e => if !compat && dzero e.1 then acc else dfnma e.1 e.2 acc) c
def dnorm (xs : List Nat) : Nat := dsqrt (ddot xs xs)

/-- The pivot registers that govern a job: compatibility mode, τ and λ (R375). -/
structure PivotCtl where
  compat : Bool
  tauExp : Nat
  lambda : Nat
  deriving DecidableEq, Repr

/-- The policy's outcome for a column: the value under the root, and 0 as is, 1 singular, 2 regularised (Table 15.4a). -/
def pivotOf (c : PivotCtl) (d g : Nat) : Nat × Nat :=
  let lam := widen64 c.lambda
  if (num64 d).le .zero then
    if c.compat then (lam, 2)
    else (d, 1)
  else if c.compat && (num64 d).le (XNum.scale (num64 g) (-(c.tauExp : Int))) then (dadd d lam, 2)
  else (d, 0)

/-- A matrix of binary64 bits by rows. -/
abbrev DMat := List (List Nat)
def dAt (m : DMat) (i j : Nat) : Nat := (m.getD i []).getD j 0

/-- A factor: the columns of L from the diagonal's zeros on, whole, the singular columns, and the regularised count. -/
structure Factor where
  cols : DMat
  singular : List Nat
  regularised : Nat
  deriving DecidableEq, Repr

/-- The next column of Cholesky: `g` is the symmetric matrix of n rows, `j` the column. -/
def cholCol (c : PivotCtl) (g : DMat) (n : Nat) (f : Factor) (j : Nat) : Factor :=
  let row (i : Nat) : List Nat := f.cols.map fun col => col.getD i 0
  let rj := row j
  let (p, out) := pivotOf c (ddown (dAt g j j) rj rj) (dAt g j j)
  if out = 1 then
    { f with cols := f.cols ++ [(List.range n).map fun i => if i = j then d1 else 0], singular := f.singular ++ [j] }
  else
    let l := dsqrt p
    let col := (List.range n).map fun i =>
      if i < j then 0 else if i = j then l else ddiv (ddown (dAt g i j) (row i) rj) l
    { f with cols := f.cols ++ [col], regularised := f.regularised + (if out = 2 then 1 else 0) }

/-- The first k columns of the Cholesky factor of an n × n matrix. -/
def cholesky (c : PivotCtl) (g : DMat) (n k : Nat) : Factor := (List.range k).foldl (cholCol c g n) ⟨[], [], 0⟩

/-- Ly = h over the factored columns: yⱼ is NaN at a singular column. -/
def forwardSolve (c : PivotCtl) (f : Factor) (h : List Nat) : List Nat :=
  (List.range f.cols.length).foldl (fun y j =>
    if f.singular.contains j then y ++ [dnan]
    else
      let row := f.cols.map fun col => col.getD j 0
      y ++ [ddiv (ddownSkip c.compat (h.getD j 0) (row.take j) y) ((f.cols.getD j []).getD j 0)]) []

/-- Lᵀx = y over the factored columns. -/
def backSolve (c : PivotCtl) (f : Factor) (y : List Nat) : List Nat :=
  let k := f.cols.length
  (List.range k).foldl (fun x i =>
    let j := k - 1 - i
    let col := f.cols.getD j []
    ddiv (ddownSkip c.compat (y.getD j 0) ((col.take k).drop (j + 1)) x) (col.getD j 0) :: x) []

/-- What a dense solve leaves: x, the singular columns, the regularised count. -/
structure DSolve where
  x : List Nat
  singular : Nat
  regularised : Nat
  deriving DecidableEq, Repr

/-- G x = h by Cholesky (R372). -/
def solveChol (c : PivotCtl) (g : DMat) (h : List Nat) : DSolve :=
  let n := h.length
  let f := cholesky c g n n
  ⟨backSolve c f (forwardSolve c f h), f.singular.length, f.regularised⟩

/-- AᵀA + μI and Aᵀb over rows ascending; `cols` are the columns of A (R363, R372). (DESIGN CHOICE, notes/assumptions/106.md) -/
def gram (cols : DMat) (mu : Nat) : DMat :=
  (cols.zip (List.range cols.length)).map fun a =>
    (cols.zip (List.range cols.length)).map fun b =>
      let v := ddot a.1 b.1
      if a.2 = b.2 then dadd v mu else v

def denseChol (c : PivotCtl) (cols : DMat) (b : List Nat) (mu : Nat) : DSolve :=
  solveChol c (gram cols mu) (cols.map fun a => ddot a b)

/-- One Householder step on columns from j on: the reflected columns with their rows from j on, the rows of R so far, the
entries of Qᵀb, and the pivots' outcomes. -/
structure QrState where
  cols : DMat
  rhs : List Nat
  r : DMat
  y : List Nat
  singular : Nat
  regularised : Nat
  deriving DecidableEq, Repr

def qrStep (c : PivotCtl) (mu : Nat) (orig : DMat) (q : QrState) (j : Nat) : QrState :=
  let v := q.cols.headD []
  let rest := q.cols.drop 1
  let a := orig.getD j []
  let (p, out) := pivotOf c (ddot v v) (dadd (ddot a a) mu)
  if out = 1 then
    { q with
      cols := rest.map (·.drop 1), rhs := q.rhs.drop 1
      r := q.r ++ [d1 :: rest.map fun _ => 0], y := q.y ++ [dnan], singular := q.singular + 1 }
  else
    let root := dsqrt p
    let cs := rest.map (Config.reflect v root)
    let b := Config.reflect v root q.rhs
    { q with
      cols := cs.map (·.drop 1), rhs := b.drop 1
      r := q.r ++ [root :: cs.map (·.headD 0)], y := q.y ++ [b.headD 0]
      regularised := q.regularised + (if out = 2 then 1 else 0) }

/-- Householder QR of [A; √μ I] with Qᵀ[b; 0], and Rx by back substitution (R372). -/
def denseQr (c : PivotCtl) (cols : DMat) (b : List Nat) (mu : Nat) : DSolve :=
  let n := cols.length
  let sm := dsqrt mu
  let full := (cols.zip (List.range n)).map fun e => e.1 ++ (List.range n).map fun i => if i = e.2 then sm else 0
  let q := (List.range n).foldl (qrStep c mu cols) ⟨full, b ++ List.replicate n 0, [], [], 0, 0⟩
  let x := (q.r.zip q.y).foldr (fun e x => ddiv (ddownSkip c.compat e.2 (e.1.drop 1) x) (e.1.headD 0) :: x) []
  ⟨x, q.singular, q.regularised⟩

/-! ## Delivered components (R363, R375) -/

/-- A component as FP32, and whether row 4 of Table 15.4a applies. A NaN that a singular column left is not counted there:
`affected` says the problem has one. -/
def deliverX (compat affected : Bool) (x : Nat) : Nat × Bool :=
  match num64 x with
  | .nan _ =>
    if affected && !compat then (fp32.canonNan, false)
    else (if compat then fp32.maxBits false else fp32.canonNan, true)
  | v =>
    let r := (fp32.round .rne 0 false v).1
    if (fp32.decode r).isFinite then (r, false)
    else (if compat then fp32.maxBits v.signOf else fp32.canonNan, true)

/-! ## Sparse systems (R367, R373) -/

/-- The row of a residual block over all unknowns as (column, value) pairs: `offs` and `sizes` by block index. -/
def blockRow (offs sizes : List Nat) (rows : Nat) (coupled jac : List Nat) (r : Nat) : List (Nat × Nat) :=
  (coupled.foldl (fun (acc : List (Nat × Nat) × List Nat) i =>
    let s := sizes.getD i 0
    (acc.1 ++ (((acc.2.drop (r * s)).take s).zip (List.range s)).map fun e => (offs.getD i 0 + e.2, widen64 e.1),
      acc.2.drop (rows * s))) ([], jac)).1

def seRowAt (row : List (Nat × Nat)) (c : Nat) : Option Nat := (row.find? fun e => e.1 == c).map (·.2)

/-- JᵀJ + μI and Jᵀr by assembly in residual-block order: rows with their residual value, ascending (R363, R373). -/
def assemble (n : Nat) (rows : List (List (Nat × Nat) × Nat)) (mu : Nat) : DMat × List Nat :=
  let entry (a b : Nat) : Nat :=
    let v := rows.foldl (fun acc e => match seRowAt e.1 a, seRowAt e.1 b with
      | some x, some y => dfma x y acc
      | _, _ => acc) 0
    if a = b then dadd v mu else v
  let rhs (a : Nat) : Nat := rows.foldl (fun acc e => match seRowAt e.1 a with
    | some x => dfma x e.2 acc
    | none => acc) 0
  ((List.range n).map fun a => (List.range n).map (entry a), (List.range n).map rhs)

/-- The eliminated part of a sparse system: its factor over all rows, y of the eliminated unknowns, S and h_s (R373). -/
structure Schur where
  f : Factor
  y : List Nat
  s : DMat
  h : List Nat
  deriving DecidableEq, Repr

/-- Eliminate the first k unknowns of G x = h. -/
def schur (c : PivotCtl) (g : DMat) (h : List Nat) (k : Nat) : Schur :=
  let n := h.length
  let f := cholesky c g n k
  let row (i : Nat) : List Nat := f.cols.map fun col => col.getD i 0
  let y := forwardSolve c f h
  let red := (List.range (n - k)).map (k + ·)
  ⟨f, y, red.map fun i => red.map fun j => ddown (dAt g i j) (row i) (row j),
    red.map fun i => ddownSkip c.compat (h.getD i 0) (row i) y⟩

/-- x_e from x_r: L_eᵀ x_e = y_e − W x_r (R373 step 5). -/
def recover (c : PivotCtl) (q : Schur) (xr : List Nat) : List Nat :=
  let k := q.f.cols.length
  backSolve c q.f ((q.f.cols.zip q.y).map fun e => ddownSkip c.compat e.2 (e.1.drop k) xr)

/-- Is a list an ordering of 0 to n − 1? -/
def isOrdering (n : Nat) (o : List Nat) : Bool :=
  o.length == n && (List.range n).all fun i => o.contains i

/-- S x = h by Cholesky in an ordering (R373 direct). -/
def solveOrdered (c : PivotCtl) (s : DMat) (h : List Nat) (o : List Nat) : DSolve :=
  let o := if isOrdering h.length o then o else List.range h.length
  let r := solveChol c (o.map fun i => o.map fun j => dAt s i j) (o.map fun i => h.getD i 0)
  { r with x := (List.range h.length).map fun i => r.x.getD (o.idxOf i) 0 }

/-- The factors of S's diagonal blocks (the block-Jacobi preconditioner): offset and factor of each reduced block. -/
def precFactors (c : PivotCtl) (s : DMat) (sizes : List Nat) : List Factor :=
  (sizes.foldl (fun (acc : List Factor × Nat) n =>
    let b := (List.range n).map fun i => (List.range n).map fun j => dAt s (acc.2 + i) (acc.2 + j)
    (acc.1 ++ [cholesky c b n n], acc.2 + n)) ([], 0)).1

def precSolve (c : PivotCtl) (fs : List Factor) (r : List Nat) : List Nat :=
  (fs.foldl (fun (acc : List Nat × List Nat) f =>
    let n := f.cols.length
    (acc.1 ++ backSolve c f (forwardSolve c f (acc.2.take n)), acc.2.drop n)) ([], r)).1

def matVec (m : DMat) (v : List Nat) : List Nat := m.map fun r => ddot r v

/-- y + a·x, the product and the sum each rounded. -/
def vAxpy (a : Nat) (x y : List Nat) : List Nat := (x.zip y).map fun e => dadd e.2 (dmul a e.1)

end Sys2Proof.Machine
end

