-- ==== Sys2Proof/Machine/Solver.lean ====
section
/-! DEFINITION. The solver engine: submission, the queue, deltas, dense problems, the sparse solve, cancellation
(15_solver_engine.md R362 to R381). -/

namespace Sys2Proof.Machine

/-! ## Submission (R369, Tables 15.1, 15.2 and 15.4) -/

/-- A descriptor's bytes and its tile's tag, read in device context; nothing where refused or poisoned. -/
def seReadDesc (s : State) (a n : Nat) : State × Option (List Byte × BitVec 12) :=
  match readTile s (Who.device 4 7) a with
  | (s, .refused _) => (s, none)
  | (s, .data bs t) =>
    if t.poison then (poisonConsumed s (Who.device 4 7) (a / tileBytes * tileBytes) 0, none)
    else (s, some ((bs.drop (a % tileBytes)).take n, t.tag))

/-- Mark, layout and reserved fields of a job descriptor; `sparse` where the structure's mode is known. -/
def jobMarked (d : List Byte) (sparse : Option Bool) : Bool :=
  wordAt d 0 == 0x50B70100 && bits (wordAt d 1) 27 26 == 0 && bits (wordAt d 1) 22 16 == 0
    && [3, 5, 12].all (fun i => bits (wordAt d i) 31 16 == 0) && [13, 14, 15].all (fun i => wordAt d i == 0)
    && seMethod d != 3 && !(sparse == some false && seMethod d == 2)

/-- Mark, layout and reserved fields of a structure descriptor. -/
def structMarked (d : List Byte) : Bool :=
  wordAt d 0 == 0x5E570100 && bits (wordAt d 1) 26 16 == 0 && bits (wordAt d 2) 31 24 == 0
    && bits (wordAt d 4) 31 25 == 0 && [7, 9, 11, 13].all (fun i => bits (wordAt d i) 31 16 == 0) && wordAt d 15 == 0
    && (if ssSparse d then bits (wordAt d 3) 31 24 == 0 && wordAt d 5 == 0
        else bits (wordAt d 2) 23 16 == 0 && bits (wordAt d 3) 31 25 == 0 && bits (wordAt d 3) 15 13 == 0 && wordAt d 4 == 0)

/-- The limits of Table 15.1. -/
def structInLimits (d : List Byte) : Bool :=
  if ssSparse d then decide (1 ≤ ssBlocks d) && decide (ssBlocks d ≤ 16777216)
  else decide (1 ≤ ssNmax d) && decide (ssNmax d ≤ 256) && decide (1 ≤ ssMmax d) && decide (ssMmax d ≤ 4096)

def posFinite (x : Nat) : Bool := (fp32.decode x).isFinite && !(fp32.decode x).isZero && !(fp32.decode x).signOf

/-- Deadline, μ, and for a PCG job tol, ckpt and iter_cap in range, and λ usable (Tables 15.2, 15.10). -/
def jobInRange (s : State) (d : List Byte) (sparse : Bool) : Bool :=
  let mu := fp32.decode (seMu d)
  let pcg := sparse && seMethod d != 0
  decide (100 ≤ wordAt d 7) && decide (wordAt d 7 ≤ 10000000)
    && mu.isFinite && (mu.isZero || !mu.signOf)
    && (!pcg || (posFinite (wordAt d 9) && bits (wordAt d 10) 31 16 != 0 && bits (wordAt d 10) 15 0 != 0))
    && posFinite (s.fld Page.se F.SE_PIVOT_LAMBDA_lambda)

/-- The lowest reason that refuses a job; its structure descriptor with the tag of its tile where it could be read. (DESIGN CHOICE, notes/assumptions/102.md) -/
def submitReason (s : State) (d : List Byte) (tag : BitVec 12) (sd : Option (List Byte × BitVec 12)) : Option Nat :=
  let court := bits (wordAt d 1) 31 28
  if !jobMarked d (sd.map fun e => ssSparse e.1) then some 1
  else match sd with
    | none => if (64 ≤ s.jobs.length ∨ !pageAccepts s Page.se) then some 4 else some 5
    | some (x, t) =>
      if structMarked x && !structInLimits x then some 2
      else if !jobInRange s d (ssSparse x) then some 3
      else if (64 ≤ s.jobs.length ∨ !pageAccepts s Page.se) then some 4
      else if !structMarked x || bits (wordAt x 1) 31 28 != court || tag != s.courtTag court || t != s.courtTag court then
        some 5
      else none

def newJob (s : State) (d sd : List Byte) (time : Nat) : SeJob :=
  { desc := d, sdesc := sd, court := bits (wordAt d 1) 31 28, due := time + wordAt d 7
    pivot := (s.reg (Page.se + 0x44)).toNat, lambda := s.fld Page.se F.SE_PIVOT_LAMBDA_lambda
    running := false, started := false, deltaSeen := 0, deltaOff := 0, applied := 0, next := 0, marks := []
    fresh := 0, reused := 0, singular := 0, regularised := 0, overflowed := 0, sizes := [], blocks := [], cg := none
    answer := [], iters := 0, ckpt := 0, residual := none, method := seMethod d % 2, restructured := false
    warmUsed := false, converged := false, finished := false, needed := 0 }

/-- A refusal changes nothing but the counts, the event and the notice (R369). -/
def seRefuse (s : State) (court tag reason : Nat) : State :=
  let s := s.satFld Page.se F.SE_MISS_COUNT_refusals 1
  solveDone (seErr s Err.se_se_refused court) court tag 2 reason false

/-- A write of SE_SUBMIT at a time of the µs timer. -/
def seSubmit (s : State) (v time : Nat) : State × Nat :=
  let a := tierBase (bits v 29 25) (bit v 24) + bits v 23 0 * tileBytes
  match seReadDesc s a 64 with
  | (s, none) => (seRefuse s 0 0 1, RegStatus.ok)
  | (s, some (d, tag)) =>
    let court := bits (wordAt d 1) 31 28
    let (s, sd) := if seStruct d % 64 = 0 then seReadDesc s (seStruct d) 64 else (s, none)
    match submitReason s d tag sd, sd with
    | none, some (x, _) =>
      let s := showJobs { s with jobs := s.jobs ++ [newJob s d x time] }
      (seCount s court 0x01 1, RegStatus.ok)
    | some r, _ => (seRefuse s court (seTag d) r, RegStatus.ok)
    | none, none => (seRefuse s court (seTag d) 5, RegStatus.ok)

/-- A submission waits for every command its session issued earlier (R369). -/
def seWaits (s : State) : RegPath → Bool
  | .host k _ => s.cmds.any fun c => c.session == k.toNat
  | _ => false

def execSeSubmit (h : RegHdr) (stack : BitVec 5) (tier : Bool) (tile : BitVec 24) (s : State) :
    Host.Outcome State Fault Refusal :=
  if seWaits s h.path then turnedAway s
  else regCommand s h (Page.se + 0x40) fun s =>
    seSubmit s (stack.toNat * 2 ^ 25 + tier.toNat * 2 ^ 24 + tile.toNat) h.time.toNat

/-! ## Reads of a job -/

/-- Why a job fails: its reason, and the tile it consumed poisoned. -/
abbrev SeFail := Nat × Option Nat

/-- Read bytes of tiles whose format code is one of `fmts` (R362, R363). -/
def seRead (s : State) (court a n : Nat) (fmts : List Nat) : State × Except SeFail (List Byte) :=
  match readSpan s (seWho court) a n with
  | (s, .refused _) => (s, .error (0x08, none))
  | (s, .poisoned t) => (s, .error (0x0A, some t))
  | (s, .bytes bs fs) => if fs.all fmts.contains then (s, .ok bs) else (s, .error (0x07, none))

/-- The job at index i fails; a poisoned tile then meets the court's poison handling (R362). -/
def seFail (s : State) (i : Nat) (e : SeFail) : State :=
  match s.jobs[i]? with
  | none => s
  | some j =>
    let s := endJob s i 1 e.1
    match e.2 with
    | some t => poisonConsumed s (seWho j.court) t 0
    | none => s

def setJob (s : State) (i : Nat) (j : SeJob) : State := { s with jobs := s.jobs.set i j }

def pivotCtl (j : SeJob) : PivotCtl := ⟨bit j.pivot 31, bits j.pivot 5 0, j.lambda⟩

/-! ## Start of a job (R368) -/

/-- An entry of the unknown-block table: id and size. -/
def unknownOf (w : Nat) : Nat × Nat := (bits w 31 8, bits w 3 0 + 1)

def blockOf (bs : List Byte) : SeBlock :=
  let w := wordAt bs
  ⟨bits (w 0) 31 28 + 1, (List.range (bits (w 0) 27 26 + 1)).map fun i => bits (w (1 + i)) 23 0, w 5, w 6, [], []⟩

/-- The work area as the engine leaves it: contents of its own, free (R365). -/
def scribble (s : State) (j : SeJob) (tiles : Nat) (k : SeKept) : State × Bool :=
  let n := min (max 1 tiles) (ssWorkTiles j.sdesc)
  let d := s.freeCount
  let s := { s with freeCount := d + 1 }
  let (s, ok) := (List.range n).foldl (fun (acc : State × Bool) i =>
    if acc.2 then
      let (s, r) := writeSpan acc.1 (seWho j.court) (ssWork j.sdesc + i * tileBytes)
        ((List.range tileBytes).map fun b => Config.freeByte d (i * tileBytes + b)) 0
      (s, r.isNone)
    else acc) (s, true)
  (setKept s (seStruct j.desc) { k with front := if n = 0 then [] else Memory.read s.mem (ssWork j.sdesc) tileBytes }, ok)

/-- Read the tables of a sparse structure; a dense one's are read per problem. -/
def seTables (s : State) (j : SeJob) : State × Except SeFail (List Byte × List Byte) :=
  if ssSparse j.sdesc then
    match seRead s j.court (ssTable j.sdesc) (8 * (ssElim j.sdesc + ssReduced j.sdesc)) [0] with
    | (s, .error e) => (s, .error e)
    | (s, .ok u) =>
      match seRead s j.court (ssArea1 j.sdesc) (32 * ssBlocks j.sdesc) [0] with
      | (s, .error e) => (s, .error e)
      | (s, .ok b) => (s, .ok (u, b))
  else (s, .ok ([], []))

/-- The start: the work area readable, the tables read, the analysis repeated under a new generation. -/
def seStart (s : State) (i : Nat) (j : SeJob) : State :=
  match seRead s j.court (ssWork j.sdesc) (if ssWorkTiles j.sdesc = 0 then 0 else tileBytes) [0] with
  | (s, .error e) => seFail s i e
  | (s, .ok _) =>
    match seTables s j with
    | (s, .error e) => seFail s i e
    | (s, .ok (u, b)) =>
      let need := Config.solverWork j.sdesc (u ++ b)
      let k := keptOf s j.sdesc (seStruct j.desc)
      let j := { j with
        started := true
        sizes := (List.range (u.length / 8)).map fun t => unknownOf (wordAt u (2 * t))
        blocks := (List.range (b.length / 32)).map fun t => blockOf ((b.drop (32 * t)).take 32) }
      if k.analysed = some (ssGen j.sdesc) then setJob s i j
      else
        let s := seCount s j.court 0x07 1
        if ssWorkTiles j.sdesc < need then seFail (setJob s i { j with needed := need }) i (0x09, none)
        else
          let (s, ok) := scribble s j need { k with analysed := some (ssGen j.sdesc) }
          if ok then setJob s i j else seFail (setJob s i j) i (0x08, none)

/-! ## Deltas (R371) -/

/-- m and n of a problem, from its table entry. -/
def problemOf (bs : List Byte) : Nat × Nat := (bits (wordAt bs 0) 27 16 + 1, bits (wordAt bs 0) 8 0)

/-- Values of the Jacobian of a block before its coupled block c. -/
def jacBefore (j : SeJob) (b : SeBlock) (c : Nat) : Nat :=
  (b.coupled.take c).foldl (fun acc i => acc + b.rows * (j.sizes.getD i (0, 0)).2) 0

/-- Where a record's values go; none where it breaks its rule (Table 15.3). `mn` is the problem's m and n. -/
def deltaTarget (j : SeJob) (h : List Byte) (mn : Nat × Nat) : Option Nat :=
  let kind := bits (wordAt h 0) 31 28
  let cnt := bits (wordAt h 0) 24 16
  let idx := bits (wordAt h 1) 23 0
  let row := bits (wordAt h 2) 27 16
  let col := bits (wordAt h 2) 7 0
  if cnt = 0 ∨ 256 < cnt then none
  else if ssSparse j.sdesc then
    match j.blocks[idx]? with
    | none => none
    | some b =>
      if kind = 2 then
        match b.coupled[col % 4]? with
        | some u =>
          if cnt = b.rows * (j.sizes.getD u (0, 0)).2 then
            some (ssArea2 j.sdesc + 4 * (b.jacAt + jacBefore j b (col % 4))) else none
        | none => none
      else if kind = 3 ∧ cnt = b.rows then some (ssArea2 j.sdesc + 4 * b.resAt)
      else none
  else if ssProblems j.sdesc ≤ idx then none
  else if kind = 0 ∧ row < mn.1 ∧ col + cnt ≤ mn.2 then
    some (ssArea1 j.sdesc + idx * ssAstride j.sdesc * tileBytes + (row * ssNmax j.sdesc + col) * 4)
  else if kind = 1 ∧ row + cnt ≤ mn.1 then some (ssArea2 j.sdesc + idx * ssBstride j.sdesc * 64 + 4 * row)
  else none

/-- An applied record marks its problem changed. -/
def markChanged (s : State) (j : SeJob) (p : Nat) : State :=
  let a := seStruct j.desc
  setKept s a (KMap.get s.kept .none a |> fun k => { k with
    sols := if (KMap.get k.sols .none p).x = [] then k.sols
      else KMap.upd k.sols .none p fun x => { x with marked := true } })

/-- The next record of the list. (DESIGN CHOICE, notes/assumptions/104.md) -/
def seDelta (s : State) (i : Nat) (j : SeJob) : State :=
  let a := seAddr j.desc 4 + j.deltaOff
  match seRead s j.court a 16 [0, 1] with
  | (s, .error e) => seFail s i e
  | (s, .ok h) =>
    let cnt := bits (wordAt h 0) 24 16
    let idx := bits (wordAt h 1) 23 0
    let j := { j with deltaSeen := j.deltaSeen + 1, deltaOff := j.deltaOff + 16 + (4 * cnt + 15) / 16 * 16 }
    let dense := !ssSparse j.sdesc && decide (idx < ssProblems j.sdesc)
    match seRead s j.court (ssTable j.sdesc + 8 * idx) (if dense then 8 else 0) [0] with
    | (s, .error e) => seFail s i e
    | (s, .ok t) =>
      match deltaTarget j h (problemOf t) with
      | none => seErr (setJob s i j) Err.se_se_delta j.court
      | some dst =>
        match seRead s j.court (a + 16) (4 * cnt) [0, 1] with
        | (s, .error e) => seFail s i e
        | (s, .ok vs) =>
          match writeSpan s (seWho j.court) dst vs 1 with
          | (s, some _) => seFail s i (0x08, none)
          | (s, none) =>
            let s := if dense then markChanged s j idx else s
            seCount (setJob s i { j with applied := j.applied + 1 }) j.court 0x04 1

/-! ## Dense problems (R372, R375) -/

/-- The events and counters of pivots and overflows (R375, Table 15.10): se-pivot in native mode only. -/
def pivotEvents (s : State) (j : SeJob) (singular regularised overflowed : Nat) : State :=
  let compat := bit j.pivot 31
  let s := if !compat && singular + overflowed != 0 then seErr s Err.se_se_pivot j.court else s
  let s := if regularised ≠ 0 then seErr s Err.se_se_regularised j.court else s
  let s := s.satFld Page.se F.SE_PIVOT_COUNT_regularised regularised
  s.satFld Page.se F.SE_PIVOT_COUNT_singular ((if compat then 0 else singular) + overflowed)

/-- Read the columns of A and b of a problem. -/
def readProblem (s : State) (j : SeJob) (p m n : Nat) : State × Except SeFail (List (List Nat) × List Nat) :=
  let (s, rows) := (List.range m).foldl (fun (acc : State × Except SeFail (List (List Nat))) r =>
    match acc with
    | (s, .error e) => (s, .error e)
    | (s, .ok rows) =>
      match seRead s j.court (ssArea1 j.sdesc + p * ssAstride j.sdesc * tileBytes + r * ssNmax j.sdesc * 4) (4 * n) [1] with
      | (s, .error e) => (s, .error e)
      | (s, .ok bs) => (s, .ok (rows ++ [(List.range n).map (wordAt bs)]))) (s, .ok [])
  match rows with
  | .error e => (s, .error e)
  | .ok rows =>
    match seRead s j.court (ssArea2 j.sdesc + p * ssBstride j.sdesc * 64) (4 * m) [1] with
    | (s, .error e) => (s, .error e)
    | (s, .ok bs) => (s, .ok (rows, (List.range m).map (wordAt bs)))

/-- A problem is completed with x and a status byte; after the last one the status bytes follow. (DESIGN CHOICE, notes/assumptions/108.md) -/
def problemDone (s : State) (i : Nat) (j : SeJob) (p : Nat) (xs : List Nat) (status : Nat) : State :=
  match writeX s j.court (xAddr j p) xs with
  | (s, false) => seFail s i (0x08, none)
  | (s, true) =>
    let j := { j with next := p + 1, marks := KMap.set j.marks 0 p (256 + status) }
    let s := setJob s i j
    let s := if status / 32 < 2 then fixedCount s Page.se 0 1 else s
    if p + 1 < ssProblems j.sdesc then s
    else
      match writeStatuses s j with
      | (s, _, true) => setJob s i { j with finished := true, converged := true }
      | (s, _, false) => seFail s i (0x08, none)

/-- A problem solved afresh. -/
def solveProblem (s : State) (i : Nat) (j : SeJob) (p n : Nat) (rows : List (List Nat)) (b : List Nat) : State :=
  let c := pivotCtl j
  let cols := (List.range n).map fun k => rows.map fun r => widen64 (r.getD k 0)
  let b := b.map widen64
  let mu := widen64 (seMu j.desc)
  let r := if seMethod j.desc = 1 then denseQr c cols b mu else denseChol c cols b mu
  let out := r.x.map (deliverX c.compat (r.singular != 0))
  let beyond := (out.filter (·.2)).length
  let flags := (if !c.compat && r.singular != 0 then 16 else 0) + (if beyond ≠ 0 then 8 else 0)
    + (if r.regularised ≠ 0 then 4 else 0)
  let sol : SeSol := ⟨out.map (·.1), ssGen j.sdesc, seMethod j.desc, seMu j.desc, j.pivot, j.lambda, flags, false⟩
  let a := seStruct j.desc
  let k := keptOf s j.sdesc a
  let s := setKept s a { k with sols := KMap.set k.sols .none p sol }
  let s := seCount (pivotEvents s j r.singular r.regularised beyond) j.court 0x05 1
  problemDone s i { j with
    fresh := j.fresh + 1, singular := j.singular + (if c.compat then 0 else r.singular)
    regularised := j.regularised + r.regularised, overflowed := j.overflowed + beyond } p (out.map (·.1)) flags

/-- The next problem of a dense job: reused, non-finite, or solved. -/
def seProblem (s : State) (i : Nat) (j : SeJob) : State :=
  let p := j.next
  match seRead s j.court (ssTable j.sdesc + 8 * p) 8 [0] with
  | (s, .error e) => seFail s i e
  | (s, .ok t) =>
    let (m, n) := problemOf t
    let same (x : SeSol) : Bool :=
      !x.marked && x.method == seMethod j.desc && x.mu == seMu j.desc && x.pivot == j.pivot && x.lambda == j.lambda
    match (solOf s j p).filter fun x => seWarm j.desc && same x with
    | some x =>
      problemDone (seCount s j.court 0x06 1) i { j with reused := j.reused + 1, warmUsed := true } p x.x (32 + x.flags)
    | none =>
      match readProblem s j p m n with
      | (s, .error e) => seFail s i e
      | (s, .ok (rows, b)) =>
        if (rows.flatten ++ b).all fun v => (fp32.decode v).isFinite then solveProblem s i j p n rows b
        else problemDone (seErr s Err.se_se_input_nonfinite j.court) i j p (List.replicate n fp32.canonNan) (4 * 32)

/-! ## The sparse solve (R367, R373, R374) -/

/-- The structure keeps the rules of R367. -/
def sparseValid (j : SeJob) : Bool :=
  let e := ssElim j.sdesc
  let n := j.sizes.length
  decide ((j.sizes.map (·.1)).Nodup) && decide ((j.sizes.map (·.2)).sum ≤ 4194304)
    && (j.sizes.take e).all (fun x => decide (x.2 ≤ 8))
    && j.blocks.all fun b => decide b.coupled.Nodup && b.coupled.all (fun u => decide (u < n))
        && decide ((b.coupled.filter fun u => u < e).length ≤ 1)

/-- Read every block's Jacobian and residual. -/
def readBlocks (s : State) (j : SeJob) : State × Except SeFail (List SeBlock) :=
  j.blocks.foldl (fun (acc : State × Except SeFail (List SeBlock)) b =>
    match acc with
    | (s, .error e) => (s, .error e)
    | (s, .ok bs) =>
      let n := jacBefore j b b.coupled.length
      match seRead s j.court (ssArea2 j.sdesc + 4 * b.jacAt) (4 * n) [1] with
      | (s, .error e) => (s, .error e)
      | (s, .ok jv) =>
        match seRead s j.court (ssArea2 j.sdesc + 4 * b.resAt) (4 * b.rows) [1] with
        | (s, .error e) => (s, .error e)
        | (s, .ok rv) => (s, .ok (bs ++ [{ b with
            jac := (List.range n).map (wordAt jv), res := (List.range b.rows).map (wordAt rv) }]))) (s, .ok [])

/-- Offsets of the blocks in the unknowns. -/
def offsets (sizes : List Nat) : List Nat := (sizes.foldl (fun (acc : List Nat × Nat) n => (acc.1 ++ [acc.2], acc.2 + n)) ([], 0)).1

def blockSizes (j : SeJob) : List Nat := j.sizes.map (·.2)
def elimUnknowns (j : SeJob) : Nat := ((blockSizes j).take (ssElim j.sdesc)).sum
def reducedSizes (j : SeJob) : List Nat := (blockSizes j).drop (ssElim j.sdesc)

/-- The Schur complement of a job's blocks. -/
def jobSchur (j : SeJob) : Schur :=
  let sizes := blockSizes j
  let offs := offsets sizes
  let rows := j.blocks.flatMap fun b => (List.range b.rows).map fun r =>
    (blockRow offs sizes b.rows b.coupled b.jac r, widen64 (b.res.getD r 0))
  let gh := assemble sizes.sum rows (widen64 (seMu j.desc))
  schur (pivotCtl j) gh.1 gh.2 (elimUnknowns j)

/-- S with λ on its diagonal after a breakdown's restart (Table 15.4a). -/
def jobS (j : SeJob) (q : Schur) (restarted : Bool) : DMat :=
  if restarted then
    (q.s.zip (List.range q.s.length)).map fun e =>
      (e.1.zip (List.range e.1.length)).map fun v => if v.2 = e.2 then dadd v.1 (widen64 j.lambda) else v.1
  else q.s

/-- x₀ (R373, R374): previous values of reduced blocks of the same id and size, zero otherwise; and whether one was used
and made under another generation. -/
def startX (s : State) (j : SeJob) : List Nat × Bool × Bool :=
  let red := j.sizes.drop (ssElim j.sdesc)
  let zeros := red.flatMap fun e => List.replicate e.2 0
  match (keptOf s j.sdesc (seStruct j.desc)).sparse with
  | some (gen, prev) =>
    if seWarm j.desc then
      (red.flatMap fun e => match prev.find? fun x => x.1 == e.1 && x.2.length == e.2 with
        | some (_, vs) => vs.map widen64
        | none => List.replicate e.2 0, true, gen != ssGen j.sdesc)
    else (zeros, false, false)
  | none => (zeros, false, false)

/-- The iterate at x₀. -/
def cgStart (j : SeJob) (q : Schur) (x0 : List Nat) (restarted : Bool) : SeCg :=
  let m := jobS j q restarted
  let r := (q.h.zip (matVec m x0)).map fun e => dsub e.1 e.2
  let z := precSolve (pivotCtl j) (precFactors (pivotCtl j) m (reducedSizes j)) r
  ⟨x0, r, z, ddot r z, 0, restarted⟩

/-- The whole solution in FP32 from reduced unknowns, with the overflowed components. -/
def wholeX (j : SeJob) (q : Schur) (affected : Bool) (xr : List Nat) : List (Nat × Bool) :=
  (recover (pivotCtl j) q xr ++ xr).map (deliverX (bit j.pivot 31) affected)

/-- Write a solution as the checkpoint of an iteration. -/
def writeCkpt (s : State) (j : SeJob) (xs : List Nat) : State × Bool :=
  writeX s j.court (seResult j.desc + tileBytes) xs

/-- The solve ends with a solution. -/
def sparseDone (s : State) (i : Nat) (j : SeJob) (xs : List Nat) (beyond : Nat) (converged : Bool) : State :=
  match writeCkpt s j xs with
  | (s, false) => seFail s i (0x08, none)
  | (s, true) =>
    let s := pivotEvents s j j.singular j.regularised beyond
    setJob s i { j with
      answer := xs, finished := true, converged := converged, ckpt := j.iters, overflowed := beyond }

/-- Every component NaN. -/
def allNan (j : SeJob) : List Nat := List.replicate (blockSizes j).sum fp32.canonNan

/-- Components the spec gives no value: free. -/
def freeX (s : State) (n : Nat) : State × List Nat :=
  ({ s with freeCount := s.freeCount + 1 },
    (List.range n).map fun i => leNat ((List.range 4).map fun b => Config.freeByte s.freeCount (4 * i + b)))

/-- Is the job solved directly (R373)? -/
def isDirect (j : SeJob) : Bool :=
  seMethod j.desc == 0 || (seMethod j.desc == 2 && decide ((reducedSizes j).sum ≤ 262144)
    && decide (Config.solverFactor j.sdesc (wordBytes (j.sizes.map (·.2))) ≤ ssWorkTiles j.sdesc))

/-- The assembled problem is solved directly, or its iteration starts. -/
def sparseBegin (s : State) (i : Nat) (j : SeJob) : State :=
  let c := pivotCtl j
  let q := jobSchur j
  if isDirect j then
    let order := Config.solverOrder j.sdesc (wordBytes (j.sizes.map (·.2)))
    let r := solveOrdered c q.s q.h order
    let sing := q.f.singular.length + r.singular
    let out := wholeX j q (sing != 0) r.x
    let j := { j with
      method := 0, singular := if c.compat then 0 else sing, regularised := q.f.regularised + r.regularised }
    sparseDone s i j (out.map (·.1)) (out.filter (·.2)).length true
  else
    let (x0, warm, re) := startX s j
    let fs := precFactors c q.s (reducedSizes j)
    let s := if re then seErr s Err.se_se_restructure j.court else s
    let sing := q.f.singular.length + (fs.map (·.singular.length)).sum
    setJob s i { j with
      method := 1, warmUsed := warm, restructured := re, cg := some (cgStart j q x0 false)
      singular := if c.compat then 0 else sing
      regularised := q.f.regularised + (fs.map (·.regularised)).sum }

/-- A breakdown: NaN in native mode; in compatibility mode one restart with λ, and after a second one values the spec does
not give. (DESIGN CHOICE, notes/assumptions/109.md) -/
def breakdown (s : State) (i : Nat) (j : SeJob) (q : Schur) (g : SeCg) : State :=
  if !bit j.pivot 31 then
    -- every reduced unknown and every x_e is NaN
    sparseDone s i { j with singular := max 1 j.singular } (allNan j) 0 false
  else if g.restarted then
    let (s, xs) := freeX s (blockSizes j).sum
    sparseDone s i j xs 0 false
  else
    setJob s i { j with
      cg := some (cgStart j q (startX s j).1 true), iters := 0, regularised := j.regularised + q.h.length }

/-- One iteration (R373). -/
def cgStep (s : State) (i : Nat) (j : SeJob) (g : SeCg) : State :=
  let c := pivotCtl j
  let q := jobSchur j
  let m := jobS j q g.restarted
  let qv := matVec m g.p
  let pq := ddot g.p qv
  if !(num64 pq).isFinite || (num64 pq).le .zero then breakdown s i j q g
  else
    let a := ddiv g.rz pq
    let x := vAxpy a g.p g.x
    let r := (g.r.zip qv).map fun e => dsub e.1 (dmul a e.2)
    let it := g.it + 1
    let j := { j with
      iters := it
      residual := some (fp32.round .rne 0 false (num64 (ddiv (dnorm r) (dnorm q.h)))).1 }
    let s := fixedCount s Page.se 1 1
    let out := wholeX j q (j.singular != 0) x
    let xs := out.map (·.1)
    let beyond := (out.filter (·.2)).length
    if (num64 (dnorm r)).le (num64 (dmul (widen64 (wordAt j.desc 9)) (dnorm q.h))) then sparseDone s i j xs beyond true
    else if bits (wordAt j.desc 10) 15 0 ≤ it then
      sparseDone (seErr s Err.se_se_nonconverged j.court) i j xs beyond false
    else
      let z := precSolve c (precFactors c m (reducedSizes j)) r
      let rz2 := ddot r z
      let g := { g with x := x, r := r, p := vAxpy (ddiv rz2 g.rz) g.p z, rz := rz2, it := it }
      if it % bits (wordAt j.desc 10) 31 16 = 0 then
        match writeCkpt s j xs with
        | (s, true) => setJob s i { j with cg := some g, ckpt := it }
        | (s, false) => seFail s i (0x08, none)
      else setJob s i { j with cg := some g }

/-- The next part of a sparse solve: the values read and the problem assembled, or an iteration. -/
def seSparse (s : State) (i : Nat) (j : SeJob) : State :=
  match j.cg with
  | some g => cgStep s i j g
  | none =>
    match readBlocks s j with
    | (s, .error e) => seFail s i e
    | (s, .ok bs) =>
      let j := { j with blocks := bs }
      if !sparseValid j then
        let (s, xs) := freeX s (blockSizes j).sum
        sparseDone s i j xs 0 true
      else if bs.all fun b => (b.jac ++ b.res).all fun v => (fp32.decode v).isFinite then sparseBegin s i j
      else sparseDone (seErr s Err.se_se_input_nonfinite j.court) i j (allNan j) 0 false

/-! ## Running (R370) -/

def deltaLeft (j : SeJob) : Bool := seAddr j.desc 4 != 0 && decide (j.deltaSeen < wordAt j.desc 6)

/-- One unit of the running job's work: its start, a delta record, a problem, or a part of the sparse solve. -/
def jobUnit (s : State) (i : Nat) (j : SeJob) : State :=
  if !j.started then seStart s i j
  else if deltaLeft j then seDelta s i j
  else if ssSparse j.sdesc then seSparse s i j
  else seProblem s i j

/-- Units of the running job's work until it has finished or ended. -/
def jobGo : Nat → State → State
  | 0, s => s
  | n + 1, s =>
    match s.jobs.findIdx? (·.running) with
    | none => s
    | some i =>
      match s.jobs[i]? with
      | none => s
      | some j => if j.finished then s else jobGo n (jobUnit s i j)

/-- May a job start: has every earlier job on its structure ended? -/
def jobEligible (s : State) (i : Nat) : Bool :=
  match s.jobs[i]? with
  | none => false
  | some j => (s.jobs.take i).all fun e => seStruct e.desc != seStruct j.desc

/-- The job that runs: the earliest absolute deadline, ties to the earlier acceptance (R370). -/
def selectJob (s : State) : Option Nat :=
  (List.range s.jobs.length).foldl (fun acc i =>
    if !jobEligible s i then acc
    else match acc with
      | none => some i
      | some k => if (s.jobs[i]?.map (·.due)).getD 0 < (s.jobs[k]?.map (·.due)).getD 0 then some i else some k) none

/-- Is the running job at a boundary where another may take over? Not in its start, its deltas, or its header's write. -/
def atBoundary (j : SeJob) : Bool := j.started && !deltaLeft j && !j.finished

/-- The engine turns to the selected job. -/
def switchTo (s : State) (i : Nat) : State :=
  match s.jobs.findIdx? (·.running) with
  | none => showJobs { s with jobs := s.jobs.modify i fun j => { j with running := true } }
  | some k =>
    match s.jobs[k]? with
    | some j =>
      if k ≠ i ∧ atBoundary j then
        let s := { s with jobs := (s.jobs.modify k fun j => { j with running := false }).modify i fun j =>
          { j with running := true } }
        seCount (showJobs s) j.court 0x09 1
      else s
    | none => s

/-- The engine starts or resumes the job that the order selects and does a number of units of its work; a finished job
waits for its header's acknowledge. (DESIGN CHOICE, notes/assumptions/103.md) -/
def execSeJobStart (units : BitVec 32) (s : State) : Host.Outcome State Fault Refusal :=
  match selectJob s with
  | none => turnedAway s
  | some i =>
    if s.jobs.any fun j => j.running && j.finished then turnedAway s
    else effect s fun s => showJobs (jobGo units.toNat (switchTo s i))

/-- The header is written and acknowledged: the job is complete (R376). A header that cannot be written fails the job. -/
def jobComplete (s : State) (i : Nat) (j : SeJob) : State :=
  let a := seStruct j.desc
  let k := keptOf s j.sdesc a
  let k := if ssSparse j.sdesc then
      { k with sparse := some (ssGen j.sdesc, ((j.sizes.zip (offsets (blockSizes j))).map fun e =>
        (e.1.1, (j.answer.drop e.2).take e.1.2))) }
    else k
  let (s, ok) := scribble s j (Config.solverWork j.sdesc []) k
  if !ok then seFail s i (0x08, none)
  else
    match writeHeader s j false 0 0 0 with
    | (s, false) => seFail s i (0x08, none)
    | (s, true) =>
      let s := showJobs { s with jobs := s.jobs.eraseIdx i, solved := some (j.court, seTag j.desc) }
      solveDone (seCount s j.court 0x02 1) j.court (seTag j.desc) 0 0 false

def execSeJobEnd (s : State) : Host.Outcome State Fault Refusal :=
  match s.jobs.findIdx? fun j => j.running && j.finished with
  | none => turnedAway s
  | some i =>
    match s.jobs[i]? with
    | none => turnedAway s
    | some j => effect s fun s => jobComplete s i j

/-! ## Deadline and cancel (R376, R377) -/

/-- The deadline of the job at an index in acceptance order expires before its commit point. -/
def execSeDeadline (index : BitVec 6) (s : State) : Host.Outcome State Fault Refusal :=
  if index.toNat < s.jobs.length then effect s fun s => endJob s index.toNat 1 0x0B else turnedAway s

/-- A write of SE_CANCEL: the earliest-accepted job of the court and tag. -/
def seCancel (s : State) (v : Nat) : State × Nat :=
  if bit v 31 then
    let court := bits v 27 24
    let tag := bits v 15 0
    let s := s.setFld Page.se F.SE_CANCEL_STAT_tag tag
    match s.jobs.findIdx? fun j => j.court == court && seTag j.desc == tag with
    | some i => (endJob (s.setFld Page.se F.SE_CANCEL_STAT_winner 1) i 3 0x0C, RegStatus.ok)
    | none =>
      (s.setFld Page.se F.SE_CANCEL_STAT_winner (if s.solved = some (court, tag) then 2 else 3), RegStatus.ok)
  else (s, RegStatus.ok)

def execSeCancel (h : RegHdr) (court : BitVec 4) (tag : BitVec 16) (s : State) : Host.Outcome State Fault Refusal :=
  regCommand s h (Page.se + 0x58) fun s => seCancel s (2 ^ 31 + court.toNat * 2 ^ 24 + tag.toNat)

end Sys2Proof.Machine
end

