-- ==== Sys2Proof/Machine/NanTrap.lean ====
section
/-! DEFINITION. The first-NaN trap of a court (03_number_formats.md R87 to R91, Table 3.10), and the bytes and line codes of
a cluster store (06_vector_lanes.md R496). -/

namespace Sys2Proof.Machine

/-- Where and from what a NaN was created (Table 3.10). -/
structure NanRec where
  source : Nat
  region : Nat
  phys : Nat
  unit : Nat
  lane : Nat
  tile : Nat
  addr : Nat
  step : Nat
  cls : Nat
  element : Nat
  a : Nat
  b : Nat
  dstFmt : Nat
  srcFmt : Nat
  flags : Nat
  deriving DecidableEq, Repr

/-- The 8 words of the trap record. -/
def NanRec.words (t : NanRec) (court huddle : Nat) : List Nat :=
  [court * 2 ^ 28 + 2 ^ 27 + t.source * 2 ^ 24 + t.region / 8 * 2 ^ 22 + t.region % 8 * 2 ^ 19 + t.phys * 2 ^ 14
      + t.unit * 2 ^ 12 + t.lane * 32 + t.tile,
    t.addr, t.step % 2 ^ 32, t.cls * 2 ^ 28 + t.element * 2 ^ 16 + t.step / 2 ^ 32 % 2 ^ 16, t.a, t.b,
    t.dstFmt * 2 ^ 12 + t.srcFmt * 2 ^ 8 + t.flags, huddle % 2 ^ 32]

def setStopped (s : State) (r : Nat) : State := s.updRegion r fun x => { x with stopped := true }

/-- A created NaN in a court (R88, R90): the record fills once, later ones are counted; record-and-stop stops the court's
regions. -/
def nanTrap (s : State) (court : Option Nat) (t : NanRec) : State :=
  match court with
  | none => s
  | some n =>
    let p := Page.court n
    let mode := s.fld p F.COURT_TRAP_CTL_mode
    if mode ≠ 1 ∧ mode ≠ 2 then s
    else if s.fld p F.COURT_TRAP0_valid = 1 then
      let o := p + 0x78
      let v := (s.reg o).toNat
      s.setReg o (BitVec.ofNat 32 (min (v / 65536 + 1) 0xFFFF * 65536 + v % 65536))
    else
      let ws := t.words n (KMap.get s.courtHuddle 0 n)
      let s := forEach (ws.zip (List.range 8)) s fun s e => s.setReg (p + 0x60 + 4 * e.2) (BitVec.ofNat 32 e.1)
      let s := raiseEv s Err.court_nan_trap { page := p, court := some n, detail := ws }
      if mode = 2 then forEach (s.regionsOf n) s setStopped else s

/-- The write of COURT_TRAP0: 1 in valid re-arms the trap (R90). -/
def trapRearm (s : State) (n v : Nat) : State × Nat :=
  (if bit v 27 then s.setFld (Page.court n) F.COURT_TRAP0_valid 0 else s, RegStatus.ok)

def execNanTrapRearm (h : RegHdr) (court : BitVec 4) (v : W32) (s : State) : Host.Outcome State Fault Refusal :=
  regCommand s h (Page.court court.toNat + 0x60) fun s => trapRearm s court.toNat v.toNat

/-! ## The cluster store (06_vector_lanes.md R138, R496) -/

def storeSize : Nat := 2 ^ 21

/-- Bytes of a cluster store. -/
def storeRead (x : Cluster) (a n : Nat) : List Byte := Memory.read x.store a n

/-- The 64-byte lines a run of bytes touches. -/
def linesOf (a n : Nat) : List Nat :=
  if n = 0 then [] else (List.range ((a + n - 1) / 64 - a / 64 + 1)).map fun i => a / 64 + i

/-- Write bytes of a cluster store and set the code of each line written. -/
def storeWrite (x : Cluster) (a : Nat) (bs : List Byte) (fmt : Nat) : Cluster :=
  { x with
    store := Memory.write x.store a bs
    lineFmt := forEach (linesOf a bs.length) x.lineFmt fun m l => KMap.set m 0 l fmt }

/-- Do the codes of the lines a read touches agree with a named format (R62, R496)? -/
def storeAgrees (x : Cluster) (a n named : Nat) : Bool :=
  (linesOf a n).all fun l => Fmt.agree (KMap.get x.lineFmt 0 l) named

/-! ## Clusters of a stage (01_package_and_hierarchy.md R36, 04_tensor_units.md R103) -/

/-- The participating clusters of a region: logical and physical index, ascending logical. -/
def parts (s : State) (r : Nat) : List (Nat × Nat) :=
  (maskBits 16 (s.region r).clusters.toNat).filterMap fun c => (s.physOf r c).map fun p => (c, p)

/-- D(c) of a physical cluster: its TU page's offset (R103). -/
def offsetOf (s : State) (r p : Nat) : Nat := s.fld (Page.tu (clusterOf r p)) F.TU_SKEW_OFFSET_offset

/-- D_max of the participating clusters (R101). -/
def dmax (s : State) (r : Nat) : Nat := (parts s r).foldl (fun m e => max m (offsetOf s r e.2)) 0

/-- The participating cluster with the lowest physical index, whose page takes region-wide errors (R493). -/
def lowest (s : State) (r : Nat) : Nat :=
  clusterOf r ((parts s r).foldl (fun m e => min m e.2) 16)

/-- The step number of the issuing program. -/
def stepOf (s : State) (h : Hdr) : Nat := (s.prog h).step.toNat

end Sys2Proof.Machine
end

