-- ==== Sys2Proof/Machine/Accum.lean ====
section
/-! DEFINITION. Accumulator memory: A40 addition, accumulation groups, the close fold, preloads and discard
(05_accumulators.md R116 to R124, R129, R130, R135; 04_tensor_units.md R107, R108, R110). -/

namespace Sys2Proof.Machine

/-! ## A40 arithmetic (R76, R118) -/

/-- A NaN created by an adder or multiplier: the source code of Table 3.10 and the two operands. -/
structure NanEv where
  source : Nat
  col : Nat
  a : XNum
  b : XNum
  deriving DecidableEq, Repr

/-- One adder of the accumulator path: the exact sum rounded once to A40 under RNE (R118). -/
def add40 (a b : XNum) : XNum × Flags :=
  let (v, f) := a.add b
  let (x, g) := a40.round .rne 0 false v
  (a40.decode x, { invalid := f.invalid, overflow := g.overflow })

def num40 (x : BitVec 40) : XNum := a40.decode x.toNat
def bits40 (v : XNum) : BitVec 40 := BitVec.ofNat 40 (a40.round .rne 0 false v).1

/-- Add two rows of elements: sums, flags, and the NaNs created with their columns (R91). -/
def addRows (xs ys : List XNum) : List XNum × Flags × List NanEv :=
  let rs := xs.zip ys |>.map fun (x, y) => (add40 x y, x, y)
  (rs.map fun r => r.1.1, rs.foldl (fun f r => f.or r.1.2) .none,
    (rs.zip (List.range rs.length)).filterMap fun (r, i) =>
      if r.1.2.invalid then some ⟨1, i, r.2.1, r.2.2⟩ else none)

/-! ## Marks (R107, R108) -/

def markNone : BitVec 7 := 0#7
def markConflict : BitVec 7 := 0x3F#7
def markOf (row : Nat) : BitVec 7 := BitVec.ofNat 7 (64 + row % 64)

/-! ## Rows of a unit -/

def unitOf (x : Cluster) (u : Nat) : TUnit := KMap.get x.units .init u
def setUnit (x : Cluster) (u : Nat) (t : TUnit) : Cluster := { x with units := KMap.set x.units .init u t }

def rowKey (u tile row : Nat) : Nat := u * 2048 + tile * 64 + row
def accRow (x : Cluster) (u tile row : Nat) : AccRow := KMap.get x.acc .zero (rowKey u tile row)
def setAccRow (x : Cluster) (u tile row : Nat) (v : AccRow) : Cluster :=
  { x with acc := KMap.set x.acc .zero (rowKey u tile row) v }
def setMark (x : Cluster) (u tile row : Nat) (m : BitVec 7) : Cluster :=
  setAccRow x u tile row { accRow x u tile row with mark := m }

/-- The tiles of a group: levels 0 to L of w blocks. -/
def groupTiles (g : Group) : List Nat := (List.range (g.width * (g.depth + 1))).map (g.base + ·)

/-- The group that holds a tile. -/
def groupAt (t : TUnit) (tile : Nat) : Option Group :=
  t.groups.find? fun g => decide (g.base ≤ tile) && decide (tile < g.base + g.width * (g.depth + 1))

/-- The open group whose base is t; a group whose close has issued is not open (R119). -/
def openGroup (t : TUnit) (base width : Nat) : Option Group :=
  t.groups.find? fun g => g.base == base && g.width == width && !g.closing

def updGroup (t : TUnit) (base : Nat) (f : Group → Group) : TUnit :=
  { t with groups := t.groups.map fun g => if g.base = base then f g else g }

/-- Show the open groups of a cluster on its ACC page. -/
def showGroups (s : State) (c : Nat) : State :=
  let x := s.cluster c
  let s := forEach (List.range 4) s fun s u =>
    s.setFld (Page.acc c) F.ACC_OPEN_MAP_open
      ((unitOf x u).groups.foldl (fun m g => (groupTiles g).foldl (fun m t => m ||| 2 ^ t) m) 0) u
  s.setFld (Page.acc c) F.ACC_STATUS_open_groups (((List.range 4).map fun u => (unitOf x u).groups.length).sum)

/-- Raise an ACC error with its fault record (Table 5.8). -/
def accFault (s : State) (c u tile base bit row : Nat) : State :=
  let p := Page.acc c
  let s := s.setReg (p + 0x54) (BitVec.ofNat 32
    (u * 2 ^ 30 + tile * 2 ^ 25 + base * 2 ^ 20 + (bit - 16) * 2 ^ 16 + row))
  let s := count s p 0x07 { court := pageCourt s p, classes := 2 }
  raise s p bit

/-- Gather a unit's invalid and overflow into ACC_FLAGS (R86). -/
def accFlags (s : State) (c u : Nat) (f : Flags) : State :=
  let v := f.invalid.toNat * 2 + f.overflow.toNat
  if v = 0 then s
  else s.setFld (Page.acc c) F.ACC_FLAGS_sticky (s.fld (Page.acc c) F.ACC_FLAGS_sticky ||| v * 4 ^ u)

/-! ## Adding a chunk (R120, R122, R123) -/

/-- Add a chunk's block to the slots of one tile row: the cluster, the flags, the NaNs and the carry additions. -/
def carryAdd : Nat → Cluster → Nat → Group → Nat → Nat → Nat → Nat → List XNum → Cluster × Flags × List NanEv × Nat
  | 0, x, _, _, _, _, _, _, _ => (x, .none, [], 0)
  | k + 1, x, u, g, b, row, cnt, lvl, vs =>
    let tile := g.base + g.width * lvl + b
    let old := accRow x u tile row
    if bit cnt lvl then
      let (sums, f, evs) := addRows (old.els.map num40) vs
      let (x, f2, evs2, n) := carryAdd k x u g b row cnt (lvl + 1) sums
      (x, f.or f2, evs ++ evs2, n + 1)
    else (setAccRow x u tile row { old with els := vs.map bits40 }, .none, [], 0)

/-- The level-0 mark of a row after a chunk with a mark: the first chunk's, then compared (R108, R120). -/
def newMark (cnt : Nat) (old new : BitVec 7) : BitVec 7 :=
  if cnt = 0 then new else if old = new then old else markConflict

/-- What adding one chunk to a row of a group gives: the cluster, whether it overflowed, flags, NaNs by block, carries. -/
structure ChunkResult where
  cluster : Cluster
  overflowed : Bool
  flags : Flags
  evs : List (Nat × NanEv)
  carries : Nat
  deriving DecidableEq, Repr

/-- Add a chunk of w blocks of 64 values with one mark to a row of a group (R120); a full row drops it (R122). -/
def addChunk (x : Cluster) (u : Nat) (g : Group) (row : Nat) (mark : BitVec 7) (blocks : List (List XNum)) : ChunkResult :=
  let t := unitOf x u
  let key := g.base * 64 + row
  let cnt := KMap.get t.counts 0 key
  if 2 ^ g.depth ≤ cnt then
    let x := forEach (List.range g.width) x fun x b => setMark x u (g.base + b) row markConflict
    ⟨setUnit x u (updGroup t g.base fun g => { g with overflowed := true }), true, .none, [], 0⟩
  else
    let x := setUnit x u { t with counts := KMap.set t.counts 0 key (cnt + 1) }
    (blocks.zip (List.range g.width)).foldl (fun acc e =>
      let (x, f, evs, n) := carryAdd (g.depth + 1) acc.cluster u g e.2 row cnt 0 e.1
      let x := setMark x u (g.base + e.2) row (newMark cnt (accRow x u (g.base + e.2) row).mark mark)
      ⟨x, false, acc.flags.or f, acc.evs ++ evs.map fun v => (e.2, v), acc.carries + n⟩)
      ⟨x, false, .none, [], 0⟩

/-- The NaN record of an accumulator sum (R91). -/
def accNan (s : State) (r p u : Nat) (base row addr step cls : Nat) (b : Nat) (e : NanEv) (srcFmt : Nat) : State :=
  nanTrap s (s.courtOf r)
    { source := e.source, region := r, phys := p, unit := u, lane := 0, tile := base + b, addr := addr, step := step
      cls := cls, element := row * 64 + e.col, a := captureFp32 e.a, b := captureFp32 e.b, dstFmt := 14
      srcFmt := srcFmt, flags := 16 }

/-- A chunk reaches a row of a unit: its effect, counters, flags, overflow error and NaNs. -/
def chunkIn (s : State) (r p u : Nat) (g : Group) (row : Nat) (mark : BitVec 7) (blocks : List (List XNum))
    (addr step cls : Nat) : State :=
  let c := clusterOf r p
  let res := addChunk (s.cluster c) u g row mark blocks
  let s := s.setCluster c res.cluster
  let cnt : Cnt := { court := s.courtOf r, classes := 8 }
  if res.overflowed then accFault s c u g.base g.base Err.acc_group_overflow row
  else
    let s := accFlags s c u res.flags
    let s := fixedCount s (Page.acc c) 0 1
    let s := count s (Page.acc c) 0x01 cnt
    let s := count s (Page.acc c) 0x02 { cnt with n := res.carries }
    forEach res.evs s fun s e => accNan s r p u g.base row addr step cls e.1 e.2 14

/-! ## Opening and closing at issue (R119, R129) -/

/-- What the group check of one unit finds. -/
inductive GroupCheck where
  | ok
  | waits
  | fails (bit base : Nat)
  deriving DecidableEq, Repr

/-- An open instruction's check: its tiles within 0 to 31, and free of an open group; a group still folding waits. -/
def checkOpen (t : TUnit) (base width depth : Nat) : GroupCheck :=
  let top := base + width * (depth + 1)
  if 32 < top then .fails Err.acc_group_range 0
  else
    let hits := t.groups.filter fun g => decide (g.base < top) && decide (base < g.base + g.width * (g.depth + 1))
    match hits.find? fun g => !g.closing with
    | some g => .fails Err.acc_tile_collision g.base
    | none => if hits = [] then .ok else .waits

def checkGroup (t : TUnit) (opens : Bool) (base width depth : Nat) : GroupCheck :=
  if opens then checkOpen t base width depth
  else match openGroup t base width with
    | some _ => .ok
    | none => .fails Err.acc_no_group 0

/-- The checks of every unit of the participating clusters that a mask picks. -/
def groupChecks (s : State) (r : Nat) (units : Nat) (opens : Bool) (base width depth : Nat) : List (Nat × Nat × GroupCheck) :=
  (parts s r).flatMap fun e => (maskBits 4 units).map fun u =>
    (clusterOf r e.2, u, checkGroup (unitOf (s.cluster (clusterOf r e.2)) u) opens base width depth)

def anyFails (l : List (Nat × Nat × GroupCheck)) : Bool := l.any fun e => match e.2.2 with
  | .fails _ _ => true
  | _ => false

def anyWaits (l : List (Nat × Nat × GroupCheck)) : Bool := l.any fun e => e.2.2 == .waits

/-- Raise a failed check once on the ACC page of each cluster that holds a failing unit (R119). -/
def raiseGroup (s : State) (tile : Nat) (l : List (Nat × Nat × GroupCheck)) : State :=
  let firsts := l.foldl (fun (acc : List (Nat × Nat × Nat × Nat)) e =>
    match e.2.2 with
    | .fails b base => if acc.any fun a => a.1 == e.1 then acc else acc ++ [(e.1, e.2.1, b, base)]
    | _ => acc) []
  forEach firsts s fun s e => accFault s e.1 e.2.1 tile e.2.2.2 e.2.2.1 0

/-- Tiles no longer hold a closed result. -/
def dropClosed (t : TUnit) (tiles : List Nat) : TUnit :=
  { t with closed := forEach tiles t.closed fun m a => KMap.set m 0 a 0 }

/-- Open a group in a unit: counts of its rows 0. -/
def openIn (t : TUnit) (g : Group) : TUnit :=
  let t := dropClosed t (groupTiles g)
  { t with
    groups := t.groups ++ [g]
    counts := t.counts.filter fun e => !(decide (g.base * 64 ≤ e.1) && decide (e.1 < g.base * 64 + 64)) }

/-- Apply a group change to every masked unit of the participating clusters. -/
def forUnits (s : State) (r units : Nat) (f : TUnit → TUnit) : State :=
  forEach (parts s r) s fun s e =>
    let c := clusterOf r e.2
    let s := s.updCluster c fun x => forEach (maskBits 4 units) x fun x u => setUnit x u (f (unitOf x u))
    showGroups s c

/-! ## The close fold (R121) -/

/-- Fold one element row over the occupied levels. -/
def foldGo (x : Cluster) (u : Nat) (g : Group) (b row cnt : Nat) :
    List Nat → Option (List XNum) → Flags → List NanEv → Option (List XNum) × Flags × List NanEv
  | [], acc, f, evs => (acc, f, evs)
  | lvl :: rest, acc, f, evs =>
    if bit cnt lvl then
      let vs := (accRow x u (g.base + g.width * lvl + b) row).els.map num40
      match acc with
      | none => foldGo x u g b row cnt rest (some vs) f evs
      | some r =>
        let (sums, f2, evs2) := addRows vs r
        foldGo x u g b row cnt rest (some sums) (f.or f2) (evs ++ evs2)
    else foldGo x u g b row cnt rest acc f evs

/-- Fold one tile row of one block: the result in level 0, marks of the other levels none. -/
def foldRow (x : Cluster) (u : Nat) (g : Group) (b row : Nat) : Cluster × Flags × List NanEv :=
  let cnt := KMap.get (unitOf x u).counts 0 (g.base * 64 + row)
  let (res, f, evs) := foldGo x u g b row cnt (List.range (g.depth + 1)) none .none []
  let vs := res.getD (List.replicate 64 .zero)
  let x := setAccRow x u (g.base + b) row { accRow x u (g.base + b) row with els := vs.map bits40 }
  (forEach (List.range g.depth) x fun x l => setMark x u (g.base + g.width * (l + 1) + b) row markNone, f, evs)

/-- The state word of a tile that holds a closed result (Table 5.4). -/
def closedWord (g : Group) (isBase : Bool) : Nat :=
  isBase.toNat * 2 ^ 30 + 2 ^ 29 + g.overflowed.toNat * 2 ^ 28 + g.depth * 2 ^ 24 + Nat.log2 g.width * 2 ^ 22 + g.base * 2 ^ 17

/-- A unit whose group of a base has closed: the group goes and its w result tiles hold a closed result. -/
def closeIn (t : TUnit) (g : Group) : TUnit :=
  { t with
    groups := t.groups.filter fun k => k.base != g.base
    counts := t.counts.filter fun e => !(decide (g.base * 64 ≤ e.1) && decide (e.1 < g.base * 64 + 64))
    closed := forEach (List.range g.width) t.closed fun m b => KMap.set m 0 (g.base + b) (closedWord g (b == 0)) }

/-- Fold every row of a unit's group, with its flags and NaNs. -/
def foldUnit (s : State) (r p u : Nat) (g : Group) : State :=
  let c := clusterOf r p
  let rows := (List.range 64).flatMap fun row => (List.range g.width).map fun b => (row, b)
  let s := forEach rows s fun s e =>
    let (x, f, evs) := foldRow (s.cluster c) u g e.2 e.1
    let s := accFlags (s.setCluster c x) c u f
    forEach evs s fun s v => accNan s r p u g.base e.1 g.addr g.step 1 e.2 v 14
  let s := s.updCluster c fun x => setUnit x u (closeIn (unitOf x u) g)
  count s (Page.acc c) 0x03 { court := s.courtOf r }

/-- The units of a region whose group of a base folds. -/
def folding (s : State) (r base : Nat) : List (Nat × Nat × Group) :=
  (List.range 17).flatMap fun p => (List.range 4).filterMap fun u =>
    ((unitOf (s.cluster (clusterOf r p)) u).groups.find? fun g => g.base == base && g.folds).map fun g => (p, u, g)

/-- The fold of a closed group after its close's last region step (R121). -/
def execGroupCloseFold (region : BitVec 5) (tile : BitVec 5) (s : State) : Host.Outcome State Fault Refusal :=
  let r := region.toNat
  match folding s r tile.toNat with
  | [] => turnedAway s
  | us => effect s fun s =>
      let s := forEach us s fun s e => foldUnit s r e.1 e.2.1 e.2.2
      forEach (us.map (·.1)).eraseDups s fun s p => showGroups s (clusterOf r p)

/-! ## Discard (R135) -/

/-- Close every open group of a unit without a fold, every mark of their tiles none. -/
def discardUnit (x : Cluster) (u : Nat) : Cluster :=
  let t := unitOf x u
  let tiles := t.groups.flatMap groupTiles
  let x := forEach tiles x fun x a => forEach (List.range 64) x fun x row => setMark x u a row markNone
  setUnit x u { t with groups := [], counts := [] }

/-- The write of ACC_GROUP_CTL: denied while a stream is in flight in the region. (DESIGN CHOICE, notes/assumptions/59.md) -/
def accDiscard (s : State) (c v : Nat) : State × Nat :=
  if !bit v 0 then (s, RegStatus.ok)
  else if (s.region (c / 17)).stream.isSome then (s, RegStatus.denied)
  else
    let s := s.updCluster c fun x => forEach (maskBits 4 (bits v 7 4)) x discardUnit
    (showGroups s c, RegStatus.ok)

/-- ACC_DISCARD: a write of ACC_GROUP_CTL on a cluster's page (R135, Table 5.9) (DEDUCED, notes/assumptions/31.md). -/
def execAccDiscard (h : RegHdr) (cluster : BitVec 10) (v : W32) (s : State) : Host.Outcome State Fault Refusal :=
  let c := cluster.toNat
  if c < 544 then regCommand s h (Page.acc c + 0x40) fun s => accDiscard s c v.toNat else turnedAway s

end Sys2Proof.Machine
end

