-- ==== Sys2Proof/Machine/Tap.lean ====
section
/-! DEFINITION. The statistics tap: descriptors, arming and closing, capture, outer-product blocks in idle slots, and the
drain of factor tiles (07_statistics_tap.md R156 to R173). -/

namespace Sys2Proof.Machine

/-! ## Descriptors, tiles and positions (R156, R157, R161) -/

/-- A tap layer descriptor (Table 7.1). -/
structure TapDesc where
  layer : Nat
  kind : Bool
  fmt : Nat
  ranges : Nat
  q : Nat
  groups : Nat
  n : Nat
  phaseStep : Nat
  beta : Nat
  init : Bool
  defer : Bool
  slotBase : Nat
  phase : Nat
  ringSlots : Nat
  ringBase : Nat
  record : Nat
  deriving DecidableEq, Repr

def TapDesc.zero : TapDesc := ⟨0, false, 0, 1, 1, 1, 1, 0, 0, false, false, 0, 0, 1, 0, 0⟩

/-- Read the fields of a descriptor's 64 bytes. -/
def tapFields (bs : List Byte) : TapDesc :=
  let w := wordAt bs
  { layer := bits (w 1) 31 16, kind := bit (w 1) 15, fmt := bits (w 1) 11 8, ranges := bits (w 2) 24 16
    q := bits (w 2) 15 8, groups := bits (w 2) 7 0, n := bits (w 3) 15 8 + 1, phaseStep := bits (w 3) 7 0, beta := w 4
    init := bit (w 5) 31, defer := bit (w 5) 30, slotBase := bits (w 5) 29 24, phase := bits (w 5) 23 16
    ringSlots := bits (w 5) 15 0, ringBase := w 6, record := w 8 + bits (w 9) 15 0 * 2 ^ 32 }

/-- Does a descriptor meet R156 and Table 7.1? Its ring must lie within the cluster store. (DESIGN CHOICE, notes/assumptions/46.md) -/
def tapValid (bs : List Byte) : Bool :=
  let w := wordAt bs
  let d := tapFields bs
  decide (bits (w 0) 31 8 = 0x7A9001) && bits (w 0) 7 0 == 0 && bits (w 1) 14 12 == 0 && bits (w 1) 7 0 == 0
    && bits (w 2) 31 25 == 0 && bits (w 3) 31 16 == 0 && w 7 == 0
    && (List.range 6).all (fun i => w (10 + i) == 0)
    && decide (2 ≤ d.fmt ∧ d.fmt ≤ 10) && decide (1 ≤ d.ranges ∧ d.ranges ≤ 256) && decide (1 ≤ d.q ∧ d.q ≤ 16)
    && d.ranges % d.q == 0 && decide (1 ≤ d.groups) && decide (d.phase < d.n) && decide (d.slotBase ≤ 31)
    && decide (1 ≤ d.ringSlots ∧ d.ringSlots ≤ 14563) && d.ringBase % 16 == 0
    && decide (d.ringBase + 144 * d.ringSlots ≤ storeSize)
    && !(bit d.beta 31 && d.beta != 0x80000000) && (fp32.decode d.beta).lt .one

/-- The places (i, j), 0 ≤ i ≤ j < q, in the order of R156. -/
def tapPlaces (q : Nat) : List (Nat × Nat) :=
  (List.range q).flatMap fun i => (List.range (q - i)).map fun k => (i, i + k)

/-- A tile of a factor: its index, its ranges, its position in the region. -/
structure TapTile where
  tile : Nat
  rangeI : Nat
  rangeJ : Nat
  pos : Nat
  deriving DecidableEq, Repr

/-- Every tile of a factor in index order, with its position (R156, R157). -/
def tapTiles (d : TapDesc) : List TapTile :=
  let ps := tapPlaces d.q
  (List.range (d.ranges / d.q)).flatMap fun b => (ps.zip (List.range ps.length)).map fun e =>
    let t := b * ps.length + e.2
    ⟨t, b * d.q + e.1.1, b * d.q + e.1.2, d.slotBase + t / d.groups⟩

/-- The tiles the tap builds in step s: those of group s mod Gr (R157). -/
def tapGroup (d : TapDesc) (step : Nat) : List TapTile := (tapTiles d).filter fun t => t.tile % d.groups == step % d.groups

def TapArm.d (a : TapArm) : TapDesc := tapFields a.desc

/-! ## Pairs and rows -/

def pairOf (x : Cluster) (k : Nat) : TapPair := KMap.get x.pairs .free k
def setPair (x : Cluster) (k : Nat) (p : TapPair) : Cluster := { x with pairs := KMap.set x.pairs .free k p }

def TapPair.diag (p : TapPair) : Bool := p.rangeI == p.rangeJ
/-- Blocks one row gives a tile (Table 7.2). -/
def TapPair.need (p : TapPair) : Nat := if p.diag then 10 else 16
/-- Does the tile need a K-chunk? -/
def TapPair.wants (p : TapPair) (chunk : Nat) : Bool := chunk / 4 == p.rangeI || chunk / 4 == p.rangeJ

/-- Blocks of a row formed in a tile. -/
def TapPair.formedOf (p : TapPair) (row : Nat) : Nat := (p.formed.filter fun b => b.row == row).length

/-- Rows every block of which has been formed: those accumulated (R166). -/
def TapPair.rows (p : TapPair) : List Nat :=
  ((p.formed.map (·.row)).eraseDups).filter fun r => p.formedOf r == p.need

/-- A pair that still takes rows for a tap index. -/
def TapPair.live (p : TapPair) (tap : Nat) : Bool := p.used && !p.closed && p.arm.tap == tap

def livePairs (x : Cluster) (tap : Nat) : List Nat := [0, 1].filter fun k => (pairOf x k).live tap

/-- Show a cluster's pairs and ring on its ST page (Tables 7.5 and 7.7). -/
def showTap (s : State) (c : Nat) : State :=
  let x := s.cluster c
  let pg := Page.st c
  let s := forEach [0, 1] s fun s k =>
    let p := pairOf x k
    let d := p.arm.d
    let st := if !p.used then 0 else if p.closed then 2 else 1
    let s := s.setReg (pg + 0x40 + 4 * k) (BitVec.ofNat 32
      (if p.used then p.arm.tap * 2 ^ 29 + d.kind.toNat * 2 ^ 28 + d.layer % 4096 * 2 ^ 16 + p.tile else 0))
    let s := s.setReg (pg + 0x48 + 4 * k) (BitVec.ofNat 32 p.rows.length)
    s.setFld pg (if k = 0 then F.ST_STATUS_pair0 else F.ST_STATUS_pair1) st
  let s := s.setFld pg F.ST_RING_STAT_used x.ring.length
  s.maxFld pg F.ST_RING_STAT_high_water x.ring.length

/-- Show the armed indices of a region on every ST page. -/
def showArmed (s : State) (r : Nat) : State :=
  let m := (s.region r).taps.foldl (fun m a => m ||| 2 ^ a.tap) 0
  forEach (clustersOf r) s fun s c => s.setFld (Page.st c) F.ST_STATUS_armed m

/-- Raise an ST error and count it. -/
def stFault (s : State) (c b : Nat) : State :=
  raise (count s (Page.st c) 0x07 { court := pageCourt s (Page.st c), classes := 2 }) (Page.st c) b

/-! ## Capture (R158, R159, R162, R165) -/

/-- A chunk as its slot holds it: 128 bytes of elements and the two scales. -/
def tapBytes (f : Feed) : List Byte :=
  (f.bytes ++ List.replicate 128 0#8).take 128 ++ ((f.scales.map (BitVec.ofNat 8)) ++ [0#8, 0#8]).take 2

/-- Is the row sampled in step s (R159)? -/
def tapSampled (d : TapDesc) (row step : Nat) : Bool := (row + d.phase + step * d.phaseStep) % d.n == 0

/-- The 144 bytes of a capture-ring slot (R162). -/
def slotBytes (t : TapSlot) : List Byte :=
  t.bytes ++ [0#8, 0#8] ++ leBytes 4 t.row ++ leBytes 2 t.chunk ++ leBytes 2 t.tap ++ leBytes 4 0

/-- The lowest free slot of an index's ring. (DESIGN CHOICE, notes/assumptions/45.md) -/
def freeSlot (x : Cluster) (tap : Nat) : Nat :=
  ((List.range (x.ring.length + 1)).find? fun k => !(x.ring.any fun t => t.tap == tap && t.slot == k)).getD 0

/-- The blocks a captured chunk makes ready in a pair, in ascending order of the other chunk (R163). -/
def readyBlocks (x : Cluster) (p : TapPair) (t : TapSlot) : List TapBlock :=
  let ring := x.ring.filter fun u => u.tap == t.tap && u.row == t.row
  let other := if t.chunk / 4 = p.rangeI then p.rangeJ else p.rangeI
  let os := (List.range 4).filterMap fun k => ring.find? fun u => u.chunk == other * 4 + k
  os.map fun u => if t.chunk ≤ u.chunk then ⟨t.row, t.chunk, u.chunk, t.bytes, u.bytes⟩
    else ⟨t.row, u.chunk, t.chunk, u.bytes, t.bytes⟩

/-- A slot is freed once every block that needs it has been formed (R162). -/
def slotDone (x : Cluster) (t : TapSlot) : Bool :=
  (livePairs x t.tap).all fun k =>
    let p := pairOf x k
    !p.wants t.chunk || p.dropped.contains t.row
      || (p.formed.filter fun b => b.row == t.row && (b.a == t.chunk || b.b == t.chunk)).length == 4

/-- Discard a row of an index at a full ring under drop (R165). -/
def dropRow (s : State) (c tap row : Nat) : State :=
  let x := s.cluster c
  let ks := livePairs x tap
  let x := { x with
    ring := x.ring.filter fun t => !(t.tap == tap && t.row == row)
    ready := x.ready.filter fun e => !(ks.contains e.1 && e.2.row == row) }
  let x := forEach ks x fun x k =>
    let p := pairOf x k
    setPair x k { p with dropped := p.dropped ++ [row], formed := p.formed.filter fun b => b.row != row }
  let s := (s.setCluster c x).satFld (Page.st c) F.ST_DROPPED_rows 1
  stFault (showTap s c) c Err.st_tap_dropped

/-- Copy a chunk into a slot; beyond the ring's capacity (defer) it is held without one. -/
def capture (s : State) (c : Nat) (d : TapDesc) (tap row chunk : Nat) (f : Feed) (fresh : Bool) : State :=
  let x := s.cluster c
  let t : TapSlot := ⟨tap, freeSlot x tap, row, chunk, tapBytes f⟩
  let x := if t.slot < d.ringSlots then storeWrite x (d.ringBase + 144 * t.slot) (slotBytes t) 0 else x
  let x := { x with ring := x.ring ++ [t] }
  let x := forEach (livePairs x tap) x fun x k =>
    let p := pairOf x k
    if p.wants chunk then { x with ready := x.ready ++ (readyBlocks x p t).map fun b => (k, b) } else x
  let s := s.setCluster c x
  let cnt : Cnt := { court := pageCourt s (Page.st c), classes := 8 }
  let s := count s (Page.st c) 0x01 cnt
  let s := if fresh then fixedCount s (Page.st c) 0 1 else s
  showTap s c

/-- A feed word with the tap flag passes a cluster (R158, R162, R165). -/
def tapWord (s : State) (c : Nat) (a : TapArm) (row step : Nat) (f : Feed) : State :=
  let d := a.d
  let x := s.cluster c
  let chunk := (a.streams - 1) % (4 * d.ranges)
  let ks := (livePairs x a.tap).filter fun k => (pairOf x k).wants chunk
  let mine := x.ring.filter fun t => t.tap == a.tap
  if ks = [] ∨ !tapSampled d row step ∨ (ks.any fun k => (pairOf x k).dropped.contains row)
      ∨ (mine.any fun t => t.row == row && t.chunk == chunk)
      ∨ (ks.any fun k => (pairOf x k).formed.any fun b => b.row == row && (b.a == chunk || b.b == chunk)) then s
  else if d.ringSlots ≤ mine.length ∧ !d.defer then dropRow s c a.tap row
  else
    let known := mine.any (fun t => t.row == row) || ks.any fun k => (pairOf x k).formed.any fun b => b.row == row
    capture s c d a.tap row chunk f (!known)

/-! ## Forming blocks in idle slots (R163) -/

/-- Form up to n ready blocks in order. -/
def formBlocks (s : State) (c n : Nat) : State :=
  let x := s.cluster c
  let now := x.ready.take n
  if now = [] then s
  else
    let x := { x with ready := x.ready.drop n }
    let x := forEach now x fun x e => setPair x e.1 { pairOf x e.1 with formed := (pairOf x e.1).formed ++ [e.2] }
    let x := { x with ring := x.ring.filter fun t => !slotDone x t }
    let s := s.setCluster c x
    let s := count s (Page.st c) 0x02 { n := now.length, court := pageCourt s (Page.st c) }
    showTap (fixedCount s (Page.st c) 1 now.length) c

/-- An idle slot of a cluster: each of its four units forms one block. -/
def idleSlot (s : State) (c : Nat) : State :=
  let cnt : Cnt := { court := pageCourt s (Page.st c) }
  if (s.cluster c).ready = [] then count s (Page.st c) 0x04 cnt
  else
    let s := count s (Page.st c) 0x03 cnt
    let s := count s (Page.tu c) 0x05 cnt
    formBlocks s c 4

/-- While no stream is in flight every region step is an idle slot: all ready blocks of a region are formed. -/
def formAll (s : State) (r : Nat) : State :=
  forEach (clustersOf r) s fun s c => formBlocks s c (s.cluster c).ready.length

/-- Does a ring without room hold the next stream start under defer (R165)? -/
def tapHolds (s : State) (r : Nat) : Bool :=
  (parts s r).any fun e =>
    let x := s.cluster (clusterOf r e.2)
    (s.region r).taps.any fun a => a.d.defer && decide (a.d.ringSlots ≤ (x.ring.filter fun t => t.tap == a.tap).length)

/-! ## Arm and close (R158) -/

/-- Read the descriptor as every participating cluster does; none where it cannot be used. -/
def tapRead (s : State) (h : Hdr) (a : Nat) : State × Option (List Byte) :=
  (parts s h.region.toNat).foldl (fun (acc : State × Option (List Byte)) _ =>
    match acc with
    | (s, none) => (s, none)
    | (s, some _) =>
      match consume s (regionWho s h 3) a 64 (s.prog h).pc with
      | (s, none) => (s, none)
      | (s, some (bs, _)) => (s, some bs)) (s, some [])

/-- The clusters and pairs of a step's tiles: position p lies in the (p mod C)-th participating cluster (R157). -/
def tapSeats (s : State) (r : Nat) (ts : List TapTile) : List (TapTile × Nat × Nat) :=
  let ps := parts s r
  ts.filterMap fun t => (ps[t.pos % ps.length]?).map fun e => (t, clusterOf r e.2, t.pos / ps.length)

def armTap (s : State) (r : Nat) (arm : TapArm) : State :=
  let seats := tapSeats s r (tapGroup arm.d arm.step)
  let s := forEach seats s fun s e =>
    let p : TapPair := { TapPair.free with used := true, arm := arm, tile := e.1.tile, rangeI := e.1.rangeI, rangeJ := e.1.rangeJ }
    showTap (s.updCluster e.2.1 fun x => setPair x e.2.2 p) e.2.1
  showArmed (s.updRegion r fun x => { x with taps := x.taps ++ [arm] }) r

/-- Do a group's positions meet those of an armed index (R158)? -/
def tapOverlaps (s : State) (r : Nat) (ts : List TapTile) : Bool :=
  (s.region r).taps.any fun t => (tapGroup t.d t.step).any fun x => ts.any fun y => x.pos == y.pos

/-- Is a slot pair of the group still drained for an index closed before? The arm waits for it (DEDUCED, notes/assumptions/36.md). -/
def tapDraining (s : State) (r : Nat) (ts : List TapTile) : Bool :=
  (tapSeats s r ts).any fun e => let p := pairOf (s.cluster e.2.1) e.2.2; p.used && p.closed

/-- TAP_ARM. -/
def execTapArm (h : Hdr) (tap : BitVec 3) (a : AddrOp) (s : State) : Host.Outcome State Fault Refusal :=
  let r := h.region.toNat
  let addr := addrOf (s.prog h) a
  let seen := ((tileData s addr).1.drop (addr % tileBytes)).take 64
  let busy := rebuildWaits s addr 64 || tapDraining s r (tapGroup (tapFields seen) (stepOf s h))
  issue s h 0 true (if busy then .hazard else .yes) fun s =>
    let c := lowest s r
    let step := stepOf s h
    if addr % 64 ≠ 0 ∨ (s.region r).taps.any fun t => t.tap == tap.toNat then stFault s c Err.st_tap_descriptor
    else match tapRead s h addr with
      | (s, none) => s
      | (s, some bs) =>
        let n := (parts s r).length
        let ts := tapGroup (tapFields bs) step
        if !tapValid bs || ts.any fun t => decide (2 * n ≤ t.pos) then stFault s c Err.st_tap_descriptor
        else if tapOverlaps s r ts then stFault s c Err.st_tap_overlap
        else armTap s r ⟨tap.toNat, bs, addr, step, 0⟩

/-- Rows captured for a pair that lack a chunk. -/
def openRows (x : Cluster) (p : TapPair) : List Nat :=
  let rs := (p.formed.map (·.row) ++ (x.ring.filter fun t => t.tap == p.arm.tap && p.wants t.chunk).map (·.row)).eraseDups
  rs.filter fun r => p.formedOf r != p.need && !p.dropped.contains r

/-- Close the pairs of an index in a cluster: what is ready is formed, rows that lack a chunk are discarded (R166). -/
def closeTap (s : State) (c tap : Nat) : State :=
  let s := formBlocks s c (s.cluster c).ready.length
  let x := s.cluster c
  let ks := livePairs x tap
  if ks = [] then s
  else
    let lost := (ks.map fun k => (openRows x (pairOf x k)).length).sum
    let x' := forEach ks x fun y k =>
      let p := pairOf x k
      let rows := p.rows
      setPair y k { p with closed := true, incomplete := (openRows x p).length, formed := p.formed.filter fun b => rows.contains b.row }
    let s := showTap (s.setCluster c { x' with ring := x.ring.filter fun t => t.tap != tap }) c
    if lost = 0 then s else stFault (s.satFld (Page.st c) F.ST_INCOMPLETE_rows lost) c Err.st_tap_incomplete

/-- TAP_CLOSE. -/
def execTapClose (h : Hdr) (tap : BitVec 3) (s : State) : Host.Outcome State Fault Refusal :=
  let r := h.region.toNat
  issue s h 0 true .yes fun s =>
    if (s.region r).taps.any fun t => t.tap == tap.toNat then
      let s := s.updRegion r fun x => { x with taps := x.taps.filter fun t => t.tap != tap.toNat }
      showArmed (forEach (clustersOf r) s fun s c => closeTap s c tap.toNat) r
    else stFault s (lowest s r) Err.st_tap_order

/-! ## Accumulation and drain (R166 to R169) -/

def rne32 (v : XNum) : XNum := fp32.decode (fp32.round .rne 0 false v).1

/-- One compensated addition of a product (R166). -/
def compAdd (sc : XNum × XNum) (p : XNum) : XNum × XNum :=
  let (sum, comp) := sc
  let add (a b : XNum) := rne32 (a.add b).1
  let sub (a b : XNum) := rne32 (a.sub b).1
  let t := add sum p
  if t.isFinite then
    if p.abs.le sum.abs then (t, add comp (add (sub sum t) p)) else (t, add comp (add (sub p t) sum))
  else (t, .zero)

/-- The elements of a captured chunk. -/
def chunkNums (fmt : Nat) (bs : List Byte) : List XNum :=
  let es := unpackBits (Fmt.bits fmt) 64 bs
  (es.zip (List.range 64)).map fun (e, k) =>
    if Fmt.isMx fmt then mxNum fmt ((bs[128 + k / 32]?).getD 0#8).toNat e else elemNum fmt e

/-- The sum and compensation of element (x, y) of a pair's tile over its accumulated rows. -/
def tapSum (p : TapPair) (x y : Nat) : XNum × XNum :=
  let d := p.arm.d
  let rows := p.rows
  let a := p.rangeI * 4 + x / 64
  let b := p.rangeJ * 4 + y / 64
  let bs := p.formed.filter fun k => k.a == a && k.b == b && rows.contains k.row
  bs.foldl (fun sc k =>
    let u := ((chunkNums d.fmt k.x)[x % 64]?).getD .zero
    let v := ((chunkNums d.fmt k.y)[y % 64]?).getD .zero
    compAdd sc (rne32 (u.mul v).1)) (.zero, .zero)

/-- Element (x, y) as drained: FP32 bits (R167); `old` is the element of the old copy. -/
def tapElem (p : TapPair) (old : Option Nat) (x y : Nat) : Nat :=
  let d := p.arm.d
  let (sum, comp) := tapSum p x y
  let m := rne32 ((rne32 (sum.add comp).1).div (.ofNat p.rows.length)).1
  let f := match old with
    | none => m
    | some o =>
      let beta := fp32.decode d.beta
      let omb := rne32 (XNum.one.sub beta).1
      (beta.fma (fp32.decode o) (rne32 (omb.mul m).1)).1
  (fp32.round .rne 0 false f).1

/-- Element (x, y) of the new copy; in a diagonal tile's lower blocks it is a copy of element (y, x) (R167). `old` holds
the elements of the old copy. -/
def tapValue (p : TapPair) (old : Option (Array Nat)) (x y : Nat) : Nat :=
  let at' (x y : Nat) := tapElem p (old.map fun a => (a[256 * x + y]?).getD 0) x y
  if p.diag ∧ y / 64 < x / 64 then at' y x else at' x y

/-- Data tile k (1 to 64) of a drained copy: its 1,024 elements. -/
def tapTileWords (p : TapPair) (old : Option (Array Nat)) (k : Nat) : List Nat :=
  (List.range 1024).map fun i => tapValue p old (4 * (k - 1) + i / 256) (i % 256)

/-- The 32-bit words of bytes. -/
def wordsOf : List Byte → List Nat
  | a :: b :: c :: d :: t => leNat [a, b, c, d] :: wordsOf t
  | _ => []

/-- A copy's header as read: valid under R168, with its drain_seq. -/
def copySeq (bs : List Byte) : Option Nat :=
  if bits (wordAt bs 0) 31 8 = 0xFAC701 ∧ bit (wordAt bs 0) 0 then some (wordAt bs 6) else none

/-- The newest valid copy of two headers. (DESIGN CHOICE, notes/assumptions/47.md) -/
def newestCopy (a b : Option Nat) : Option (Nat × Nat) :=
  match a, b with
  | some x, some y => if x < y then some (1, y) else some (0, x)
  | some x, none => some (0, x)
  | none, some y => some (1, y)
  | none, none => none

/-- The header of a drained copy (Table 7.3). -/
def tapHeader (p : TapPair) (court copy seq : Nat) (nonfinite noOld valid : Bool) : List Byte :=
  let d := p.arm.d
  wordBytes ([0xFAC70100 + valid.toNat, d.layer * 2 ^ 16 + d.kind.toNat * 2 ^ 15 + copy * 2 ^ 14,
    p.rangeI * 2 ^ 24 + p.rangeJ * 2 ^ 16 + p.tile, p.arm.step % 2 ^ 32, p.arm.step / 2 ^ 32, p.rows.length, seq, d.beta,
    court * 16 + (if p.dropped = [] then 0 else 8) + (if p.incomplete = 0 then 0 else 4) + nonfinite.toNat * 2 + noOld.toNat,
    p.dropped.length, p.incomplete] ++ List.replicate 5 0)

/-- Free a pair after its drain. -/
def freePair (s : State) (c k : Nat) : State := showTap (s.updCluster c fun x => setPair x k .free) c

/-- A 4-byte element that is NaN or infinite. -/
def badWord (w : Nat) : Bool := bits w 30 23 == 0xFF

/-- Step 3 of Table 7.4 from data tile 65 − n onward; it stops where an access is refused. The flag reports a
non-finite element. -/
def drainData (s : State) (w : Who) (p : TapPair) (old : Option (Array Nat)) (target : Nat) : Nat → Bool → State × Option Bool
  | 0, bad => (s, some bad)
  | n + 1, bad =>
    let k := 64 - n
    let ws := tapTileWords p old k
    match writeTile s w (target + k * tileBytes) (wordBytes ws) 1 with
    | (s, some _) => (s, none)
    | (s, none) => drainData s w p old target n (bad || ws.any badWord)

/-- The elements of the old copy, or nothing where the drain does not use one. -/
def oldData (s : State) (w : Who) : Option Nat → State × Option (Option (Array Nat))
  | none => (s, some none)
  | some o =>
    match consume s w (o + tileBytes) (64 * tileBytes) 0 with
    | (s, some (bs, _)) => (s, some (some (wordsOf bs).toArray))
    | (s, none) => (s, none)

/-- Drain one closed pair (Table 7.4). -/
def drainPair (s : State) (r c k : Nat) : State :=
  let p := pairOf (s.cluster c) k
  let d := p.arm.d
  let court := (s.courtOf r).getD 0
  let w : Who := ⟨s.courtOf r, 3, 0⟩
  let pg := Page.st c
  if p.rows = [] then freePair (stFault s c Err.st_tap_no_samples) c k
  else
    let base := (d.record + p.tile * 130 * tileBytes) % 2 ^ 48
    let copy (i : Nat) := base + i * 65 * tileBytes
    let (s, h0) := consume s w (copy 0) 64 0
    let (s, h1) := consume s w (copy 1) 64 0
    match h0, h1 with
    | some (b0, _), some (b1, _) =>
      let old := newestCopy (copySeq b0) (copySeq b1)
      let (t, seq) := match old with
        | some (o, q) => (1 - o, (q + 1) % 2 ^ 32)
        | none => (0, 1)
      let noOld := d.init || old.isNone
      match writeSpan s w (copy t) (tapHeader p court t seq false noOld false) 0 with
      | (s, some _) => freePair s c k
      | (s, none) =>
        let (s, f) := oldData s w (if noOld then none else old.map fun o => copy o.1)
        let (s, res) := match f with
          | none => (s, none)
          | some f => drainData s w p f (copy t) 64 false
        match res with
        | none => freePair s c k
        | some bad =>
          match writeSpan s w (copy t) (tapHeader p court t seq bad noOld true) 0 with
          | (s, some _) => freePair s c k
          | (s, none) =>
            let s := if bad then stFault s c Err.st_tap_nonfinite else s
            let s := count s pg 0x06 { court := s.courtOf r }
            let s := freePair s c k
            s.setReg (pg + 0x5C) (BitVec.ofNat 32
              (2 ^ 31 + d.kind.toNat * 2 ^ 30 + t * 2 ^ 29 + d.layer % 8192 * 2 ^ 16 + p.arm.step % 65536))
    | _, _ => freePair s c k

/-- The closed pairs of an index in a region. -/
def closedPairs (s : State) (r tap : Nat) : List (Nat × Nat) :=
  (clustersOf r).flatMap fun c => ([0, 1].filter fun k =>
    let p := pairOf (s.cluster c) k
    p.used && p.closed && p.arm.tap == tap).map fun k => (c, k)

/-- TAP_DRAIN: after a close each holding cluster drains its tiles (R167, R169). -/
def execTapDrain (region : BitVec 5) (tap : BitVec 3) (s : State) : Host.Outcome State Fault Refusal :=
  let r := region.toNat
  match closedPairs s r tap.toNat with
  | [] => turnedAway s
  | ps => effect s fun s => forEach ps s fun s e => drainPair s r e.1 e.2

end Sys2Proof.Machine
end

