-- ==== Sys2Proof/Machine/Tensor.lean ====
section
/-! DEFINITION. Tensor units: weight banks, column sums, matrix instructions and region steps (04_tensor_units.md R92 to
R102, R107, R115, R493 to R495; 05_accumulators.md R117; 09_ablos_encoding.md R206, R209, R232). -/

namespace Sys2Proof.Machine

/-! ## Weight banks (R94 to R98, R494, R495) -/

/-- Columns of the block of a weight format; `narrow` is the 64 × 64 block of MXFP4 (Table 4.1, R494). -/
def blockCols (wfmt : Nat) (narrow : Bool) : Nat :=
  match wfmt with
  | 10 => if narrow then 64 else 128
  | 12 => 256
  | 13 => 512
  | _ => 64

/-- Bytes of a block's elements. -/
def blockBytes (wfmt : Nat) (narrow : Bool) : Nat := 64 * blockCols wfmt narrow * Fmt.bits wfmt / 8

/-- Does a format carry scales beside its block, and how many bytes? -/
def scaleBytes (wfmt : Nat) (narrow : Bool) : Nat :=
  if Fmt.isMx wfmt || wfmt == 12 || wfmt == 13 then 2 * blockCols wfmt narrow else 0

/-- Format code of the scale tile (R494). -/
def scaleFmt (wfmt : Nat) : Nat := if Fmt.isMx wfmt then 15 else 2

/-- Weight W[k][n] of a bank under its scale, with the flags of forming it (R74, R94). -/
def bankWeight (bk : Bank) (els : Array Nat) (k n : Nat) : XNum × Flags :=
  let cols := blockCols bk.fmt bk.load.narrow
  let e := (els[k * cols + n]?).getD 0
  if Fmt.isMx bk.fmt then (mxNum bk.fmt (leAt bk.scales (2 * n + k / 32) 1) e, .none)
  else if bk.fmt = 12 ∨ bk.fmt = 13 then (bf16.decode (leAt bk.scales (2 * n) 2)).mul (elemNum bk.fmt e)
  else (elemNum bk.fmt e, .none)

/-- The element codes of a bank's block. -/
def bankEls (bk : Bank) : Array Nat :=
  (unpackBits (Fmt.bits bk.fmt) (64 * blockCols bk.fmt bk.load.narrow) bk.data).toArray

/-- Show a cluster's banks (TU_UNIT_STATE, TU_BANK_FMT). -/
def showBanks (s : State) (c : Nat) : State :=
  let x := s.cluster c
  let pg := Page.tu c
  let fmtOf (b : Bank) : Nat := if b.valid then b.fmt else 0
  let byte (u : Nat) : Nat :=
    let old := bits (s.reg (pg + 0x48)).toNat (8 * u + 7) (8 * u)
    old / 16 * 16 + (unitOf x u).sel.toNat * 8 + (unitOf x u).shadow.valid.toNat * 4
  let s := s.setReg (pg + 0x48) (BitVec.ofNat 32 (byte 0 + byte 1 * 2 ^ 8 + byte 2 * 2 ^ 16 + byte 3 * 2 ^ 24))
  s.setReg (pg + 0x60) (BitVec.ofNat 32
    ((List.range 4).foldl (fun v u => v + (fmtOf (unitOf x u).active + fmtOf (unitOf x u).shadow * 16) * 256 ^ u) 0))

/-- The bank a stream will read. -/
def streamBank (t : TUnit) (swap : Bool) : Bank := if swap then t.shadow else t.active

/-- What the start check of a bank finds (R495, Table 4.2): usable, never loaded, or why not. -/
def bankCheck (b : Bank) (wfmt w : Nat) : BankCause :=
  if b.valid then
    if b.fmt = wfmt ∧ blockCols b.fmt b.load.narrow = 64 * w then .none else .formatMismatch
  else b.cause

/-- The bank checks of every participating unit: cluster and cause. -/
def bankChecks (s : State) (r : Nat) (swap : Bool) (wfmt w : Nat) : List (Nat × BankCause) :=
  (parts s r).flatMap fun e => (List.range 4).map fun u =>
    (clusterOf r e.2, bankCheck (streamBank (unitOf (s.cluster (clusterOf r e.2)) u) swap) wfmt w)

/-- Raise the recorded cause of a load again, on the page it belongs to (R97). -/
def raiseCause (s : State) (h : Hdr) (c : Nat) (k : BankCause) : State :=
  let w := regionWho s h 0
  match k with
  | .none => s
  | .empty => s
  | .formatMismatch => raise s (Page.tu c) Err.tu_format_mismatch
  | .refused 0 a => noteRefused s w a .stackRetired
  | .refused 1 a => noteRefused s w a .addressRange
  | .refused 2 a => noteRefused s w a .courtRange
  | .refused _ a => noteRefused s w a .tagMismatch
  | .poison a => poisonConsumed s w a (s.prog h).pc
  | .versionAbsent a => noteIn s (Page.caddie (stackOf a)) Err.caddie_version_absent w.court

/-- Each cause once: a format difference once for each cluster, the others once for each address. -/
def distinctCauses (l : List (Nat × BankCause)) : List (Nat × BankCause) :=
  l.foldl (fun acc e =>
    if e.2 = .none ∨ e.2 = .empty then acc
    else if acc.any fun a => a.2 == e.2 && (e.2 != .formatMismatch || a.1 == e.1) then acc else acc ++ [e]) []

/-! ## Products and the column tree (R76, R117) -/

/-- The elements of a feed word under its scales. -/
def feedNums (afmt : Nat) (f : Feed) : List XNum :=
  let es := unpackBits (Fmt.bits afmt) 64 f.bytes
  (es.zip (List.range 64)).map fun (e, k) =>
    if Fmt.isMx afmt then mxNum afmt ((f.scales[k / 32]?).getD 0) e else elemNum afmt e

/-- One level of the tree. -/
def treeLevel (col : Nat) : List XNum → List XNum × Flags × List NanEv
  | a :: b :: t =>
    let (v, f) := add40 a b
    let (vs, f2, evs) := treeLevel col t
    (v :: vs, f.or f2, (if f.invalid then [⟨1, col, a, b⟩] else []) ++ evs)
  | l => (l, .none, [])

/-- The column tree of depth 6. -/
def columnTree (col : Nat) : Nat → List XNum → XNum × Flags × List NanEv
  | 0, vs => (vs.headD .zero, .none, [])
  | k + 1, vs =>
    let (vs, f, evs) := treeLevel col vs
    let (v, f2, evs2) := columnTree col k vs
    (v, f.or f2, evs ++ evs2)

/-- s[n] of one column (R92): its sum, flags and created NaNs. -/
def columnSum (bk : Bank) (els : Array Nat) (as : List XNum) (n : Nat) : XNum × Flags × List NanEv :=
  let ps := (as.zip (List.range 64)).map fun (a, k) =>
    let (w, f) := bankWeight bk els k n
    let (p, g) := a.mul w
    (p, f.invalid || g.invalid, a, w)
  let inv := ps.any fun p => p.2.1
  let evs := ps.filterMap fun p => if p.2.1 then some ⟨0, n, p.2.2.1, p.2.2.2⟩ else none
  let (v, f, evs2) := columnTree n 6 (ps.map (·.1))
  (v, f.or { invalid := inv }, evs ++ evs2)

/-- The column sums of a unit for one activation row. -/
def unitSums (bk : Bank) (as : List XNum) : List XNum × Flags × List NanEv :=
  let els := bankEls bk
  let rs := (List.range (blockCols bk.fmt bk.load.narrow)).map (columnSum bk els as)
  (rs.map (·.1), rs.foldl (fun f r => f.or r.2.1) .none, rs.flatMap (·.2.2))

/-! ## The matrix instruction (R99, R102, R119, R209) -/

/-- The lowest reason of Table 9.14 of a matrix word. -/
def matrixReason (s : State) (h : Hdr) (m : MatrixOp) : Nat :=
  let mx := Fmt.isMx m.afmt.toNat
  if (!m.tap && m.tapIndex != 0#3) || (m.srcPb && (m.src.areg != 0#4 || decide (256 ≤ m.src.disp.toNat)))
      || ((!mx || m.srcPb) && m.scaleAreg != 0#4) then 3
  else if (pairWidth m.wfmt.toNat m.afmt.toNat).isNone then 4
  else if m.swap && !m.start then 6
  else if m.srcPb && decide ((s.region h.region.toNat).pbs.length ≤ m.src.disp.toNat) then 8
  else 0

def matrixRows (m : MatrixOp) : Nat := m.lenM1.toNat + 1
def matrixWidth (m : MatrixOp) : Nat := (pairWidth m.wfmt.toNat m.afmt.toNat).getD 1

/-- Bytes of one row in a pass buffer: its feed word and, for MX, its two scales. -/
def matrixRowBytes (m : MatrixOp) : Nat := feedBytes m.afmt.toNat + (if Fmt.isMx m.afmt.toNat then 2 else 0)

/-- What a matrix instruction meets at issue. -/
inductive MatrixCheck where
  | go
  | hazard
  | counted (kind pb : Nat)
  | streamOrder
  | inDead
  | otherPair
  | illegalWidth
  | drainLength
  | pbFormat
  | mapFull
  | group
  deriving DecidableEq, Repr

/-- Does the stream in flight keep this program's matrix instructions from issuing: another program's open stream
(R232), or an earlier stream whose region steps still run before a start? -/
def streamBlocks (x : Region) (task start : Bool) : Bool :=
  match x.stream with
  | some t => (!t.drained && t.task != task) || (t.drained && start)
  | none => false

def openStream (x : Region) : Option Stream :=
  match x.stream with
  | some t => if t.drained then none else some t
  | none => none

/-- The address of the feed words and of the MX scales. -/
def matrixSrc (p : Prog) (m : MatrixOp) : Nat := addrOf p m.src
def matrixScales (p : Prog) (m : MatrixOp) : Nat := ((aReg p m.scaleAreg.toNat).toNat + 2 * m.rowBase.toNat) % 2 ^ 48

/-- Where the source is not ready: a tile waits for rebuild, or a pass buffer holds too few bytes. -/
def sourceWaits (s : State) (h : Hdr) (m : MatrixOp) : MatrixCheck :=
  if m.srcPb then
    match pbDesc s h.region.toNat m.src.disp.toNat with
    | none => .go
    | some d => if available s d < matrixRows m * matrixRowBytes m then .counted 2 m.src.disp.toNat else .go
  else
    let p := s.prog h
    if rebuildWaits s (matrixSrc p m) (matrixRows m * feedBytes m.afmt.toNat)
        || (Fmt.isMx m.afmt.toNat && rebuildWaits s (matrixScales p m) (2 * matrixRows m)) then .hazard else .go

/-- The checks of a matrix instruction at issue, in order. (DESIGN CHOICE, notes/assumptions/32.md) (DESIGN CHOICE, notes/assumptions/34.md) -/
def matrixCheck (s : State) (h : Hdr) (m : MatrixOp) : MatrixCheck :=
  let r := h.region.toNat
  let x := s.region r
  let w := matrixWidth m
  let gs := groupChecks s r 15 m.opens m.tile.toNat w m.depth.toNat
  let badPb : Bool := m.srcPb && (match pbDesc s r m.src.disp.toNat with
    | some d => d.format != m.afmt.toNat
    | none => false)
  if streamBlocks x h.task m.start then .hazard
  else if m.start && (openStream x).isSome then .streamOrder
  else if !m.start && (openStream x).isNone then .streamOrder
  else if (match openStream x with | some t => t.dead | none => false) then .inDead
  else if (match openStream x with | some t => t.wfmt != m.wfmt.toNat || t.afmt != m.afmt.toNat | none => false) then .otherPair
  else if m.tile.toNat % w ≠ 0 then .illegalWidth
  else if m.drain && decide (64 < matrixRows m + dmax s r) then .drainLength
  else if badPb then .pbFormat
  else if (match openStream x with | some t => decide (64 ≤ t.insts.length) | none => false) then .mapFull
  else if anyFails gs then .group
  else if anyWaits gs then .hazard
  else if m.start && (bankChecks s r m.swap m.wfmt.toNat w).any fun e => e.2 == .empty then .hazard
  else if m.start && tapHolds s r then .counted 3 0
  else sourceWaits s h m

/-- Poison met in a pass-buffer entry by its consumer (R227, R397). -/
def poisonEntry (s : State) (h : Hdr) : State :=
  raiseDevice s 0xF001 { page := Page.rg h.region.toNat, court := s.courtOf h.region.toNat, detail := [0, 0, 0, (s.prog h).pc] }

/-- Cut a byte run into rows of a matrix instruction. -/
def cutRows (m : MatrixOp) (index : Nat) (bs scales : List Byte) : List Feed :=
  let f := feedBytes m.afmt.toNat
  (List.range (matrixRows m)).map fun j =>
    { index := index, row := j, bytes := (bs.drop (j * f)).take f
      scales := if Fmt.isMx m.afmt.toNat then [leAt scales (2 * j) 1, leAt scales (2 * j + 1) 1] else [] }

/-- The feed words of an instruction from memory, or none where they cannot be used: a refusal, poison, or a format that
differs (R62), which raises format-mismatch. (DESIGN CHOICE, notes/assumptions/35.md) -/
def feedMemory (s : State) (h : Hdr) (m : MatrixOp) (index : Nat) (p : Prog) : State × Option (List Feed) :=
  let r := h.region.toNat
  let w := regionWho s h 0
  match consume s w (matrixSrc p m) (matrixRows m * feedBytes m.afmt.toNat) p.pc with
  | (s, none) => (s, none)
  | (s, some (bs, fs)) =>
    if !formatsAgree m.afmt.toNat fs then (raise s (Page.tu (lowest s r)) Err.tu_format_mismatch, none)
    else if Fmt.isMx m.afmt.toNat then
      match consume s w (matrixScales p m) (2 * matrixRows m) p.pc with
      | (s, none) => (s, none)
      | (s, some (sc, gs)) =>
        if !formatsAgree 15 gs then (raise s (Page.tu (lowest s r)) Err.tu_format_mismatch, none)
        else (s, some (cutRows m index bs sc))
    else (s, some (cutRows m index bs []))

/-- The feed words of an instruction from its pass buffer; poison stops it. -/
def feedPb (s : State) (h : Hdr) (m : MatrixOp) (index : Nat) : State × Option (List Feed) :=
  match pbDesc s h.region.toNat m.src.disp.toNat with
  | none => (s, none)
  | some d =>
    let (s, bs, bad) := takeBytes s d (matrixRows m * matrixRowBytes m)
    if bad then (poisonEntry s h, none)
    else
      let f := feedBytes m.afmt.toNat
      let row (j : Nat) : List Byte := (bs.drop (j * matrixRowBytes m)).take (matrixRowBytes m)
      (s, some (cutRows m index ((List.range (matrixRows m)).flatMap fun j => (row j).take f)
        ((List.range (matrixRows m)).flatMap fun j => (row j).drop f)))

/-- Swap both banks of every participating unit (R99). -/
def swapBanks (s : State) (r : Nat) : State :=
  forEach (parts s r) s fun s e =>
    let c := clusterOf r e.2
    showBanks (s.updCluster c fun x => forEach (List.range 4) x fun x u =>
      let t := unitOf x u
      setUnit x u { t with active := t.shadow, shadow := t.active, sel := !t.sel }) c

/-- Map entries of a stream (R206). -/
def mapOf (t : Stream) : List MapEntry :=
  t.insts.map fun i => ⟨i.start, i.cover, i.tile, i.width, i.cover != i.rows⟩

/-- A drain issues: the program's map is that of the stream, and no stream is open. -/
def drainIssued (s : State) (h : Hdr) (t : Stream) : State :=
  let r := h.region.toNat
  let s := updProg s r h.task fun p => { p with map := some (if t.dead then [] else mapOf t) }
  s.updRegion r fun x => { x with stream := if t.dead then none else some { t with drained := true } }

/-- A start whose banks cannot serve (R495): the swap takes place, the stream has no effect. (DESIGN CHOICE, notes/assumptions/33.md) -/
def startDead (s : State) (h : Hdr) (m : MatrixOp) (bad : List (Nat × BankCause)) : State :=
  let r := h.region.toNat
  let s := if m.swap then swapBanks s r else s
  let t : Stream := ⟨h.task, stepOf s h, m.wfmt.toNat, m.afmt.toNat, matrixWidth m, [], [], 0, false, true, [], []⟩
  let s := s.updRegion r fun x => { x with stream := some t }
  let s := if m.drain then drainIssued s h t else s
  forEach bad s fun s e => raiseCause s h e.1 e.2

/-- The tap indices a stream counts: the first tapped instruction of an index counts one K-chunk of it (R158), and a
format that differs from the descriptor's raises tap-format once for the stream (R160). (DESIGN CHOICE, notes/assumptions/44.md) -/
def noteTap (s : State) (r : Nat) (m : MatrixOp) (t : Stream) : State × Stream :=
  let k := m.tapIndex.toNat
  if !m.tap || t.taps.contains k then (s, t)
  else match (s.region r).taps.find? fun a => a.tap == k with
    | none => (s, t)
    | some a =>
      let s := s.updRegion r fun x =>
        { x with taps := x.taps.map fun b => if b.tap = k then { b with streams := b.streams + 1 } else b }
      if a.d.fmt = m.afmt.toNat then (s, { t with taps := t.taps ++ [k] })
      else (stFault s (lowest s r) Err.st_tap_format, { t with taps := t.taps ++ [k], badTaps := t.badTaps ++ [k] })

/-- The groups of a matrix instruction at issue: opened, and closed to later instructions (R119). -/
def issueGroups (s : State) (h : Hdr) (m : MatrixOp) (addr step : Nat) : State :=
  let g : Group := ⟨m.tile.toNat, matrixWidth m, m.depth.toNat, m.closes, false, false, addr, step⟩
  if m.opens then forUnits s h.region.toNat 15 fun t => openIn t g
  else if m.closes then
    forUnits s h.region.toNat 15 fun t => updGroup t m.tile.toNat fun g => { g with closing := true, addr := addr, step := step }
  else s

/-- A matrix instruction joins the stream: its groups, its feed words, its map entry, its token. -/
def matrixJoin (s : State) (h : Hdr) (m : MatrixOp) (t : Stream) (fs : List Feed) (addr : Nat) : State :=
  let r := h.region.toNat
  let step := stepOf s h
  let s := issueGroups s h m addr step
  let (s, t) := noteTap s r m t
  let i : Matrix :=
    { start := t.feeds.length, rows := matrixRows m, cover := matrixRows m + (if m.drain then dmax s r else 0), tile := m.tile.toNat
      width := matrixWidth m, opens := m.opens, closes := m.closes, depth := m.depth.toNat
      tap := if m.tap then some m.tapIndex.toNat else none, rowBase := m.rowBase.toNat, addr := addr }
  let t := { t with insts := t.insts ++ [i], feeds := t.feeds ++ fs }
  let s := s.updRegion r fun x => { x with stream := some t }
  let s := if m.drain then drainIssued s h t else s
  hold s h addr 1 (.matrix (t.insts.length - 1))

/-- A matrix instruction that passed its checks. -/
def matrixGo (s : State) (h : Hdr) (m : MatrixOp) (p : Prog) : State :=
  let r := h.region.toNat
  let bad := if m.start then distinctCauses (bankChecks s r m.swap m.wfmt.toNat (matrixWidth m)) else []
  if bad ≠ [] then startDead s h m bad
  else
    let index := match openStream (s.region r) with
      | some t => t.insts.length
      | none => 0
    match (if m.srcPb then feedPb s h m index else feedMemory s h m index p) with
    | (s, none) => s
    | (s, some fs) =>
      match openStream (s.region r) with
      | some t => matrixJoin s h m t fs p.pc
      | none =>
        let s := formAll s r
        let s := if m.swap then swapBanks s r else s
        matrixJoin s h m ⟨h.task, stepOf s h, m.wfmt.toNat, m.afmt.toNat, matrixWidth m, [], [], 0, false, false, [], []⟩ fs p.pc

/-- MATRIX. -/
def execMatrix (h : Hdr) (m : MatrixOp) (s : State) : Host.Outcome State Fault Refusal :=
  let r := h.region.toNat
  let chk := matrixCheck s h m
  let p := s.prog h
  let ready : Ready := match chk with
    | .hazard => .hazard
    | .counted k pb => .counted k pb
    | _ => .yes
  let drain (s : State) : State := match pbDesc s r m.src.disp.toNat with
    | some d => if m.srcPb then drainStore s d (matrixRows m * matrixRowBytes m) else s
    | none => s
  issue s h (matrixReason s h m) true ready (onWait := drain) fun s =>
    let low := Page.tu (lowest s r)
    match chk with
    | .go => matrixGo s h m p
    | .hazard => s
    | .counted _ _ => s
    | .streamOrder => raise s low Err.tu_stream_order
    | .inDead => match (s.region r).stream with
      | some t => if m.drain then drainIssued s h t else s
      | none => s
    | .otherPair => raise s low Err.tu_format_mismatch
    | .illegalWidth => raise s low Err.tu_illegal_width
    | .drainLength => raise s low Err.tu_drain_length
    | .pbFormat => raise s (Page.rg r) Err.rg_pb_format
    | .mapFull => raise s (Page.rg r) Err.rg_stream_map
    | .group => raiseGroup s m.tile.toNat (groupChecks s r 15 m.opens m.tile.toNat (matrixWidth m) m.depth.toNat)

/-! ## Region steps (R100 to R102, Table 4.3) -/

/-- The instruction that covers the position of a step. -/
def instAt (t : Stream) (j : Nat) : Option (Nat × Matrix) :=
  (t.insts.zip (List.range t.insts.length)).findSome? fun e =>
    if e.1.start ≤ j ∧ j < e.1.start + e.1.cover then some (e.2, e.1) else none

/-- Positions of the stream that have words or tail so far. -/
def streamEnd (t : Stream) : Nat := (t.insts.map fun i => i.start + i.cover).foldl max 0

/-- The word of cluster offset d at step j (R101). -/
def wordFor (t : Stream) (j d : Nat) : Option Feed := if j < d then none else t.feeds[j - d]?

/-- Raise the NaNs of a unit's sums (R87, R91). -/
def sumNans (s : State) (r p u : Nat) (i : Matrix) (row step afmt : Nat) (evs : List NanEv) : State :=
  forEach evs s fun s e =>
    nanTrap s (s.courtOf r)
      { source := e.source, region := r, phys := p, unit := u, lane := 0, tile := i.tile + e.col / 64, addr := i.addr
        step := step, cls := 1, element := row * 64 + e.col % 64, a := captureFp32 e.a, b := captureFp32 e.b, dstFmt := 14
        srcFmt := if e.source = 0 then afmt else 14, flags := 16 }

/-- One unit at one region step: its sums go to its tile row under the group rules. -/
def stepUnit (s : State) (r p u : Nat) (t : Stream) (i : Matrix) (row : Nat) (as : List XNum) (mark : BitVec 7) : State :=
  let c := clusterOf r p
  let (sums, f, evs) := unitSums (unitOf (s.cluster c) u).active as
  let s := sumNans s r p u i row t.step t.afmt evs
  let s := accFlags s c u f
  match (unitOf (s.cluster c) u).groups.find? fun g => g.base == i.tile with
  | none => s
  | some g => chunkIn s r p u g row mark ((List.range i.width).map fun b => (sums.drop (64 * b)).take 64) i.addr t.step 1

/-- Cells of a cluster use a substitute row. -/
def usesSubst (s : State) (c : Nat) : Bool :=
  (List.range 4).any fun u => s.fld (Page.tu c) F.TU_SUBST_MAP_sub0_used u == 1 || s.fld (Page.tu c) F.TU_SUBST_MAP_sub1_used u == 1

/-- One cluster at one region step (Table 4.3 steps 2 to 5), with the tap beside it. -/
def stepCluster (s : State) (r p : Nat) (t : Stream) (i : Matrix) : State :=
  let c := clusterOf r p
  let pg := Page.tu c
  let cnt : Cnt := { court := s.courtOf r }
  let s := if usesSubst s c then count s pg 0x07 cnt else s
  match wordFor t t.pos (offsetOf s r p) with
  | some f =>
    let s := count s pg 0x01 cnt
    let s := fixedCount s pg 0 1
    let as := feedNums t.afmt f
    let s := forEach (List.range 4) s fun s u =>
      stepUnit s r p u t i (t.pos - i.start) as (markOf (t.pos - offsetOf s r p))
    match t.insts[f.index]? with
    | some k =>
      (match k.tap with
       | some tap =>
         if t.badTaps.contains tap then s
         else match (s.region r).taps.find? fun a => a.tap == tap with
           | some a => tapWord s c a (k.rowBase + f.row) t.step f
           | none => s
       | none => s)
    | none => s
  | none =>
    let s := count s pg 0x02 cnt
    let s := forEach (List.range 4) s fun s u =>
      stepUnit s r p u t i (t.pos - i.start) (List.replicate 64 .zero) markNone
    idleSlot s c

/-- After a step: an instruction whose last step it was completes, and its close folds; the stream ends after its last
step. -/
def stepDone (s : State) (r : Nat) (t : Stream) (n : Nat) (i : Matrix) : State :=
  let last := t.pos + 1 == i.start + i.cover
  let s := s.updRegion r fun x => match x.stream with
    | some u => { x with stream := some { u with pos := t.pos + 1 } }
    | none => x
  let s := if last && i.closes then
      forUnits s r 15 fun u => { u with groups := u.groups.map fun g => if g.base = i.tile then { g with folds := true } else g }
    else s
  let s := if last then updProg s r t.task fun p => completeInflight p fun k => k.what == .matrix n else s
  if t.drained && t.pos + 1 == streamEnd t then formAll (s.updRegion r fun x => { x with stream := none }) r else s

/-- REGION_STEP (R100): the next step of the stream in flight, once its word is at hand. -/
def execRegionStep (region : BitVec 5) (s : State) : Host.Outcome State Fault Refusal :=
  let r := region.toNat
  match (s.region r).stream with
  | none => turnedAway s
  | some t =>
    match instAt t t.pos with
    | none => turnedAway s
    | some (n, i) => if s.power.gates then turnedAway s else effect s fun s =>
        let s := forEach (parts s r) s fun s e =>
          if (s.region r).stream.isNone then s else stepCluster s r e.2 t i
        match (s.region r).stream with
        | none => s
        | some _ => stepDone s r t n i

end Sys2Proof.Machine
end

