-- ==== Sys2Proof/Machine/Vector.lean ====
section
/-! DEFINITION. The vector engine: lanes, masks, generators, flag gathering, every operation class but the tile read, and
seeding (06_vector_lanes.md R137 to R141, R143 to R151, R154, R155; 09_ablos_encoding.md R211, Tables 9.9 and 9.10). -/

namespace Sys2Proof.Machine

/-! ## Generators (R147, R151) -/

def rotl32 (x : W32) (n : Nat) : W32 := x <<< n ||| x >>> (32 - n)

/-- One draw of xoshiro128++ and the state after it (R147). -/
def xoshiro (g : List W32) : W32 × List W32 :=
  match g with
  | [s0, s1, s2, s3] =>
    let draw := rotl32 (s0 + s3) 7 + s0
    let t := s1 <<< 9
    let s2 := s2 ^^^ s0
    let s3 := s3 ^^^ s1
    let s1 := s1 ^^^ s2
    let s0 := s0 ^^^ s3
    (draw, [s0, s1, s2 ^^^ t, rotl32 s3 11])
  | g => (0#32, g)

/-- The splitmix64 finaliser (R151). -/
def splitmix (z : BitVec 64) : BitVec 64 :=
  let z := (z ^^^ z >>> 30) * 0xBF58476D1CE4E5B9#64
  let z := (z ^^^ z >>> 27) * 0x94D049BB133111EB#64
  z ^^^ z >>> 31

/-- The state of lane i after seeding (R151). -/
def seedState (seed : BitVec 64) (lane : Nat) : List W32 :=
  let g := 0x9E3779B97F4A7C15#64
  let x := seed ^^^ BitVec.ofNat 64 lane <<< 56
  let z0 := splitmix (x + g)
  let z1 := splitmix (x + 2#64 * g)
  let s := [z0.setWidth 32, (z0 >>> 32).setWidth 32, z1.setWidth 32, (z1 >>> 32).setWidth 32]
  if s = [0#32, 0#32, 0#32, 0#32] then [1#32, 0#32, 0#32, 0#32] else s

/-- The generator of a lane; an unlisted one stands at seed 0 (R137). -/
def genOf (x : Cluster) (lane : Nat) : List W32 := KMap.get x.gens (seedState 0#64 lane) lane

/-- One draw of a lane. -/
def drawLane (x : Cluster) (lane : Nat) : Nat × Cluster :=
  let (d, g) := xoshiro (genOf x lane)
  (d.toNat, { x with gens := KMap.set x.gens (seedState 0#64 lane) lane g })

/-- Reseed all 128 lanes (R151). -/
def reseed (x : Cluster) (seed : BitVec 64) : Cluster :=
  { x with gens := forEach (List.range 128) x.gens fun m i => KMap.set m (seedState 0#64 i) i (seedState seed i) }

/-! ## Registers and masks (R137, R139) -/

def zeroLanes : List W32 := List.replicate 128 0#32

def vReg (x : Cluster) (n : Nat) : List W32 := KMap.get x.vregs zeroLanes n
def setVReg (x : Cluster) (n : Nat) (v : List W32) : Cluster := { x with vregs := KMap.set x.vregs zeroLanes n v }

/-- Element i of a vector register as bits. -/
def lane (x : Cluster) (n i : Nat) : Nat := ((vReg x n).getD i 0#32).toNat

/-- Element i of a vector register as a number. -/
def laneNum (x : Cluster) (n i : Nat) : XNum := fp32.decode (lane x n i)

/-- M0 reads as all ones (R137). -/
def maskReg (x : Cluster) (n : Nat) : BitVec 128 := if n = 0 then BitVec.allOnes 128 else KMap.get x.masks 0#128 n

/-- A write of M0 is ignored (R137). -/
def setMask (x : Cluster) (n : Nat) (v : BitVec 128) : Cluster :=
  if n = 0 then x else { x with masks := KMap.set x.masks 0#128 n v }

/-- The active lanes of an instruction, ascending (R139). -/
def activeLanes (x : Cluster) (o : VecOp) : List Nat :=
  (List.range 128).filter fun i => (maskReg x o.mask.toNat).getLsbD i

def rndOf (o : VecOp) : Rnd := Rnd.ofCode o.rnd.toNat
def usesSr (o : VecOp) : Bool := o.rnd == 3#2

/-- Merge lane results into a mask register: a masked lane keeps its bit or, in zero mode, becomes 0. -/
def writeMask (x : Cluster) (o : VecOp) (md : Nat) (bitOf : Nat → Bool) : Cluster :=
  let act := maskReg x o.mask.toNat
  let old := maskReg x md
  setMask x md (BitVec.ofNat 128 ((List.range 128).foldl (fun acc i =>
    let b := if act.getLsbD i then bitOf i else !o.zmode && old.getLsbD i
    if b then acc + 2 ^ i else acc) 0))

/-! ## Results of lanes -/

/-- A created NaN of a lane: its operands and the codes of source and result formats (R87, R89). -/
structure LaneNan where
  a : XNum
  b : Option XNum
  srcFmt : Nat
  dstFmt : Nat
  deriving DecidableEq, Repr

/-- The result of one lane: its bits, flags, and the NaN it created. -/
structure LaneRes where
  lane : Nat
  val : Nat
  flags : Flags
  nan : Option LaneNan
  deriving DecidableEq, Repr

/-- Write lane results into a destination: a lane without one keeps its element or becomes +0 by the mask mode. -/
def writeLanes (x : Cluster) (o : VecOp) (rs : List (Nat × Nat)) : Cluster :=
  let old := vReg x o.vd.toNat
  setVReg x o.vd.toNat ((List.range 128).map fun i =>
    match rs.find? fun e => e.1 == i with
    | some e => BitVec.ofNat 32 e.2
    | none => if o.zmode then 0#32 else old.getD i 0#32)

/-- Take one draw for each lane listed, in order, where the instruction draws: the lanes with their draws (R148). (DESIGN CHOICE, notes/assumptions/37.md) -/
def takeDraws (x : Cluster) (lanes : List Nat) (draws : Bool) : List (Nat × Nat) × Cluster :=
  if draws then
    lanes.foldl (fun acc i =>
      let (d, x) := drawLane acc.2 i
      (acc.1 ++ [(i, d)], x)) ([], x)
  else (lanes.map fun i => (i, 0), x)

/-- What an instruction does to one cluster: the cluster, lane results for flags and NaNs, draws taken, the error bits it
raises, and whether it had no effect (R143). -/
structure VeOut where
  cluster : Cluster
  results : List LaneRes
  draws : Nat
  errs : List Nat
  void : Bool
  deriving DecidableEq, Repr

/-! ## Flags and traps (R144, R145) -/

/-- Gather lane flags: the summary goes to the sticky word and the last-summary registers, and traps. -/
def gather (s : State) (c addr : Nat) (egress : Bool) (fl : List (Nat × Flags)) : State :=
  let sum := (fl.foldl (fun f e => f.or e.2) Flags.none).bits
  if sum = 0 then s
  else
    let p := Page.ve c
    let st := s.fld p F.VE_STICKY_flags ||| sum
    let s := s.setFld p F.VE_STICKY_flags st
    let s := s.setReg (p + 0x14) (BitVec.ofNat 32
      (let v := (s.reg (p + 0x14)).toNat; v - bits v 20 16 * 2 ^ 16 + st * 2 ^ 16))
    let s := s.setReg (p + 0x44) (BitVec.ofNat 32 (egress.toNat * 256 + sum))
    let s := s.setReg (p + 0x48) (BitVec.ofNat 32 addr)
    let s := count s p 0x08 { court := pageCourt s p }
    let mask := s.fld p F.VE_FLAG_TRAP_trap_mask
    if sum &&& mask = 0 then s
    else
      let s := if s.fld p F.VE_TRAP_INFO_valid = 1 then s
        else
          let ln := (fl.filter fun e => e.2.bits &&& mask != 0).foldl (fun m e => min m e.1) 127
          let s := s.setReg (p + 0x50) (BitVec.ofNat 32 (2 ^ 31 + ln * 2 ^ 17 + egress.toNat * 2 ^ 16 + sum))
          s.setReg (p + 0x54) (BitVec.ofNat 32 addr)
      count (raise s p Err.ve_flag_trap) p 0x09 { court := pageCourt s p }

/-- The NaN record of a VE lane: source 3, class 3. -/
def laneNan (s : State) (r p addr step ln : Nat) (fl : Flags) (e : LaneNan) : State :=
  nanTrap s (s.courtOf r)
    { source := 3, region := r, phys := p, unit := 0, lane := ln, tile := 0, addr := addr, step := step, cls := 3
      element := 0, a := captureFp32 e.a, b := (e.b.map captureFp32).getD 0, dstFmt := e.dstFmt, srcFmt := e.srcFmt
      flags := fl.bits }

/-- A VE error. -/
def veErr (s : State) (c bit : Nat) : State :=
  count (raise s (Page.ve c) bit) (Page.ve c) 0x09 { court := pageCourt s (Page.ve c) }

/-- The class of work a VE instruction counts as (Table 6.7). -/
inductive VeKind where
  | plain | long | tileRead | reduction
  deriving DecidableEq, Repr

/-- Put an instruction's outcome at one cluster into the state: the cluster, counters, errors, NaNs, flags. -/
def veApply (s : State) (r p addr step : Nat) (kind : VeKind) (nAct : Nat) (out : VeOut) : State :=
  let c := clusterOf r p
  let pg := Page.ve c
  let cnt : Cnt := { court := s.courtOf r }
  let s := s.setCluster c out.cluster
  let s := forEach out.errs s fun s b => veErr s c b
  if out.void then s
  else
    let s := count (fixedCount s pg 0 1) pg 0x01 cnt
    let s := count (count s pg 0x02 { cnt with n := nAct }) pg 0x03 { cnt with n := 128 - nAct }
    let s := match kind with
      | .plain => s
      | .long => count s pg 0x04 cnt
      | .tileRead => count s pg 0x05 cnt
      | .reduction => count s pg 0x06 cnt
    let s := count (fixedCount s pg 1 out.draws) pg 0x07 { cnt with n := out.draws }
    let s := forEach out.results s fun s e => match e.nan with
      | none => s
      | some n => laneNan s r p addr step e.lane e.flags n
    gather s c addr false (out.results.map fun e => (e.lane, e.flags))

/-- Run a VE instruction at every participating cluster of the region, ascending logical cluster. -/
def veRun (s : State) (h : Hdr) (o : VecOp) (kind : VeKind) (f : Cluster → VeOut) : State :=
  let r := h.region.toNat
  let addr := (s.prog h).pc - 1
  let step := stepOf s h
  forEach (parts s r) s fun s e =>
    let x := s.cluster (clusterOf r e.2)
    veApply s r e.2 addr step kind (activeLanes x o).length (f x)

/-- The lowest reason that operand fields give: unused ones must be 0 (0x03); then any other reason, 0 none. -/
def veReason (o : VecOp) (usesD usesA usesB usesC : Bool) (other : Nat) : Nat :=
  if (usesD || o.vd == 0#5) && (usesA || o.va == 0#5) && (usesB || o.vb == 0#5) && (usesC || o.vc == 0#5) then other else 3

/-- Does an instruction wait for the cluster's egress, or store writers? Every writer here completes at its command, so
no VE instruction waits beyond issue. -/
def veIssue (s : State) (h : Hdr) (reason : Nat) (o : VecOp) (kind : VeKind) (f : Cluster → VeOut) :
    Host.Outcome State Fault Refusal :=
  issue s h reason true .yes fun s => veRun s h o kind f

/-! ## Arithmetic (R140, R141) -/

/-- Round a lane's exact result to FP32 with the operation's own flags; a NaN from operands that are none is created. -/
def roundLane (o : VecOp) (i u : Nat) (v : XNum) (f : Flags) (a : XNum) (b : Option XNum) (operandNan : Bool) : LaneRes :=
  let (x, g) := fp32.round (rndOf o) u o.sat v
  let f := f.or g
  ⟨i, x, f, if v.isNan && !operandNan then some ⟨a, b, 1, 1⟩ else none⟩

/-- An elementwise operation of two operands. -/
def binary (o : VecOp) (op : XNum → XNum → XNum × Flags) (x : Cluster) : VeOut :=
  let (ds, x') := takeDraws x (activeLanes x o) (usesSr o)
  let rs := ds.map fun e =>
    let a := laneNum x o.va.toNat e.1
    let b := laneNum x o.vb.toNat e.1
    let (v, f) := op a b
    roundLane o e.1 e.2 v f a (some b) (a.isNan || b.isNan)
  ⟨writeLanes x' o (rs.map fun r => (r.lane, r.val)), rs, if usesSr o then ds.length else 0, [], false⟩

/-- An elementwise operation of one operand. -/
def unary (o : VecOp) (op : XNum → XNum × Flags) (x : Cluster) : VeOut :=
  let (ds, x') := takeDraws x (activeLanes x o) (usesSr o)
  let rs := ds.map fun e =>
    let a := laneNum x o.va.toNat e.1
    let (v, f) := op a
    roundLane o e.1 e.2 v f a none a.isNan
  ⟨writeLanes x' o (rs.map fun r => (r.lane, r.val)), rs, if usesSr o then ds.length else 0, [], false⟩

/-- The fused multiply-add: va × vb + vc with one rounding. -/
def fused (o : VecOp) (x : Cluster) : VeOut :=
  let (ds, x') := takeDraws x (activeLanes x o) (usesSr o)
  let rs := ds.map fun e =>
    let a := laneNum x o.va.toNat e.1
    let b := laneNum x o.vb.toNat e.1
    let c := laneNum x o.vc.toNat e.1
    let (v, f) := XNum.fma a b c
    roundLane o e.1 e.2 v f a (some b) (a.isNan || b.isNan || c.isNan)
  ⟨writeLanes x' o (rs.map fun r => (r.lane, r.val)), rs, if usesSr o then ds.length else 0, [], false⟩

/-- Bits moved with a change of sign only: no rounding, no flag, no draw (R140). -/
def moveBits (o : VecOp) (f : Nat → Nat) (x : Cluster) : VeOut :=
  let rs := (activeLanes x o).map fun i => (i, f (lane x o.va.toNat i))
  ⟨writeLanes x o rs, [], 0, [], false⟩

/-- −0 is ordered below +0 (R141). -/
def minNum (a b : XNum) : XNum × Flags :=
  if a.isNan || b.isNan then (.nan false, { invalid := a.isSnan || b.isSnan })
  else if a.isZero && b.isZero then (if a.signOf then a else b, {})
  else (if a.lt b then a else b, {})

def maxNum (a b : XNum) : XNum × Flags :=
  if a.isNan || b.isNan then (.nan false, { invalid := a.isSnan || b.isSnan })
  else if a.isZero && b.isZero then (if a.signOf then b else a, {})
  else (if a.lt b then b else a, {})

def execVeAdd (h : Hdr) (o : VecOp) (s : State) : Host.Outcome State Fault Refusal :=
  veIssue s h (veReason o true true true false 0) o .plain (binary o XNum.add)
def execVeSub (h : Hdr) (o : VecOp) (s : State) : Host.Outcome State Fault Refusal :=
  veIssue s h (veReason o true true true false 0) o .plain (binary o XNum.sub)
def execVeMul (h : Hdr) (o : VecOp) (s : State) : Host.Outcome State Fault Refusal :=
  veIssue s h (veReason o true true true false 0) o .plain (binary o XNum.mul)
def execVeMin (h : Hdr) (o : VecOp) (s : State) : Host.Outcome State Fault Refusal :=
  veIssue s h (veReason o true true true false 0) o .plain (binary o minNum)
def execVeMax (h : Hdr) (o : VecOp) (s : State) : Host.Outcome State Fault Refusal :=
  veIssue s h (veReason o true true true false 0) o .plain (binary o maxNum)
def execVeFma (h : Hdr) (o : VecOp) (s : State) : Host.Outcome State Fault Refusal :=
  veIssue s h (veReason o true true true true 0) o .plain (fused o)
def execVeNeg (h : Hdr) (o : VecOp) (s : State) : Host.Outcome State Fault Refusal :=
  veIssue s h (veReason o true true false false 0) o .plain (moveBits o fun v => v ^^^ 2 ^ 31)
def execVeAbs (h : Hdr) (o : VecOp) (s : State) : Host.Outcome State Fault Refusal :=
  veIssue s h (veReason o true true false false 0) o .plain (moveBits o fun v => v % 2 ^ 31)
def execVeCopy (h : Hdr) (o : VecOp) (s : State) : Host.Outcome State Fault Refusal :=
  veIssue s h (veReason o true true false false 0) o .plain (moveBits o id)
def execVeDiv (h : Hdr) (o : VecOp) (s : State) : Host.Outcome State Fault Refusal :=
  veIssue s h (veReason o true true true false 0) o .long (binary o XNum.div)
def execVeSqrt (h : Hdr) (o : VecOp) (s : State) : Host.Outcome State Fault Refusal :=
  veIssue s h (veReason o true true false false 0) o .long (unary o XNum.sqrt)
def execVeRsqrt (h : Hdr) (o : VecOp) (s : State) : Host.Outcome State Fault Refusal :=
  veIssue s h (veReason o true true false false 0) o .long (unary o XNum.rsqrt)
def execVeExp2 (h : Hdr) (o : VecOp) (s : State) : Host.Outcome State Fault Refusal :=
  veIssue s h (veReason o true true false false 0) o .long (unary o XNum.exp2)
def execVeLog2 (h : Hdr) (o : VecOp) (s : State) : Host.Outcome State Fault Refusal :=
  veIssue s h (veReason o true true false false 0) o .long (unary o XNum.log2)

/-! ## Comparisons and mask logic (R141) -/

/-- Compare lanes into a mask register; a NaN operand gives `onNan`, a signalling one sets invalid. -/
def compare (o : VecOp) (md : Nat) (onNan : Bool) (rel : XNum → XNum → Bool) (x : Cluster) : VeOut :=
  let av (i : Nat) := laneNum x o.va.toNat i
  let bv (i : Nat) := laneNum x o.vb.toNat i
  let rs := (activeLanes x o).map fun i =>
    ⟨i, 0, { invalid := (av i).isSnan || (bv i).isSnan }, none⟩
  ⟨writeMask x o md fun i => if (av i).isNan || (bv i).isNan then onNan else rel (av i) (bv i), rs, 0, [], false⟩

def execVeCompareEq (h : Hdr) (o : VecOp) (md : BitVec 3) (s : State) : Host.Outcome State Fault Refusal :=
  veIssue s h (veReason o false true true false 0) o .plain (compare o md.toNat false XNum.eq)
def execVeCompareNe (h : Hdr) (o : VecOp) (md : BitVec 3) (s : State) : Host.Outcome State Fault Refusal :=
  veIssue s h (veReason o false true true false 0) o .plain (compare o md.toNat true fun a b => !a.eq b)
def execVeCompareLt (h : Hdr) (o : VecOp) (md : BitVec 3) (s : State) : Host.Outcome State Fault Refusal :=
  veIssue s h (veReason o false true true false 0) o .plain (compare o md.toNat false XNum.lt)
def execVeCompareLe (h : Hdr) (o : VecOp) (md : BitVec 3) (s : State) : Host.Outcome State Fault Refusal :=
  veIssue s h (veReason o false true true false 0) o .plain (compare o md.toNat false XNum.le)
def execVeCompareGt (h : Hdr) (o : VecOp) (md : BitVec 3) (s : State) : Host.Outcome State Fault Refusal :=
  veIssue s h (veReason o false true true false 0) o .plain (compare o md.toNat false fun a b => b.lt a)
def execVeCompareGe (h : Hdr) (o : VecOp) (md : BitVec 3) (s : State) : Host.Outcome State Fault Refusal :=
  veIssue s h (veReason o false true true false 0) o .plain (compare o md.toNat false fun a b => b.le a)

/-- Mask logic, lane by lane under the instruction's own mask. -/
def maskLogic (o : VecOp) (md ma mb : Nat) (f : Bool → Bool → Bool) (x : Cluster) : VeOut :=
  ⟨writeMask x o md fun i => f ((maskReg x ma).getLsbD i) ((maskReg x mb).getLsbD i), [], 0, [], false⟩

def execMaskAnd (h : Hdr) (o : VecOp) (md ma mb : BitVec 3) (s : State) : Host.Outcome State Fault Refusal :=
  veIssue s h (veReason o false false false false 0) o .plain (maskLogic o md.toNat ma.toNat mb.toNat fun a b => a && b)
def execMaskOr (h : Hdr) (o : VecOp) (md ma mb : BitVec 3) (s : State) : Host.Outcome State Fault Refusal :=
  veIssue s h (veReason o false false false false 0) o .plain (maskLogic o md.toNat ma.toNat mb.toNat fun a b => a || b)
def execMaskXor (h : Hdr) (o : VecOp) (md ma mb : BitVec 3) (s : State) : Host.Outcome State Fault Refusal :=
  veIssue s h (veReason o false false false false 0) o .plain (maskLogic o md.toNat ma.toNat mb.toNat fun a b => a != b)
/-- NOT reads ma alone; mb must be 0. -/
def execMaskNot (h : Hdr) (o : VecOp) (md ma mb : BitVec 3) (s : State) : Host.Outcome State Fault Refusal :=
  veIssue s h (veReason o false false false false (if mb = 0#3 then 0 else 3)) o .plain
    (maskLogic o md.toNat ma.toNat mb.toNat fun a _ => !a)

/-! ## Conversions (Table 3.7, R69 to R74) -/

/-- The lanes of an MX block among those listed. -/
def blockLanes (ds : List (Nat × Nat)) (j : Nat) : List (Nat × Nat) := ds.filter fun e => e.1 / 32 == j

/-- Is a NaN in the result of a conversion created: the source is none (R87)? -/
def convNan (v : XNum) (scale : Option XNum) (srcFmt fmt : Nat) (isNan : Bool) : Option LaneNan :=
  if isNan && !v.isNan && !((scale.map XNum.isNan).getD false) then some ⟨v, scale, srcFmt, fmt⟩ else none

/-- Convert one lane's value to a format that is not MX: the code and its lane result, whose value is the code widened
back to FP32. -/
def convLane (o : VecOp) (fmt : Nat) (i u : Nat) (v scale : XNum) : Nat × LaneRes :=
  let packed := fmt == 12 || fmt == 13
  let (code, f) := convElem fmt (rndOf o) u o.sat scale v
  let w := if packed then (scale.mul (elemNum fmt code)).1 else elemNum fmt code
  (code, ⟨i, toFp32 w, f, convNan v (if packed then some scale else none) 1 fmt (w.isNan && !packed || packed && w.isNan && !scale.isNan && !v.isNan)⟩)

/-- Convert the lanes of one block to an MX format: its scale byte, and per lane the code and the lane result. (DESIGN CHOICE, notes/assumptions/38.md) -/
def convBlock (o : VecOp) (fmt : Nat) (es : List (Nat × Nat × XNum)) : Nat × List (Nat × LaneRes) :=
  let (sb, cs) := convMx fmt (rndOf o) (es.map fun e => e.2.1) o.sat (es.map fun e => e.2.2)
  (sb, (es.zip cs).map fun e =>
    let w := mxNum fmt sb e.2.1
    (e.2.1, ⟨e.1.1, toFp32 w, e.2.2, convNan e.1.2.2 none 1 fmt w.isNan⟩))

/-- CONVERT: each lane's value rounded to tfmt and written back widened exactly. -/
def convertLanes (o : VecOp) (fmt : Nat) (x : Cluster) : VeOut :=
  let (ds, x') := takeDraws x (activeLanes x o) (usesSr o)
  let rs := if Fmt.isMx fmt then
      (List.range 4).flatMap fun j =>
        ((convBlock o fmt ((blockLanes ds j).map fun e => (e.1, e.2, laneNum x o.va.toNat e.1))).2).map (·.2)
    else ds.map fun e => (convLane o fmt e.1 e.2 (laneNum x o.va.toNat e.1) (laneNum x o.vb.toNat e.1)).2
  ⟨writeLanes x' o (rs.map fun r => (r.lane, r.val)), rs, if usesSr o then ds.length else 0, [], false⟩

def isPacked (fmt : BitVec 4) : Bool := fmt == 12#4 || fmt == 13#4

def execConvert (h : Hdr) (o : VecOp) (tfmt : BitVec 4) (s : State) : Host.Outcome State Fault Refusal :=
  let ok := decide (2 ≤ tfmt.toNat ∧ tfmt.toNat ≤ 13)
  veIssue s h (veReason o true true (isPacked tfmt) false (if ok then 0 else 5)) o .plain (convertLanes o tfmt.toNat)

/-! ## Load and store (R143, R496) -/

/-- First byte, bit within it, and whether lane i's element (and MX scale byte) lies within the store. -/
def laneAt (m : VecMem) (i : Nat) : Nat × Nat × Bool :=
  let w := Fmt.bits m.fmt.toNat
  let b := m.cs.toNat * 8 + i * (m.strideM1.toNat + 1) * w
  (b / 8, b % 8, decide (b + w ≤ 8 * storeSize)
    && (!Fmt.isMx m.fmt.toNat || decide (m.scaleCs.toNat + i / 32 < storeSize)))

/-- Bytes an element at a bit offset touches. -/
def laneBytes (m : VecMem) (bitOff : Nat) : Nat := (bitOff + Fmt.bits m.fmt.toNat + 7) / 8

/-- The code of lane i's element. -/
def laneCode (x : Cluster) (m : VecMem) (i : Nat) : Nat :=
  let (a, b, _) := laneAt m i
  leNat (storeRead x a (laneBytes m b)) / 2 ^ b % 2 ^ Fmt.bits m.fmt.toNat

/-- Write lane i's element and the code of its lines. -/
def putLane (x : Cluster) (m : VecMem) (i code : Nat) : Cluster :=
  let (a, b, _) := laneAt m i
  let n := laneBytes m b
  let w := Fmt.bits m.fmt.toNat
  let old := leNat (storeRead x a n)
  storeWrite x a (leBytes n (old - old / 2 ^ b % 2 ^ w * 2 ^ b + code % 2 ^ w * 2 ^ b)) m.fmt.toNat

/-- The value a load delivers for a lane. -/
def loadNum (x : Cluster) (o : VecOp) (m : VecMem) (i : Nat) : XNum :=
  let f := m.fmt.toNat
  let code := laneCode x m i
  if Fmt.isMx f then mxNum f (leNat (storeRead x (m.scaleCs.toNat + i / 32) 1)) code
  else if isPacked m.fmt then ((laneNum x o.vb.toNat i).mul (elemNum f code)).1
  else elemNum f code

/-- A load: format codes of every line its active lanes read compared first; then lanes outside the store keep their
element and raise store-range. -/
def loadLanes (o : VecOp) (m : VecMem) (x : Cluster) : VeOut :=
  let act := activeLanes x o
  let inside := act.filter fun i => (laneAt m i).2.2
  let f := m.fmt.toNat
  if inside.any fun i => !storeAgrees x (laneAt m i).1 (laneBytes m (laneAt m i).2.1) f then
    ⟨x, [], 0, [Err.ve_format_mismatch], true⟩
  else
    let errs := if inside.length = act.length then [] else [Err.ve_store_range]
    let keep := (act.filter fun i => !(laneAt m i).2.2).map fun i => (i, lane x o.vd.toNat i)
    if f = 1 then
      ⟨writeLanes x o (keep ++ inside.map fun i => (i, laneCode x m i)), [], 0, errs, false⟩
    else
      let (ds, x') := takeDraws x inside (usesSr o)
      let rs := ds.map fun e =>
        let v := loadNum x o m e.1
        let vb := laneNum x o.vb.toNat e.1
        let nanIn := if isPacked m.fmt then vb.isNan else v.isNan
        roundLane o e.1 e.2 v { invalid := isPacked m.fmt && vb.isSnan } (elemNum f (laneCode x m e.1)) (some vb) nanIn
      ⟨writeLanes x' o (keep ++ rs.map fun r => (r.lane, r.val)), rs, if usesSr o then ds.length else 0, errs, false⟩

/-- A store: elements of va converted and written lane by lane, MX blocks with their scale byte. -/
def storeLanes (o : VecOp) (m : VecMem) (x : Cluster) : VeOut :=
  let act := activeLanes x o
  let inside := act.filter fun i => (laneAt m i).2.2
  let f := m.fmt.toNat
  let errs := if inside.length = act.length then [] else [Err.ve_store_range]
  if f = 1 then
    ⟨forEach inside x fun x i => putLane x m i (lane x o.va.toNat i), [], 0, errs, false⟩
  else
    let (ds, x') := takeDraws x inside (usesSr o)
    let n := if usesSr o then ds.length else 0
    if Fmt.isMx f then
      let out := (List.range 4).foldl (fun (acc : Cluster × List LaneRes) j =>
        let es := (blockLanes ds j).map fun e => (e.1, e.2, laneNum x o.va.toNat e.1)
        if es = [] then acc
        else
          let (sb, rs) := convBlock o f es
          let y := forEach rs acc.1 fun y e => putLane y m e.2.lane e.1
          (storeWrite y (m.scaleCs.toNat + j) [BitVec.ofNat 8 sb] f, acc.2 ++ rs.map (·.2))) (x', [])
      ⟨out.1, out.2, n, errs, false⟩
    else
      let rs := ds.map fun e => convLane o f e.1 e.2 (laneNum x o.va.toNat e.1) (laneNum x o.vb.toNat e.1)
      ⟨forEach rs x' fun y e => putLane y m e.2.lane e.1,
        rs.map fun e => if isPacked m.fmt then { e.2 with nan := none } else e.2, n, errs, false⟩

/-- The scale address must be 0 where the format is not MX (0x03); the format must be one a VE load or store takes (0x05). (DESIGN CHOICE, notes/assumptions/39.md) -/
def memReason (m : VecMem) : Nat :=
  if !Fmt.isMx m.fmt.toNat && m.scaleCs != 0#21 then 3
  else if 1 ≤ m.fmt.toNat ∧ m.fmt.toNat ≤ 13 then 0 else 5

def execVeLoad (h : Hdr) (o : VecOp) (m : VecMem) (s : State) : Host.Outcome State Fault Refusal :=
  veIssue s h (veReason o true false (isPacked m.fmt) false (memReason m)) o .plain (loadLanes o m)

def execVeStore (h : Hdr) (o : VecOp) (m : VecMem) (s : State) : Host.Outcome State Fault Refusal :=
  veIssue s h (veReason o false true (isPacked m.fmt) false (memReason m)) o .plain (storeLanes o m)

/-! ## Reduction (R146) -/

/-- One level of the tree: results with the flags and NaN of each node, charged to lane i × 2^lvl. -/
def reduceLevel (op : XNum → XNum → XNum × Flags) (lvl : Nat) : Nat → List XNum → List (XNum × LaneRes)
  | i, a :: b :: t =>
    let (v, f) := op a b
    let (x, g) := fp32.round .rne 0 false v
    let fl := f.or g
    (fp32.decode x, ⟨i * 2 ^ lvl, x, fl, if v.isNan && !a.isNan && !b.isNan then some ⟨a, some b, 1, 1⟩ else none⟩)
      :: reduceLevel op lvl (i + 1) t
  | _, _ => []

def reduceGo (op : XNum → XNum → XNum × Flags) : Nat → Nat → List XNum → List LaneRes → List XNum × List LaneRes
  | 0, _, vs, acc => (vs, acc)
  | k + 1, lvl, vs, acc =>
    let rs := reduceLevel op lvl 0 vs
    reduceGo op k (lvl + 1) (rs.map (·.1)) (acc ++ rs.map (·.2))

/-- A reduction writes all 128 elements whatever the mask mode. -/
def reduceLanes (o : VecOp) (k : Nat) (op : XNum → XNum → XNum × Flags) (ident : XNum) (x : Cluster) : VeOut :=
  let m := maskReg x o.mask.toNat
  let vs := (List.range 128).map fun i => if m.getLsbD i then laneNum x o.va.toNat i else ident
  let (ys, rs) := reduceGo op k 1 vs []
  let out := (List.range 128).map fun j => match ys[j]? with
    | some y => BitVec.ofNat 32 (toFp32 y)
    | none => 0#32
  ⟨setVReg x o.vd.toNat out, rs, 0, [], false⟩

def execReduceSum (h : Hdr) (o : VecOp) (k : BitVec 3) (s : State) : Host.Outcome State Fault Refusal :=
  veIssue s h (veReason o true true false false (if k = 0#3 then 6 else 0)) o .reduction
    (reduceLanes o k.toNat XNum.add (.fin true 0 0))
def execReduceMax (h : Hdr) (o : VecOp) (k : BitVec 3) (s : State) : Host.Outcome State Fault Refusal :=
  veIssue s h (veReason o true true false false (if k = 0#3 then 6 else 0)) o .reduction
    (reduceLanes o k.toNat maxNum (.inf true))
def execReduceMin (h : Hdr) (o : VecOp) (k : BitVec 3) (s : State) : Host.Outcome State Fault Refusal :=
  veIssue s h (veReason o true true false false (if k = 0#3 then 6 else 0)) o .reduction
    (reduceLanes o k.toNat minNum (.inf false))

/-! ## Random draws, seed, broadcast (R148 to R151) -/

/-- Write one draw of every active lane through a function. -/
def randomLanes (o : VecOp) (f : Nat → Nat) (x : Cluster) : VeOut :=
  let (ds, x') := takeDraws x (activeLanes x o) true
  ⟨writeLanes x' o (ds.map fun e => (e.1, f e.2)), [], ds.length, [], false⟩

def execRandomRaw (h : Hdr) (o : VecOp) (s : State) : Host.Outcome State Fault Refusal :=
  veIssue s h (veReason o true false false false 0) o .plain (randomLanes o id)

/-- (draw >> 8) × 2^−24. -/
def execRandomUniform (h : Hdr) (o : VecOp) (s : State) : Host.Outcome State Fault Refusal :=
  veIssue s h (veReason o true false false false 0) o .plain
    (randomLanes o fun d => toFp32 (.fin false (d / 256) (-24)))

/-- Dropout: a kept lane takes its keep draw, then under SR a second one for its rounding (R148, R150). -/
def dropLanes (o : VecOp) (t scale mk : Nat) (x : Cluster) : VeOut :=
  let k := fp32.decode scale
  let act := activeLanes x o
  let out := act.foldl (fun (acc : Cluster × List LaneRes × List Nat × Nat) i =>
    let (d, y) := drawLane acc.1 i
    if t ≤ d then
      let (u, y, n) := if usesSr o then let (u, y) := drawLane y i; (u, y, 2) else (0, y, 1)
      let a := laneNum x o.va.toNat i
      let (v, f) := a.mul k
      (y, acc.2.1 ++ [roundLane o i u v f a (some k) (a.isNan || k.isNan)], acc.2.2.1 ++ [i], acc.2.2.2 + n)
    else (y, acc.2.1 ++ [⟨i, 0, .none, none⟩], acc.2.2.1, acc.2.2.2 + 1)) (x, [], [], 0)
  let y := writeLanes out.1 o (out.2.1.map fun r => (r.lane, r.val))
  let keep := maskReg x mk
  let y := setMask y mk (BitVec.ofNat 128 ((List.range 128).foldl (fun acc i =>
    if (if act.contains i then out.2.2.1.contains i else keep.getLsbD i) then acc + 2 ^ i else acc) 0))
  ⟨y, out.2.1, out.2.2.2, [], false⟩

def execDropout (h : Hdr) (o : VecOp) (t scale : W32) (mk : BitVec 3) (s : State) : Host.Outcome State Fault Refusal :=
  veIssue s h (veReason o true true false false 0) o .plain (dropLanes o t.toNat scale.toNat mk.toNat)

def execSeed (h : Hdr) (o : VecOp) (seed : BitVec 64) (s : State) : Host.Outcome State Fault Refusal :=
  veIssue s h (veReason o false false false false 0) o .plain fun x => ⟨reseed x seed, [], 0, [], false⟩

def execBroadcast (h : Hdr) (o : VecOp) (value : W32) (s : State) : Host.Outcome State Fault Refusal :=
  veIssue s h (veReason o true false false false 0) o .plain fun x =>
    ⟨writeLanes x o ((activeLanes x o).map fun i => (i, value.toNat)), [], 0, [], false⟩

/-! ## VE register commands (R145, R151, R154) -/

/-- Is a region's page idle or quiesced (R154)? -/
def pageQuiet (s : State) (r : Nat) : Bool := regionIdle s r || regionQuiesced s r

/-- The write of VE_SEED_CTL. -/
def veSeedCtl (s : State) (c v : Nat) : State × Nat :=
  if !bit v 0 then (s, RegStatus.ok)
  else if !pageQuiet s (c / 17) then (s, RegStatus.denied)
  else
    let p := Page.ve c
    let seed := BitVec.ofNat 64 (s.fld p F.VE_SEED_LO_seed_lo + s.fld p F.VE_SEED_HI_seed_hi * 2 ^ 32)
    (s.updCluster c fun x => reseed x seed, RegStatus.ok)

def execVeReseed (h : RegHdr) (cluster : BitVec 10) (v : W32) (s : State) : Host.Outcome State Fault Refusal :=
  if cluster.toNat < 544 then
    regCommand s h (Page.ve cluster.toNat + 0x60) fun s => veSeedCtl s cluster.toNat v.toNat
  else turnedAway s

/-- A write of 1 to VE_TRAP_INFO.valid re-arms the flag trap. -/
def veTrapInfo (s : State) (c v : Nat) : State × Nat :=
  (if bit v 31 then s.setFld (Page.ve c) F.VE_TRAP_INFO_valid 0 else s, RegStatus.ok)

def execFlagTrapRearm (h : RegHdr) (cluster : BitVec 10) (v : W32) (s : State) : Host.Outcome State Fault Refusal :=
  if cluster.toNat < 544 then
    regCommand s h (Page.ve cluster.toNat + 0x50) fun s => veTrapInfo s cluster.toNat v.toNat
  else turnedAway s

end Sys2Proof.Machine
end

