-- ==== Sys2Proof/Machine/Readers.lean ====
section
/-! DEFINITION. Readers of closed results under the tile check: egress, join send, ACCJOIN, tile read; and preloads
(04_tensor_units.md R109, R110; 05_accumulators.md R123, R125, R126, R129, R131, R132; 06_vector_lanes.md R142, R149;
09_ablos_encoding.md R205, R206, R210, R213; 10_spatial_pipelines.md R226). -/

namespace Sys2Proof.Machine

/-! ## Where rows lie (R102, R109, R206) -/

/-- A logical row located: row r, the base tile and row within it, the width. -/
structure RowAt where
  r : Nat
  tile : Nat
  row : Nat
  width : Nat
  deriving DecidableEq, Repr

/-- The place of logical row r at offset d in a stream map. -/
def rowAt (m : List MapEntry) (d r : Nat) : Option RowAt :=
  (m.find? fun e => decide (e.start ≤ r + d) && decide (r + d < e.start + e.len)).map fun e =>
    ⟨r, e.tile, r + d - e.start, e.width⟩

/-- The places of rows r0 to r0 + n − 1; none where a row lies outside the map, or there is no map. -/
def rowsAt (m : Option (List MapEntry)) (d r0 n : Nat) : Option (List RowAt) :=
  match m with
  | none => none
  | some m => (List.range n).mapM fun i => rowAt m d (r0 + i)

/-- The offset a reader uses at a cluster (R109). -/
def readOffset (s : State) (r p : Nat) (explicit : Bool) (off : BitVec 6) : Nat :=
  if explicit then off.toNat else offsetOf s r p

/-- A participating cluster of a reader: logical and physical index, offset, and its rows. -/
structure ReadPart where
  logical : Nat
  phys : Nat
  off : Nat
  rows : List RowAt
  deriving DecidableEq, Repr

/-- The rows every participating cluster reads; none where one lies outside the map (R206). -/
def readParts (s : State) (h : Hdr) (explicit : Bool) (off : BitVec 6) (r0 n : Nat) : Option (List ReadPart) :=
  let r := h.region.toNat
  (parts s r).mapM fun e =>
    let d := readOffset s r e.2 explicit off
    (rowsAt (s.prog h).map d r0 n).map fun rows => ⟨e.1, e.2, d, rows⟩

/-- The width of the results a map names. -/
def mapWidth (m : Option (List MapEntry)) : Nat := ((m.getD []).head?.map (·.width)).getD 1

/-- The tiles of a unit that rows touch. -/
def rowTiles (rows : List RowAt) : List Nat :=
  (rows.flatMap fun e => (List.range e.width).map (e.tile + ·)).eraseDups

/-- A tile that rows of a unit touch and that lies in an open group: the tile and the group's base. -/
def openTile (x : Cluster) (u : Nat) (tiles : List Nat) : Option (Nat × Nat) :=
  tiles.findSome? fun t => match groupAt (unitOf x u) t with
    | some g => if g.closing then none else some (t, g.base)
    | none => none

/-- Does a tile belong to a group whose close has issued, so that its reader waits for the fold (Table 5.1)? -/
def foldingTile (x : Cluster) (u : Nat) (tiles : List Nat) : Bool :=
  tiles.any fun t => match groupAt (unitOf x u) t with
    | some g => g.closing
    | none => false

/-- The open groups a read meets: cluster, unit, tile, base; one for each cluster (R130, R493). (DESIGN CHOICE, notes/assumptions/40.md) -/
def openReads (s : State) (r units : Nat) (ps : List ReadPart) : List (Nat × Nat × Nat × Nat) :=
  ps.filterMap fun p =>
    let c := clusterOf r p.phys
    (maskBits 4 units).findSome? fun u => (openTile (s.cluster c) u (rowTiles p.rows)).map fun e => (c, u, e.1, e.2)

def readsWait (s : State) (r units : Nat) (ps : List ReadPart) : Bool :=
  ps.any fun p => (maskBits 4 units).any fun u => foldingTile (s.cluster (clusterOf r p.phys)) u (rowTiles p.rows)

/-- Raise open-read on the ACC page of each cluster concerned. -/
def raiseOpen (s : State) (l : List (Nat × Nat × Nat × Nat)) : State :=
  forEach l s fun s e => accFault s e.1 e.2.1 e.2.2.1 e.2.2.2 Err.acc_open_read 0

/-! ## The tile check (R109) -/

/-- The failing rows of a unit, lowest r first: the row, its tile and the mark found. -/
def markFails (x : Cluster) (u : Nat) (rows : List RowAt) : List (RowAt × Nat × BitVec 7) :=
  rows.flatMap fun e => (List.range e.width).filterMap fun b =>
    let m := (accRow x u (e.tile + b) e.row).mark
    if m = markOf e.r then none else some (e, e.tile + b, m)

/-- One tile-check failure: the error, its counts, and TU_LAST_CHECK. -/
def raiseCheck (s : State) (c u d : Nat) (e : RowAt × Nat × BitVec 7) : State :=
  let pg := Page.tu c
  let s := s.setReg (pg + 0x64) (BitVec.ofNat 32
    (u * 2 ^ 30 + e.2.1 * 2 ^ 25 + e.1.row * 2 ^ 19 + e.2.2.toNat * 2 ^ 12 + e.1.r % 64 * 64 + d))
  let s := count s pg 0x06 { court := pageCourt s pg }
  if e.2.2 = markConflict then raise (s.satFld pg F.TU_CHECK_COUNT_conflicts 1) pg Err.tu_mark_conflict
  else raise (s.satFld pg F.TU_CHECK_COUNT_mismatches 1) pg Err.tu_mark_mismatch

/-- The failing tiles of a unit, each with its failing row of lowest r. -/
def failTiles (fs : List (RowAt × Nat × BitVec 7)) : List (RowAt × Nat × BitVec 7) :=
  fs.foldl (fun acc e => if acc.any fun a => a.2.1 == e.2.1 then acc else acc ++ [e]) []

/-- Check the rows of one unit: every failing tile raises once, TU_LAST_CHECK keeps the lowest r; the tiles withheld. -/
def checkUnit (s : State) (c u d : Nat) (rows : List RowAt) : State × List Nat :=
  let fs := failTiles (markFails (s.cluster c) u rows)
  (forEach fs.reverse s fun s e => raiseCheck s c u d e, fs.map fun e => e.2.1)

/-- Check a reader's rows at every cluster and unit: the failing tiles by cluster and unit. -/
def checkAll (s : State) (r units : Nat) (ps : List ReadPart) : State × List (Nat × Nat × List Nat) :=
  (ps.flatMap fun p => (maskBits 4 units).map fun u => (p, u)).foldl (fun (acc : State × List (Nat × Nat × List Nat)) e =>
    let (s, bad) := checkUnit acc.1 (clusterOf r e.1.phys) e.2 e.1.off e.1.rows
    (s, acc.2 ++ [(e.1.phys, e.2, bad)])) (s, [])

/-- Is a tile of a unit withheld? -/
def withheld (bad : List (Nat × Nat × List Nat)) (p u tile : Nat) : Bool :=
  bad.any fun e => e.1 == p && e.2.1 == u && e.2.2.contains tile

/-! ## Preload (R110, R123, Table 9.6) -/

def preloadReason (o : PreloadOp) : Nat :=
  if !o.offExplicit && o.offset != 0#6 then 3
  else if !(1 ≤ o.srcFmt.toNat ∧ o.srcFmt.toNat ≤ 3) then 5
  else if !o.opens && o.depth != 0#4 then 6
  else 0

/-- Units in a mask. -/
def unitCount (units : Nat) : Nat := (maskBits 4 units).length

def roundUp (n k : Nat) : Nat := (n + k - 1) / k * k

/-- Bytes of a logical row in a stripe (R205). -/
def stripeRow (units w fmt : Nat) : Nat := unitCount units * w * 64 * Fmt.bits fmt / 8

/-- The bytes a preload reads for each participating cluster: logical cluster and address. -/
def preloadSpans (s : State) (h : Hdr) (o : PreloadOp) : List (Nat × Nat) :=
  let n := (o.rowsM1.toNat + 1) * stripeRow o.units.toNat (2 ^ o.wlog2.toNat) o.srcFmt.toNat
  let base := addrOf (s.prog h) o.src
  (parts s h.region.toNat).map fun e => (e.1, (base + e.1 * roundUp n tileBytes) % 2 ^ 48)

/-- Read every stripe of a preload; none where one is refused, poisoned or of another format. -/
def preloadRead (s : State) (h : Hdr) (o : PreloadOp) (pc n : Nat) (spans : List ((Nat × Nat) × Nat × Nat)) :
    State × Option (List (List Byte)) :=
  spans.foldl (fun (acc : State × Option (List (List Byte))) e =>
    match acc with
    | (s, none) => (s, none)
    | (s, some out) =>
      match consume s (regionWho s h 0) e.2.2 n pc with
      | (s, none) => (s, none)
      | (s, some (bs, fs)) =>
        if formatsAgree o.srcFmt.toNat fs then (s, some (out ++ [bs]))
        else (raise s (Page.tu (clusterOf h.region.toNat e.1.2)) Err.tu_format_mismatch, none)) (s, some [])

/-- Put one cluster's rows into its units: tile row j takes logical row pos_base + j − d, or +0 with mark none. -/
def preloadCluster (s : State) (r p : Nat) (o : PreloadOp) (d : Nat) (bs : List Byte) (addr step : Nat) : State :=
  let w := 2 ^ o.wlog2.toNat
  let f := o.srcFmt.toNat
  let us := maskBits 4 o.units.toNat
  let e := Fmt.bits f / 8
  let rows := us.zip (List.range us.length) |>.flatMap fun u => (List.range 64).map fun j => (u.1, u.2, j)
  forEach rows s fun s x =>
    match (unitOf (s.cluster (clusterOf r p)) x.1).groups.find? fun g => g.base == o.tile.toNat with
    | none => s
    | some g =>
      let pos := o.posBase.toNat + x.2.2
      if d ≤ pos ∧ pos - d ≤ o.rowsM1.toNat then
        let lr := pos - d
        let block (b : Nat) : List XNum := (List.range 64).map fun k =>
          elemNum f (leAt bs (((lr * us.length * w + x.2.1 * w + b) * 64 + k) * e) e)
        chunkIn s r p x.1 g x.2.2 (markOf lr) ((List.range w).map block) addr step 2
      else chunkIn s r p x.1 g x.2.2 markNone (List.replicate w (List.replicate 64 .zero)) addr step 2

/-- Does a stream in flight still have steps for a group of this base, which an added chunk follows (Table 5.1)? -/
def chunksPending (s : State) (r base : Nat) : Bool :=
  match (s.region r).stream with
  | none => false
  | some t => t.insts.any fun i => i.tile == base && decide (t.pos < i.start + i.cover)

/-- PRELOAD. -/
def execPreload (h : Hdr) (o : PreloadOp) (s : State) : Host.Outcome State Fault Refusal :=
  let r := h.region.toNat
  let w := 2 ^ o.wlog2.toNat
  let n := (o.rowsM1.toNat + 1) * stripeRow o.units.toNat w o.srcFmt.toNat
  let spans := preloadSpans s h o
  let gs := groupChecks s r o.units.toNat o.opens o.tile.toNat w o.depth.toNat
  let waits := !anyFails gs && (anyWaits gs || (!o.opens && chunksPending s r o.tile.toNat)
    || spans.any fun e => rebuildWaits s e.2 n)
  let p := s.prog h
  issue s h (preloadReason o) true (if waits then .hazard else .yes) fun s =>
    if anyFails gs then raiseGroup s o.tile.toNat gs
    else if o.units = 0#4 then s
    else
      match preloadRead s h o p.pc n ((parts s r).zip spans) with
      | (s, none) => s
      | (s, some bss) =>
        let step := p.step.toNat
        let s := if o.opens then
            forUnits s r o.units.toNat fun t =>
              openIn t ⟨o.tile.toNat, w, o.depth.toNat, false, false, false, p.pc, step⟩
          else s
        forEach ((parts s r).zip bss) s fun s e =>
          preloadCluster s r e.1.2 o (readOffset s r e.1.2 o.offExplicit o.offset) e.2 p.pc step

/-! ## ACCJOIN (R125, R126) -/

/-- Bytes of one column block of a join operand. -/
def joinGroup : Nat := 321

def rowsReason (o : RowsOp) : Nat := if !o.offExplicit && o.offset != 0#6 then 3 else 0

/-- Bytes of a join operand: rows × clusters × units × blocks. -/
def joinBytes (s : State) (h : Hdr) (o : RowsOp) : Nat :=
  (o.countM1.toNat + 1) * (parts s h.region.toNat).length * unitCount o.units.toNat * mapWidth (s.prog h).map * joinGroup

/-- One block of a join operand added to its destination row. -/
def joinBlock (s : State) (r p u : Nat) (e : RowAt) (b : Nat) (bs : List Byte) (addr step : Nat) : State :=
  let c := clusterOf r p
  let tile := e.tile + b
  let old := accRow (s.cluster c) u tile e.row
  let vs := (List.range 64).map fun k => num40 (BitVec.ofNat 40 (leAt bs (5 * k) 5))
  let mark := BitVec.ofNat 7 (leAt bs 320 1)
  let (sums, f, evs) := addRows (old.els.map num40) vs
  let same := mark == old.mark
  let s := s.updCluster c fun x => setAccRow x u tile e.row ⟨if same then old.mark else markConflict, sums.map bits40⟩
  let s := accFlags s c u f
  let s := forEach evs s fun s v => accNan s r p u e.tile e.row addr step 2 b v 14
  if same then s else accFault s c u tile 0 Err.acc_join_mark e.row

/-- The destinations of a join operand in its byte order: cluster, unit, row, block. -/
def joinOrder (units : Nat) (ps : List ReadPart) (n : Nat) : List (Nat × Nat × RowAt × Nat) :=
  (List.range n).flatMap fun i => ps.flatMap fun p => (maskBits 4 units).flatMap fun u =>
    match p.rows[i]? with
    | some e => (List.range e.width).map fun b => (p.phys, u, e, b)
    | none => []

/-- Does a pass buffer's format differ from the one an instruction names (R226)? -/
def pbFormatBad (s : State) (r pb fmt : Nat) : Bool :=
  match pbDesc s r pb with
  | some d => d.format != fmt
  | none => false

def pbBeyond (s : State) (h : Hdr) (pb : BitVec 8) : Bool := decide ((s.region h.region.toNat).pbs.length ≤ pb.toNat)

def joinGo (s : State) (h : Hdr) (o : RowsOp) (d : PbDesc) (p : Prog) (ps : List ReadPart) : State :=
  let r := h.region.toNat
  let n := joinBytes s h o
  let (s, bs, bad) := takeBytes s d n
  if bad then poisonEntry s h
  else
    let es := joinOrder o.units.toNat ps (o.countM1.toNat + 1)
    let s := forEach (es.zip (List.range es.length)) s fun s e =>
      joinBlock s r e.1.1 e.1.2.1 e.1.2.2.1 e.1.2.2.2 ((bs.drop (joinGroup * e.2)).take joinGroup) p.pc p.step.toNat
    forEach ps s fun s q => count s (Page.acc (clusterOf r q.phys)) 0x04
      { n := (o.countM1.toNat + 1) * unitCount o.units.toNat, court := s.courtOf r }

/-- ACCJOIN. -/
def execAccjoin (h : Hdr) (o : RowsOp) (pb : BitVec 8) (s : State) : Host.Outcome State Fault Refusal :=
  let r := h.region.toNat
  let p := s.prog h
  let reason := if rowsReason o ≠ 0 then 3 else if pbBeyond s h pb then 8 else 0
  let rd := readParts s h o.offExplicit o.offset o.r0.toNat (o.countM1.toNat + 1)
  let opens := openReads s r o.units.toNat (rd.getD [])
  let runs := rd.isSome && opens == [] && !pbFormatBad s r pb.toNat 14
  let n := joinBytes s h o
  let ready : Ready := match pbDesc s r pb.toNat with
    | none => .yes
    | some d =>
      if !runs then .yes
      else if readsWait s r o.units.toNat (rd.getD []) then .hazard
      else if available s d < n then .counted 2 pb.toNat else .yes
  issue s h reason true ready
    (onWait := fun s => match pbDesc s r pb.toNat with
      | some d => drainStore s d n
      | none => s) fun s =>
    match rd, pbDesc s r pb.toNat with
    | none, _ => raise s (Page.rg r) Err.rg_stream_map
    | some _, none => s
    | some ps, some d =>
      if d.format ≠ 14 then raise s (Page.rg r) Err.rg_pb_format
      else if opens ≠ [] then raiseOpen s opens
      else joinGo s h o d p ps

/-! ## Join send (R126, R213) -/

/-- The bytes of one block of a join operand. -/
def joinOut (x : Cluster) (u tile row : Nat) : List Byte :=
  let a := accRow x u tile row
  a.els.flatMap (fun v => leBytes 5 v.toNat) ++ [a.mark.setWidth 8]

/-- JOIN_SEND. -/
def execJoinSend (h : Hdr) (o : RowsOp) (pb : BitVec 8) (s : State) : Host.Outcome State Fault Refusal :=
  let r := h.region.toNat
  let p := s.prog h
  let reason := if rowsReason o ≠ 0 then 3 else if pbBeyond s h pb then 8 else 0
  let rd := readParts s h o.offExplicit o.offset o.r0.toNat (o.countM1.toNat + 1)
  let opens := openReads s r o.units.toNat (rd.getD [])
  let waits := rd.isSome && opens == [] && !pbFormatBad s r pb.toNat 14 && readsWait s r o.units.toNat (rd.getD [])
  issue s h reason true (if waits then .hazard else .yes) fun s =>
    match rd, pbDesc s r pb.toNat with
    | none, _ => raise s (Page.rg r) Err.rg_stream_map
    | some _, none => s
    | some ps, some d =>
      if d.format ≠ 14 then raise s (Page.rg r) Err.rg_pb_format
      else if opens ≠ [] then raiseOpen s opens
      else
        let (s, bad) := checkAll s r o.units.toNat ps
        if bad.any fun e => e.2.2 != [] then s
        else
          let bs := (joinOrder o.units.toNat ps (o.countM1.toNat + 1)).flatMap fun e =>
            joinOut (s.cluster (clusterOf r e.1)) e.2.1 (e.2.2.1.tile + e.2.2.2) e.2.2.1.row
          finishProducer (pushBytes s d bs) h d p.pc 6

/-! ## Egress (R131, R149, R205) -/

/-- Lowest reason of an egress word. -/
def egressReason (s : State) (h : Hdr) (o : RowsOp) (e : EgressOp) : Nat :=
  let f0 := e.fop == 0#2
  if rowsReason o ≠ 0 || (f0 && (e.fshape != 0#2 || e.ffmt != 0#4 || e.fcs != 0#15))
      || (e.dstPb && (e.dst.areg != 0#4 || decide (256 ≤ e.dst.disp.toNat))) then 3
  else if !(1 ≤ e.tfmt.toNat ∧ e.tfmt.toNat ≤ 11) || (!f0 && !(1 ≤ e.ffmt.toNat ∧ e.ffmt.toNat ≤ 3)) then 5
  else if e.fop = 3#2 ∨ e.fshape = 3#2 then 6
  else if e.dstPb && decide ((s.region h.region.toNat).pbs.length ≤ e.dst.disp.toNat) then 8
  else 0

/-- First byte of the fused operand and its bytes (R131, R205). -/
def operandSpan (o : RowsOp) (e : EgressOp) (w : Nat) : Nat × Nat :=
  let es := Fmt.bits e.ffmt.toNat / 8
  let g := unitCount o.units.toNat * w
  let n := o.countM1.toNat + 1
  (e.fcs.toNat * 64, es * (if e.fshape = 0#2 then n * g * 64 else if e.fshape = 1#2 then g * 64 else n))

/-- The operand value of row i, group g, column x. -/
def operandAt (x : Cluster) (o : RowsOp) (e : EgressOp) (w i g k : Nat) : XNum :=
  let es := Fmt.bits e.ffmt.toNat / 8
  let gs := unitCount o.units.toNat * w
  let idx := if e.fshape = 0#2 then (i * gs + g) * 64 + k else if e.fshape = 1#2 then g * 64 + k else i
  elemNum e.ffmt.toNat (leNat (storeRead x (e.fcs.toNat * 64 + idx * es) es))

/-- Fuse an element with its operand: the exact value and the operation's flags. -/
def fuse (e : EgressOp) (v c : XNum) : XNum × Flags :=
  if e.fop = 1#2 then v.add c else if e.fop = 2#2 then v.mul c else (v, .none)

/-- One converted group: its element bytes, its scale bytes, lane flags, and the NaNs created with their columns. -/
structure EgressOut where
  row : Nat
  group : Nat
  els : List Byte
  scales : List Byte
  flags : List (Nat × Flags)
  deriving DecidableEq, Repr

/-- The codes, scales and flags of 64 values rounded to the target. -/
def convGroup (e : EgressOp) (us : List Nat) (vs : List XNum) : List Nat × List Nat × List Flags :=
  let f := e.tfmt.toNat
  let mode := Rnd.ofCode e.rnd.toNat
  if Fmt.isMx f then
    let a := convMx f mode (us.take 32) e.sat (vs.take 32)
    let b := convMx f mode (us.drop 32) e.sat (vs.drop 32)
    ((a.2 ++ b.2).map (·.1), [a.1, b.1], (a.2 ++ b.2).map (·.2))
  else
    let rs := (vs.zip us).map fun x => convElem f mode x.2 e.sat .one x.1
    (rs.map (·.1), [], rs.map (·.2))

/-- The value a converted code stands for. -/
def codeNum (f : Nat) (scales : List Nat) (k code : Nat) : XNum :=
  if Fmt.isMx f then mxNum f (scales.getD (k / 32) 0) code else elemNum f code

/-- The NaN record of an egress element: source 2, class 2. -/
def egressNan (s : State) (r p u tile row k addr step fmt : Nat) (fl : Flags) (a : XNum) (b : Option XNum) : State :=
  nanTrap s (s.courtOf r)
    { source := 2, region := r, phys := p, unit := u, lane := 0, tile := tile, addr := addr, step := step, cls := 2
      element := row * 64 + k, a := captureFp32 a, b := (b.map captureFp32).getD 0, dstFmt := fmt, srcFmt := 14
      flags := fl.bits }

/-- Convert one delivered block of a row: draws of its lanes in column order, one rounding, NaNs (R149, R79). -/
def egressBlock (s : State) (r : Nat) (o : RowsOp) (e : EgressOp) (w : Nat) (q : ReadPart) (rank u i : Nat) (ra : RowAt) (b addr step : Nat) :
    State × EgressOut :=
  let c := clusterOf r q.phys
  let x := s.cluster c
  let g := rank * w + b
  let src := (accRow x u (ra.tile + b) ra.row).els.map num40
  let ops := if e.fop = 0#2 then [] else (List.range 64).map fun k => operandAt x o e w i g k
  let fused := if e.fop = 0#2 then src.map fun v => (v, Flags.none) else (src.zip ops).map fun v => fuse e v.1 v.2
  let lane0 := 64 * (u % 2)
  let sr := e.rnd == 3#2
  let (ds, x) := takeDraws x ((List.range 64).map (lane0 + ·)) sr
  let s := s.setCluster c x
  let s := if sr then count (fixedCount s (Page.ve c) 1 64) (Page.ve c) 0x07 { n := 64, court := s.courtOf r } else s
  let (codes, scales, cf) := convGroup e (ds.map (·.2)) (fused.map (·.1))
  let fl := (fused.zip cf).map fun v => v.1.2.or v.2
  let s := forEach (List.range 64) s fun s k =>
    let a := src.getD k .zero
    let op := ops[k]?
    let f := fl.getD k .none
    if !a.isNan && !((op.map XNum.isNan).getD false) && (codeNum e.tfmt.toNat scales k (codes.getD k 0)).isNan then
      egressNan s r q.phys u (ra.tile + b) ra.row k addr step e.tfmt.toNat f a op
    else s
  (s, { row := i, group := g, els := packBits (Fmt.bits e.tfmt.toNat) codes, scales := scales.map (BitVec.ofNat 8)
        flags := fl.zip (List.range 64) |>.map fun v => (lane0 + v.2, v.1) })

/-- Convert every delivered block of a cluster, ascending row, unit, block (R149). -/
def egressCluster (s : State) (r : Nat) (o : RowsOp) (e : EgressOp) (w : Nat) (q : ReadPart)
    (bad : List (Nat × Nat × List Nat)) (addr step : Nat) : State × List EgressOut :=
  let us := maskBits 4 o.units.toNat
  let c := clusterOf r q.phys
  let todo := (q.rows.zip (List.range q.rows.length)).flatMap fun ra => (us.zip (List.range us.length)).flatMap fun u =>
    (List.range w).filterMap fun b =>
      if withheld bad q.phys u.1 (ra.1.tile + b) then none else some (ra, u, b)
  todo.foldl (fun (acc : State × List EgressOut) t =>
    let (s, out) := egressBlock acc.1 r o e w q t.2.1.2 t.2.1.1 t.1.2 t.1.1 t.2.2 addr step
    let s := fixedCount s (Page.acc c) 1 1
    let s := if e.fop = 0#2 then s else count s (Page.acc c) 0x05 { court := s.courtOf r }
    (s, acc.2 ++ [out])) (s, [])

/-- Adjacent pieces of one run joined. -/
def mergeRuns : List (Nat × List Byte) → List (Nat × List Byte)
  | [] => []
  | (a, bs) :: t =>
    match mergeRuns t with
    | (b, cs) :: u => if b = a + bs.length then (a, bs ++ cs) :: u else (a, bs) :: (b, cs) :: u
    | [] => [(a, bs)]

/-- The runs of a cluster's stripe: address, bytes, format. -/
def stripeRuns (o : RowsOp) (e : EgressOp) (w base logical : Nat) (out : List EgressOut) : List (Nat × List Byte × Nat) :=
  let f := e.tfmt.toNat
  let gs := unitCount o.units.toNat * w
  let n := o.countM1.toNat + 1
  let gb := 64 * Fmt.bits f / 8
  let mx := Fmt.isMx f
  let sa := if mx then roundUp (n * gs * gb) tileBytes else n * gs * gb
  let stripe := base + logical * roundUp (if mx then sa + 2 * n * gs else sa) tileBytes
  let els := mergeRuns (out.map fun x => ((stripe + (x.row * gs + x.group) * gb) % 2 ^ 48, x.els))
  let sc := if mx then mergeRuns (out.map fun x => ((stripe + sa + 2 * (x.row * gs + x.group)) % 2 ^ 48, x.scales)) else []
  els.map (fun x => (x.1, x.2, f)) ++ sc.map fun x => (x.1, x.2, 15)

/-- Write runs in order until one is refused. -/
def writeRuns (s : State) (w : Who) (runs : List (Nat × List Byte × Nat)) : State :=
  (runs.foldl (fun (acc : State × Option Refused) e =>
    match acc with
    | (s, some r) => (s, some r)
    | (s, none) => writeSpan s w e.1 e.2.1 e.2.2) (s, none)).1

/-- The byte stream of an egress into a pass buffer (Table 10.2). -/
def egressStream (n : Nat) (outs : List (List EgressOut)) : List Byte :=
  (List.range n).flatMap fun i => outs.flatMap fun l => (l.filter fun x => x.row == i).flatMap fun x => x.els ++ x.scales

/-- The bytes an egress into memory writes, with a tile's margin, for the wait on rebuilding tiles. -/
def egressWaits (s : State) (h : Hdr) (o : RowsOp) (e : EgressOp) : Bool :=
  let w := mapWidth (s.prog h).map
  let n := (o.countM1.toNat + 1) * stripeRow o.units.toNat w e.tfmt.toNat
  let sc := if Fmt.isMx e.tfmt.toNat then 2 * (o.countM1.toNat + 1) * unitCount o.units.toNat * w else 0
  let size := roundUp n tileBytes + roundUp sc tileBytes
  !e.dstPb && (parts s h.region.toNat).any fun q =>
    rebuildWaits s ((addrOf (s.prog h) e.dst + q.1 * size) % 2 ^ 48) (if sc = 0 then n else roundUp n tileBytes + sc)

/-- An egress whose rows and operand passed their checks. -/
def egressGo (s : State) (h : Hdr) (o : RowsOp) (e : EgressOp) (p : Prog) (ps : List ReadPart) : State :=
  let r := h.region.toNat
  let w := mapWidth p.map
  let (s, bad) := checkAll s r o.units.toNat ps
  if e.dstPb && bad.any (fun x => x.2.2 != []) then s
  else
    let (s, outs) := ps.foldl (fun (acc : State × List (List EgressOut)) q =>
      let (s, out) := egressCluster acc.1 r o e w q bad p.pc p.step.toNat
      (s, acc.2 ++ [out])) (s, [])
    let s :=
      if e.dstPb then
        match pbDesc s r e.dst.disp.toNat with
        | some d => finishProducer (pushBytes s d (egressStream (o.countM1.toNat + 1) outs)) h d p.pc 2
        | none => s
      else
        writeRuns s (regionWho s h 0) ((ps.zip outs).flatMap fun x => stripeRuns o e w (addrOf p e.dst) x.1.logical x.2)
    forEach (ps.zip outs) s fun s x => gather s (clusterOf r x.1.phys) p.pc true (x.2.flatMap (·.flags))

/-- EGRESS. -/
def execEgress (h : Hdr) (o : RowsOp) (e : EgressOp) (s : State) : Host.Outcome State Fault Refusal :=
  let r := h.region.toNat
  let p := s.prog h
  let rd := readParts s h o.offExplicit o.offset o.r0.toNat (o.countM1.toNat + 1)
  let ps := rd.getD []
  let opens := openReads s r o.units.toNat ps
  let badPb := e.dstPb && pbFormatBad s r e.dst.disp.toNat e.tfmt.toNat
  let (ba, bn) := operandSpan o e (mapWidth p.map)
  let fusedOp := e.fop != 0#2
  let range := fusedOp && decide (storeSize < ba + bn)
  let badFmt := if fusedOp then
      (parts s r).filter fun q => !storeAgrees (s.cluster (clusterOf r q.2)) ba bn e.ffmt.toNat
    else []
  let runs := rd.isSome && !badPb && !range && badFmt == [] && opens == []
  issue s h (egressReason s h o e) true
    (if runs && (readsWait s r o.units.toNat ps || egressWaits s h o e) then .hazard else .yes) fun s =>
    if rd.isNone then raise s (Page.rg r) Err.rg_stream_map
    else if badPb then raise s (Page.rg r) Err.rg_pb_format
    else if range then forEach (parts s r) s fun s q => veErr s (clusterOf r q.2) Err.ve_store_range
    else if badFmt ≠ [] then
      forEach badFmt s fun s q => accFault s (clusterOf r q.2) 0 0 0 Err.acc_format_mismatch 0
    else if opens ≠ [] then raiseOpen s opens
    else egressGo s h o e p ps

/-! ## Tile read (R142) -/

/-- The unit mask and row count of a tile read. -/
def tileReadUnits (t : TileReadOp) : Nat := if t.unitPair then 3 * 2 ^ t.u.toNat else 2 ^ t.u.toNat
def tileReadRows (t : TileReadOp) : Nat := if t.unitPair then 1 else 2

/-- Why a tile read is illegal by itself (Table 9.14), 0 where it is not (R142) (DESIGN CHOICE, notes/assumptions/41.md). -/
def tileReadReason (t : TileReadOp) : Nat :=
  if !t.offExplicit && t.offset != 0#6 then 3
  else if t.unitPair && (t.u == 1#2 || t.u == 3#2) then 6
  else if !t.unitPair && decide (4095 ≤ t.r.toNat) then 6
  else 0

/-- The rows of a tile read name block b of the result; a tile past 31 is no part of any map. -/
def shiftBlock (b : Nat) (q : ReadPart) : Option ReadPart :=
  if q.rows.any fun e => decide (31 < e.tile + b) then none
  else some { q with rows := q.rows.map fun e => { e with tile := e.tile + b, width := 1 } }

/-- The 128 values a cluster's tile read delivers: lane 64h + x takes element x of row h. -/
def tileReadVals (x : Cluster) (t : TileReadOp) (q : ReadPart) : List XNum :=
  let us := maskBits 4 (tileReadUnits t)
  (us.flatMap fun u => q.rows.flatMap fun e => (accRow x u (e.tile) e.row).els.map num40)

/-- Convert the values under the instruction's rounding into the destination. -/
def tileReadLanes (o : VecOp) (vals : List XNum) (x : Cluster) : VeOut :=
  let (ds, x') := takeDraws x (activeLanes x o) (usesSr o)
  let rs := ds.map fun e =>
    let v := vals.getD e.1 .zero
    roundLane o e.1 e.2 v .none v none v.isNan
  ⟨writeLanes x' o (rs.map fun r => (r.lane, r.val)), rs, if usesSr o then ds.length else 0, [], false⟩

/-- One cluster's tile read: refused by an open group or by the check, it leaves its register unchanged. -/
def tileReadOne (s : State) (h : Hdr) (o : VecOp) (t : TileReadOp) (p : Prog) (q : ReadPart) : State :=
  let r := h.region.toNat
  let c := clusterOf r q.phys
  match openReads s r (tileReadUnits t) [q] with
  | [] =>
    let (s, bad) := checkAll s r (tileReadUnits t) [q]
    if bad.any fun e => e.2.2 != [] then s
    else
      let x := s.cluster c
      veApply s r q.phys p.pc p.step.toNat .tileRead (activeLanes x o).length (tileReadLanes o (tileReadVals x t q) x)
  | l => raiseOpen s l

def execTileRead (h : Hdr) (o : VecOp) (t : TileReadOp) (s : State) : Host.Outcome State Fault Refusal :=
  let r := h.region.toNat
  let p := s.prog h
  let rd := (readParts s h t.offExplicit t.offset t.r.toNat (tileReadRows t)).bind fun l => l.mapM (shiftBlock t.b.toNat)
  let other := tileReadReason t
  let reason := if other = 3 then 3 else veReason o true false false false other
  let waits := (rd.getD []).any fun q => readsWait s r (tileReadUnits t) [q]
  issue s h reason true (if waits then .hazard else .yes) fun s =>
    match rd with
    | none => raise s (Page.rg r) Err.rg_stream_map
    | some ps => forEach ps s fun s q => tileReadOne s h o t p q

end Sys2Proof.Machine
end

