-- ==== Sys2Proof/Machine/RootMath.lean ====
section
/-! DEFINITION. FP32 matrix arithmetic of the root engines and the Caddies: ordered products and norms, the scaled coupled
Newton iteration, the block-Jacobi eigen method (08_root_engines.md R175, R180 to R185). -/

namespace Sys2Proof.Machine

/-! ## FP32 operations on bit patterns, each rounded once under RNE (R175) -/

def f32 (v : XNum) : Nat := toFp32 v
def num32 (x : Nat) : XNum := fp32.decode x
def fadd (a b : Nat) : Nat := f32 ((num32 a).add (num32 b)).1
def fsub (a b : Nat) : Nat := f32 ((num32 a).sub (num32 b)).1
def fmul (a b : Nat) : Nat := f32 ((num32 a).mul (num32 b)).1
def fdiv (a b : Nat) : Nat := f32 ((num32 a).div (num32 b)).1
def fsqrt (a : Nat) : Nat := f32 (num32 a).sqrt.1
def frsqrt (a : Nat) : Nat := f32 (num32 a).rsqrt.1
def ffma (a b c : Nat) : Nat := f32 (XNum.fma (num32 a) (num32 b) (num32 c)).1
def fnat (n : Nat) : Nat := f32 (.ofNat n)
def fabs (a : Nat) : Nat := a % 2 ^ 31
def f1 : Nat := 0x3F800000
def fhalf : Nat := 0x3F000000
def fnegZero : Nat := 0x80000000
def fle (a b : Nat) : Bool := (num32 a).le (num32 b)
def flt (a b : Nat) : Bool := (num32 a).lt (num32 b)
def ffinite (a : Nat) : Bool := (num32 a).isFinite

/-- A matrix of FP32 bit patterns by rows. -/
abbrev Mat := List (List Nat)

def matAt (x : Mat) (i j : Nat) : Nat := (x.getD i []).getD j 0

/-- The n × n identity times d. -/
def identity (n d : Nat) : Mat := (List.range n).map fun i => (List.range n).map fun j => if i = j then d else 0

def transpose (x : Mat) (cols : Nat) : Mat := (List.range cols).map fun j => x.map fun r => r.getD j 0

/-- One cell chain: fma32 steps in ascending k from the first product on. (DESIGN CHOICE, notes/assumptions/48.md) -/
def chain (xs ys : List Nat) : Nat := (xs.zip ys).foldl (fun acc e => ffma e.1 e.2 acc) fnegZero

/-- The chunk results of one element, added in ascending order. -/
def dotGo : Nat → List Nat → List Nat → Option Nat → Nat
  | 0, _, _, acc => acc.getD 0
  | k + 1, xs, ys, acc =>
    if xs = [] then acc.getD 0
    else
      let c := chain (xs.take 64) (ys.take 64)
      dotGo k (xs.drop 64) (ys.drop 64) (some (match acc with
        | none => c
        | some a => fadd a c))

/-- mm(x, y) (R175); y has n columns. -/
def mm (x y : Mat) (n : Nat) : Mat :=
  let cols := transpose y n
  x.map fun r => cols.map fun c => dotGo (r.length + 1) r c none

def scaleMat (x : Mat) (z : Nat) : Mat := x.map fun r => r.map fun v => fmul v z
def subMat (x y : Mat) : Mat := (x.zip y).map fun e => (e.1.zip e.2).map fun v => fsub v.1 v.2

/-- The sum of squares of a list in order. -/
def sumSquares (vs : List Nat) : Nat := vs.foldl (fun s v => fadd s (fmul v v)) 0

/-- Frobenius norm, summed in ascending row-major order. -/
def fro (x : Mat) : Nat := fsqrt (sumSquares x.flatten)

/-- Frobenius norm of the elements off the diagonal, in the same order. -/
def offFro (x : Mat) : Nat :=
  fsqrt (sumSquares ((x.zip (List.range x.length)).flatMap fun e => e.1.eraseIdx e.2))

/-- The largest magnitude; a NaN anywhere gives NaN. -/
def maxAbs (x : Mat) : Nat :=
  x.flatten.foldl (fun m v =>
    if (num32 m).isNan then m else if (num32 v).isNan then fp32.canonNan else if flt m (fabs v) then fabs v else m) 0

/-- log2 p squarings by mm. -/
def powMat (n : Nat) : Nat → Mat → Mat
  | 0, t => t
  | k + 1, t => powMat n k (mm t t n)

def rootTimes : Nat → Nat → Nat
  | 0, z => z
  | k + 1, z => rootTimes k (fsqrt z)

/-! ## Newton (R181 to R183) -/

/-- How an attempt ends. -/
inductive AttemptEnd where
  | converged | stopped | cap | rejected
  deriving DecidableEq, Repr

/-- An attempt's outcome: the root where it converged, the last residual, iterations or sweeps, array products. -/
structure Attempt where
  fate : AttemptEnd
  root : Mat
  residual : Nat
  iters : Nat
  products : Nat
  deriving DecidableEq, Repr

def newtonGo (n pLog tol cap : Nat) : Nat → Mat → Mat → Nat → Nat → Attempt
  | 0, x, _, r, prods => ⟨.cap, x, r, cap, prods⟩
  | k + 1, x, m, _, prods =>
    let p := 2 ^ pLog
    let t := scaleMat (subMat (identity n (fnat (p + 1))) m) (f32 (.fin false 1 (-(pLog : Int))))
    let x := mm x t n
    let m := mm (powMat n pLog t) m n
    let r := maxAbs (subMat m (identity n f1))
    let prods := prods + pLog + 2
    if fle r tol then ⟨.converged, x, r, cap - k, prods⟩
    else if !ffinite r then ⟨.stopped, x, r, cap - k, prods⟩
    else newtonGo n pLog tol cap k x m r prods

/-- A cold attempt (R181). -/
def newtonCold (ad : Mat) (n pLog tol cap : Nat) : Attempt :=
  let z := fdiv (fnat (2 ^ pLog + 1)) (fmul (fnat 2) (fro ad))
  newtonGo n pLog tol cap cap (scaleMat (identity n f1) (rootTimes pLog z)) (scaleMat ad z) 0 0

/-- A warm attempt from the newest copy's data (R182). -/
def newtonWarm (ad x : Mat) (n pLog tol cap : Nat) : Attempt :=
  let m := mm (powMat n pLog x) ad n
  let r0 := maxAbs (subMat m (identity n f1))
  if fle fhalf r0 then ⟨.rejected, x, r0, 0, pLog + 1⟩
  else newtonGo n pLog tol cap cap x m 0 (pLog + 1)

/-- The result symmetrised (R183): both elements of a pair take the halved sum, the diagonal stays. -/
def symmetrise (x : Mat) : Mat :=
  (x.zip (List.range x.length)).map fun r => (r.1.zip (List.range r.1.length)).map fun e =>
    if e.2 = r.2 then e.1 else fmul (fadd (matAt x (min r.2 e.2) (max r.2 e.2)) (matAt x (max r.2 e.2) (min r.2 e.2))) fhalf

/-! ## Block-Jacobi eigen method (R184) -/

/-- A matrix with rows p and q replaced by their rotation. -/
def rotateRows (c s p q : Nat) (x : Mat) : Mat :=
  let rs := ((x.getD p []).zip (x.getD q [])).map fun e => Config.rotate c s e.1 e.2
  (x.zip (List.range x.length)).map fun r =>
    if r.2 = p then rs.map (·.1) else if r.2 = q then rs.map (·.2) else r.1

/-- A matrix with columns p and q replaced by their rotation. -/
def rotateCols (c s p q : Nat) (x : Mat) : Mat :=
  x.map fun r =>
    let e := Config.rotate c s (r.getD p 0) (r.getD q 0)
    (r.zip (List.range r.length)).map fun v => if v.2 = p then e.1 else if v.2 = q then e.2 else v.1

/-- c and s of one scalar rotation; none where a[p][q] is 0. -/
def rotation (a : Mat) (p q : Nat) : Option (Nat × Nat) :=
  let apq := matAt a p q
  if (num32 apq).isZero then none
  else
    let th := fdiv (fsub (matAt a q q) (matAt a p p)) (fmul (fnat 2) apq)
    let den := fadd (fabs th) (fsqrt (fadd (fmul th th) f1))
    let t := fdiv (if (num32 th).signOf then f1 + 2 ^ 31 else f1) den
    let c := fdiv f1 (fsqrt (fadd (fmul t t) f1))
    some (c, fmul t c)

/-- One inner sweep over (p, q), p < q, rows ascending: the submatrix and the accumulated rotation. -/
def innerSweep (n : Nat) (a j : Mat) : Mat × Mat :=
  let ps := (List.range n).flatMap fun p => (List.range (n - 1 - p)).map fun k => (p, p + 1 + k)
  ps.foldl (fun acc e =>
    match rotation acc.1 e.1 e.2 with
    | none => acc
    | some (c, s) => (rotateRows c s e.1 e.2 (rotateCols c s e.1 e.2 acc.1), rotateCols c s e.1 e.2 acc.2)) (a, j)

/-- Inner sweeps until the off-diagonal norm is at most tol times the norm, at most 8. -/
def innerGo (n tol : Nat) : Nat → Mat → Mat → Mat
  | 0, _, j => j
  | k + 1, a, j =>
    if fle (offFro a) (fmul tol (fro a)) then j
    else
      let (a, j) := innerSweep n a j
      innerGo n tol k a j

/-- The pairs of column blocks of round k (R184). -/
def roundPairs (nb k : Nat) : List (Nat × Nat) :=
  (0, 1 + k) :: (List.range (nb / 2 - 1)).map fun i =>
    let j := i + 1
    (1 + (k + j) % (nb - 1), 1 + (k + nb - 1 - j) % (nb - 1))

/-- The indices of a pair of 64-blocks. -/
def pairIdx (e : Nat × Nat) : List Nat := (List.range 64).map (64 * e.1 + ·) ++ (List.range 64).map (64 * e.2 + ·)

/-- Replace some columns of a matrix. -/
def putCols (x new : Mat) (idx : List Nat) : Mat :=
  (x.zip new).map fun r => (r.1.zip (List.range r.1.length)).map fun v =>
    match idx.findIdx? (· == v.2) with
    | some k => r.2.getD k 0
    | none => v.1

/-- Apply the accumulated rotation of a pair to the columns of a matrix. -/
def applyCols (x j : Mat) (idx : List Nat) : Mat :=
  putCols x (mm (x.map fun r => idx.map fun i => r.getD i 0) j 128) idx

/-- One pair: diagonalise its submatrix; apply the rotation to rows and columns of a and to the columns of v. -/
def pairStep (n tol : Nat) (av : Mat × Mat) (e : Nat × Nat) : Mat × Mat :=
  let idx := pairIdx e
  let sub := idx.map fun i => idx.map fun k => matAt av.1 i k
  let j := innerGo 128 tol 8 sub (identity 128 f1)
  let rows := transpose (applyCols (transpose av.1 n) j idx) n
  (applyCols rows j idx, applyCols av.2 j idx)

def eigenSweep (n tol : Nat) (av : Mat × Mat) : Mat × Mat :=
  let nb := n / 64
  ((List.range (nb - 1)).flatMap (roundPairs nb)).foldl (pairStep n tol) av

/-- r = off(a) ÷ ‖A‖_F; 0 where ‖A‖_F is 0. -/
def eigenResidual (a : Mat) (normA : Nat) : Nat := if (num32 normA).isZero then 0 else fdiv (offFro a) normA

/-- Sweeps until converged or the cap: a, v, residual, sweeps, and whether it converged. -/
def eigenGo (n tol normA cap : Nat) : Nat → Mat × Mat → Nat → (Mat × Mat) × Nat × Nat × Bool
  | 0, av, r => (av, r, cap, false)
  | k + 1, av, _ =>
    let av := eigenSweep n tol av
    let r := eigenResidual av.1 normA
    if fle r tol then (av, r, cap - k, true) else eigenGo n tol normA cap k av r

/-- f_k of an eigenvalue (R184): 1 ÷ λ', or rsqrt after log2 p − 1 square roots. -/
def eigenF (pLog lam : Nat) : Nat := if pLog = 0 then fdiv f1 lam else frsqrt (rootTimes (pLog - 1) lam)

/-- An eigen attempt: its outcome, eigenvectors, eigenvalues and clamped count. -/
structure EigenOut where
  att : Attempt
  v : Mat
  lam : List Nat
  clamped : Nat
  deriving DecidableEq, Repr

/-- Array-steps of a sweep: (nb − 1) × nb ÷ 2 pair rotations of three 128-wide products each. -/
def sweepSteps (n : Nat) : Nat := (n / 64 - 1) * (n / 64) / 2 * 12 * n

/-- The eigen method from a start (R184). -/
def eigen (av : Mat × Mat) (n pLog tol cap epsEff normA : Nat) : EigenOut :=
  let (av, r, it, ok) := eigenGo n tol normA cap cap av 0
  let lam := (List.range n).map fun k => matAt av.1 k k
  let neg (l : Nat) : Bool := flt l 0
  let f := lam.map fun l => eigenF pLog (fadd (if neg l then 0 else l) epsEff)
  let steps := it * sweepSteps n
  if !ok then ⟨⟨.cap, [], r, it, steps⟩, av.2, lam, 0⟩
  else if f.any fun x => !ffinite x then ⟨⟨.stopped, [], r, it, steps⟩, av.2, lam, 0⟩
  else
    let diag := (f.zip (List.range n)).map fun e => (List.range n).map fun j => if j = e.2 then e.1 else 0
    let x := mm (mm av.2 diag n) (transpose av.2 n) n
    ⟨⟨.converged, symmetrise x, r, it, steps⟩, av.2, lam, (lam.filter neg).length⟩

end Sys2Proof.Machine
end

