-- ==== Sys2Proof/Machine/Roots.lean ====
section
/-! DEFINITION. Root engines: requests, the damped factor, attempts, commit, the use rule at a consumer, and the root fetch
(08_root_engines.md R174 to R196; 10_spatial_pipelines.md R245). -/

namespace Sys2Proof.Machine

/-! ## The request descriptor (Table 8.1) -/

def reqMethod (b : List Byte) : Nat := bits (wordAt b 1) 14 13
def reqPLog (b : List Byte) : Nat := bits (wordAt b 1) 12 11
def reqDamp (b : List Byte) : Nat := bits (wordAt b 1) 10 9
def reqWarm (b : List Byte) : Bool := bit (wordAt b 1) 8
def reqQm1 (b : List Byte) : Nat := bits (wordAt b 1) 7 4
def reqQ (b : List Byte) : Nat := reqQm1 b + 1
def reqF (b : List Byte) : Nat := 256 * reqQ b
def reqCap (b : List Byte) : Nat := bits (wordAt b 2) 7 0
def reqEps (b : List Byte) : Nat := wordAt b 3
def reqTol (b : List Byte) : Nat := wordAt b 4
def reqRecord (b : List Byte) : Nat := (wordAt b 8 + wordAt b 9 * 2 ^ 32) % 2 ^ 48
def reqWork (b : List Byte) : Nat := (wordAt b 12 + wordAt b 13 * 2 ^ 32) % 2 ^ 48

/-- Is the descriptor one the engine accepts (R177)? (DESIGN CHOICE, notes/assumptions/50.md) -/
def reqValid (b : List Byte) : Bool :=
  let eps := num32 (reqEps b)
  let tol := num32 (reqTol b)
  bits (wordAt b 0) 31 8 == 0x400701 && reqMethod b != 3 && reqDamp b != 3
    && !(reqMethod b == 2 && decide (512 < reqF b)) && reqCap b != 0
    && eps.isFinite && (eps.isZero || !eps.signOf) && tol.isFinite && !tol.isZero && !tol.signOf
    && !(decide (512 < reqF b) && wordAt b 12 == 0 && wordAt b 13 == 0)

/-! ## Root slots (R187 to R189) -/

/-- First address of copy c of a slot. -/
def copyAddr (slot q c : Nat) : Nat := (slot + (if c = 0 then 1 else 2 + 128 * q * q) * tileBytes) % 2 ^ 48

/-- root_seq of a copy header that shows a committed copy. -/
def rootSeq (h : List Byte) : Option Nat :=
  if bits (wordAt h 0) 31 8 = 0xB00701 ∧ bit (wordAt h 0) 0 then some (wordAt h 9) else none

def step48 (h : List Byte) (i : Nat) : Nat := wordAt h i + bits (wordAt h (i + 1)) 15 0 * 2 ^ 32

/-- Both headers of a slot as a consumer reads them. -/
def readHeads (s : State) (w : Who) (slot q : Nat) : State × Option (List Byte × List Byte) :=
  match consume s w (copyAddr slot q 0) 64 0 with
  | (s, none) => (s, none)
  | (s, some (a, _)) =>
    match consume s w (copyAddr slot q 1) 64 0 with
    | (s, none) => (s, none)
    | (s, some (b, _)) => (s, some (a, b))

/-- The newest committed copy: its index, header. -/
def newestRoot (hs : List Byte × List Byte) : Option (Nat × List Byte) :=
  (newestCopy (rootSeq hs.1) (rootSeq hs.2)).map fun e => (e.1, if e.1 = 0 then hs.1 else hs.2)

/-! ## Acceptance (R176, R177, R188) -/

def rootErr (s : State) (r bit : Nat) : State :=
  count (raise s (Page.re r) bit) (Page.re r) 0x0A { court := s.courtOf r }

def refuseRoot (s : State) (r bit : Nat) : State :=
  let s := rootErr s r bit
  let s := count s (Page.re r) 0x02 { court := s.courtOf r }
  s.satFld (Page.re r) F.RE_FAIL_COUNT_refused 1

/-- The largest use_from among a slot's pending requests and its newest committed root. -/
def slotUseFrom (q : List RootReq) (slot : Nat) (newest : Option (Nat × List Byte)) : Nat :=
  (q.filter fun x => reqSlot x.desc == slot).foldl (fun m x => max m (reqUseFrom x.desc))
    ((newest.map fun e => step48 e.2 7).getD 0)

/-- Accept a checked request: its control tile, then the queue. -/
def acceptRoot (s : State) (r : Nat) (w : Who) (b : List Byte) : State :=
  let slot := reqSlot b
  let s := updCtl s w slot fun c =>
    let n := c.getD 3 0 % 65536
    [0x4C070100 + (w.court.getD 0) * 16, reqLayer b * 65536 + reqKind b * 32768 + reqBlock b,
      wordAt b 5 / 2 ^ 14 * 2 ^ 14, bits (wordAt b 7) 31 16 * 65536 + min (n + 1) 65535,
      if n = 0 then wordAt b 6 else c.getD 4 0, if n = 0 then bits (wordAt b 7) 15 0 else c.getD 5 0, 0, 0]
  let s := setRootQueue s r (rootQueue s r ++ [⟨b, w.court⟩])
  count s (Page.re r) 0x01 { court := w.court }

/-- ROOT_REQUEST. -/
def execRootRequest (h : Hdr) (a : AddrOp) (s : State) : Host.Outcome State Fault Refusal :=
  let r := h.region.toNat
  let addr := addrOf (s.prog h) a
  let pc := (s.prog h).pc
  let held := !h.task && !pageAccepts s (Page.re r)
  issue s h 0 true (if held || rebuildWaits s addr 64 then .hazard else .yes) fun s =>
    let w := regionWho s h 4
    if addr % 64 ≠ 0 then refuseRoot s r Err.re_root_descriptor
    else match consume s w addr 64 pc with
      | (s, none) => s
      | (s, some (b, _)) =>
        if !reqValid b then refuseRoot s r Err.re_root_descriptor
        else match readHeads s w (reqSlot b) (reqQ b) with
          | (s, none) => s
          | (s, some hs) =>
            if reqUseFrom b < slotUseFrom (rootQueue s r) (reqSlot b) (newestRoot hs) then
              refuseRoot s r Err.re_root_descriptor
            else if 64 ≤ (rootQueue s r).length then refuseRoot s r Err.re_root_queue_full
            else acceptRoot s r w b

/-! ## The damped factor (R179, R180) -/

/-- What reading a factor record gives. -/
inductive RecordRead where
  | missing
  | nonfinite
  | data (step : Nat) (els : List Nat)
  deriving DecidableEq, Repr

/-- Does a record header match the request and tile (i, j) (R179)? -/
def recordMatches (h b : List Byte) (court t i j : Nat) : Bool :=
  bits (wordAt h 1) 31 15 == reqLayer b * 2 + reqKind b
    && bits (wordAt h 2) 31 24 == (reqBlock b * reqQ b + i) % 256 && bits (wordAt h 2) 23 16 == (reqBlock b * reqQ b + j) % 256
    && bits (wordAt h 2) 15 0 == t % 65536 && bits (wordAt h 8) 7 4 == court

/-- Read the record of tile (i, j) under the reading rule of R170. -/
def readRecord (s : State) (w : Who) (b : List Byte) (i j : Nat) : State × RecordRead :=
  let q := reqQ b
  let t := reqBlock b * (q * (q + 1) / 2) + i * q - i * (i - 1) / 2 + j - i
  let base := (reqRecord b + t * 130 * tileBytes) % 2 ^ 48
  let at_ (c : Nat) := (base + c * 65 * tileBytes) % 2 ^ 48
  match consume s w (at_ 0) 64 0 with
  | (s, none) => (s, .missing)
  | (s, some (h0, _)) =>
    match consume s w (at_ 1) 64 0 with
    | (s, none) => (s, .missing)
    | (s, some (h1, _)) =>
      match newestCopy (copySeq h0) (copySeq h1) with
      | none => (s, .missing)
      | some (c, _) =>
        let h := if c = 0 then h0 else h1
        if !recordMatches h b (w.court.getD 0) t i j then (s, .missing)
        else if bit (wordAt h 8) 1 then (s, .nonfinite)
        else match consume s w ((at_ c + tileBytes) % 2 ^ 48) (64 * tileBytes) 0 with
          | (s, none) => (s, .missing)
          | (s, some (bs, _)) => (s, .data (step48 h 3) (unpackBits 32 65536 bs))

/-- The tiles (i, j), 0 ≤ i ≤ j < q, ascending. -/
def factorTiles (q : Nat) : List (Nat × Nat) :=
  (List.range q).flatMap fun i => (List.range (q - i)).map fun k => (i, i + k)

/-- Read every factor tile; stops at the first that fails. -/
def readFactor (s : State) (w : Who) (b : List Byte) :
    State × Except RecordRead (List ((Nat × Nat) × Nat × List Nat)) :=
  (factorTiles (reqQ b)).foldl (fun (acc : State × Except RecordRead (List ((Nat × Nat) × Nat × List Nat))) t =>
    match acc with
    | (s, .error e) => (s, .error e)
    | (s, .ok out) =>
      match readRecord s w b t.1 t.2 with
      | (s, .data st els) => (s, .ok (out ++ [(t, st, els)]))
      | (s, e) => (s, .error e)) (s, .ok [])

/-- The symmetric factor A from its tiles. -/
def factorMat (q : Nat) (ts : List ((Nat × Nat) × Nat × List Nat)) : Mat :=
  let n := 256 * q
  let el (x y : Nat) : Nat :=
    match ts.find? fun t => t.1 == (x / 256, y / 256) with
    | some t => t.2.2.getD (x % 256 * 256 + y % 256) 0
    | none => match ts.find? fun t => t.1 == (y / 256, x / 256) with
      | some t => t.2.2.getD (y % 256 * 256 + x % 256) 0
      | none => 0
  (List.range n).map fun x => (List.range n).map fun y => el x y

/-- ε_eff (R180). -/
def epsEff (b : List Byte) (a : Mat) : Nat :=
  match reqDamp b with
  | 0 => reqEps b
  | 1 => fmul (reqEps b) (fdiv ((List.range (reqF b)).foldl (fun t k => fadd t (matAt a k k)) 0) (fnat (reqF b)))
  | _ => fmul (reqEps b) (fro a)

def dampedFactor (a : Mat) (e : Nat) : Mat :=
  (a.zip (List.range a.length)).map fun r => (r.1.zip (List.range r.1.length)).map fun v =>
    if v.2 = r.2 then fadd v.1 e else v.1

/-! ## Attempts (R182, R185) -/

/-- The rows of an F × F matrix stored at bytes (Fx + y) × 4. -/
def matOf (n : Nat) (bs : List Byte) : Mat :=
  let vs := unpackBits 32 (n * n) bs
  (List.range n).map fun x => (vs.drop (n * x)).take n

/-- Matrix data of a slot's copy: 0 the root, 1 the eigenvectors. -/
def readCopyMat (s : State) (w : Who) (slot q c part : Nat) : State × Option Mat :=
  let n := 256 * q
  match consume s w ((copyAddr slot q c + (1 + part * 64 * q * q) * tileBytes) % 2 ^ 48) (4 * n * n) 0 with
  | (s, none) => (s, none)
  | (s, some (bs, _)) => (s, some (matOf n bs))

/-- What a request's attempts give: the root where one converged, method, flags of Table 8.5, iterations, residual,
eigen data, and array-steps. -/
structure RunOut where
  root : Option Mat
  eigen : Bool
  warmUsed : Bool
  coldFallback : Bool
  eigenFallback : Bool
  iters : Nat
  residual : Nat
  v : Mat
  lam : List Nat
  clamped : Nat
  steps : Nat
  newtonIters : Nat
  sweeps : Nat
  warmRejected : Nat
  warmFailed : Nat
  warmTaken : Nat
  colds : Nat
  deriving DecidableEq, Repr

def RunOut.empty : RunOut := ⟨none, false, false, false, false, 0, 0, [], [], 0, 0, 0, 0, 0, 0, 0, 0⟩

/-- Array-steps of one product of F × F matrices. -/
def mmSteps (n : Nat) : Nat := n * n * n / 4096

def addNewton (o : RunOut) (a : Attempt) (n : Nat) (warm : Bool) : RunOut :=
  { o with
    root := if a.fate = .converged then some (symmetrise a.root) else none
    eigen := false
    warmUsed := warm && a.fate == .converged
    iters := a.iters, residual := a.residual
    steps := o.steps + a.products * mmSteps n, newtonIters := o.newtonIters + a.iters
    warmRejected := o.warmRejected + (warm && a.fate == .rejected).toNat
    warmFailed := o.warmFailed + (warm && a.fate == .cap).toNat
    warmTaken := o.warmTaken + (warm && a.fate != .rejected).toNat
    colds := o.colds + (!warm).toNat }

def addEigen (o : RunOut) (a : EigenOut) (n : Nat) (warm : Bool) : RunOut :=
  { o with
    root := if a.att.fate = .converged then some a.att.root else none
    eigen := true
    warmUsed := warm && a.att.fate == .converged
    iters := a.att.iters, residual := a.att.residual, v := a.v, lam := a.lam, clamped := a.clamped
    steps := o.steps + a.att.products + (if a.att.fate = .converged then 2 * mmSteps n else 0)
    sweeps := o.sweeps + a.att.iters
    warmFailed := o.warmFailed + (warm && a.att.fate == .cap).toNat
    warmTaken := o.warmTaken + warm.toNat
    colds := o.colds + (!warm).toNat }

/-- A cold attempt of a method. -/
def coldAttempt (o : RunOut) (b : List Byte) (a ad : Mat) (ee : Nat) (eig : Bool) : RunOut :=
  let n := reqF b
  if eig then addEigen o (eigen (a, identity n f1) n (reqPLog b) (reqTol b) (reqCap b) ee (fro a)) n false
  else addNewton o (newtonCold ad n (reqPLog b) (reqTol b) (reqCap b)) n false

/-- A warm attempt from the newest copy's root or eigenvectors. (DESIGN CHOICE, notes/assumptions/51.md) -/
def warmAttempt (o : RunOut) (b : List Byte) (a ad prev : Mat) (ee : Nat) (eig : Bool) : RunOut :=
  let n := reqF b
  if eig then
    addEigen o (eigen (mm (mm (transpose prev n) a n) prev n, prev) n (reqPLog b) (reqTol b) (reqCap b) ee (fro a)) n true
  else addNewton o (newtonWarm ad prev n (reqPLog b) (reqTol b) (reqCap b)) n true

/-- The attempts of a request (R185): warm if R182 allows, then cold, then for method 0 one cold eigen attempt. `prev` is
the newest copy's data where the signature matches, `mismatch` a valid copy of another signature. -/
def attempts (b : List Byte) (a ad : Mat) (ee : Nat) (prev : Option Mat) (mismatch : Bool) : RunOut :=
  let eig := reqMethod b == 2
  let o := match prev with
    | some x => warmAttempt .empty b a ad x ee eig
    | none => .empty
  let o := if o.root.isNone ∧ (prev.isSome ∨ mismatch) then
      { o with coldFallback := true, warmRejected := o.warmRejected + mismatch.toNat } else o
  let o := if o.root.isSome then o else coldAttempt o b a ad ee eig
  if o.root.isNone ∧ reqMethod b = 0 ∧ reqF b ≤ 512 then
    { coldAttempt o b a ad ee true with eigenFallback := true }
  else o

/-- The signature of a copy header equals the request's (R182). -/
def signatureMatches (h b : List Byte) : Bool :=
  bits (wordAt h 1) 7 4 == reqQm1 b && bits (wordAt h 1) 11 10 == reqPLog b && bits (wordAt h 1) 9 8 == reqDamp b
    && bits (wordAt h 1) 13 12 == (if reqMethod b = 2 then 2 else 1)

/-! ## Commit (R189, Table 8.6) -/

/-- A copy header (Table 8.5). -/
def rootHeader (b : List Byte) (court t : Nat) (o : RunOut) (s0 s1 ee seq : Nat) (valid : Bool) : List Byte :=
  wordBytes [0xB0070100 + valid.toNat,
    reqLayer b * 65536 + reqKind b * 32768 + t * 2 ^ 14 + (if o.eigen then 2 else 1) * 2 ^ 12 + reqPLog b * 2 ^ 10
      + reqDamp b * 256 + reqQm1 b * 16 + o.warmUsed.toNat * 8 + o.coldFallback.toNat * 4 + o.eigenFallback.toNat * 2,
    court * 2 ^ 28 + reqBlock b * 256 + min o.iters 255, s0 % 2 ^ 32, s0 / 2 ^ 32, s1 % 2 ^ 32, s1 / 2 ^ 32,
    reqUseFrom b % 2 ^ 32, reqUseFrom b / 2 ^ 32, seq, ee, o.residual, o.clamped, 0, 0, 0]

/-- Bytes of a matrix by rows. -/
def matBytes (x : Mat) : List Byte := x.flatMap wordBytes

/-- Write pieces in order; false where one was refused. -/
def writeAll (s : State) (w : Who) (ps : List (Nat × List Byte × Nat)) : State × Bool :=
  ps.foldl (fun (acc : State × Bool) p =>
    if acc.2 then
      match writeSpan acc.1 w p.1 p.2.1 p.2.2 with
      | (s, none) => (s, true)
      | (s, some _) => (s, false)
    else acc) (s, true)

/-- Finish the running request with its outcome and the registers of the last request. -/
def rootDone (s : State) (r outcome iters residual : Nat) (stat : Option Nat) : State :=
  let s := finishRoot s r outcome iters
  let s := s.setReg (Page.re r + 0x50) (BitVec.ofNat 32 residual)
  let s := match stat with
    | some t => s.setFld48 (Page.re r) F.RE_LAST_STEP_LO_stat_step_lo F.RE_LAST_STEP_HI_stat_step_hi t
    | none => s
  fixedCount s (Page.re r) 0 1

/-- Commit a converged result in the order of Table 8.6. -/
def commitRoot (s : State) (r : Nat) (w : Who) (b : List Byte) (o : RunOut) (x : Mat) (s0 s1 ee : Nat) : State :=
  let slot := reqSlot b
  let q := reqQ b
  match readHeads s w slot q with
  | (s, none) => if rootQueue s r = [] then s else rootDone s r 6 o.iters o.residual (some s0)
  | (s, some hs) =>
    let old := newestRoot hs
    if (old.map fun e => decide (s0 < step48 e.2 3)).getD false then
      rootDone (rootErr s r Err.re_root_superseded) r 2 o.iters o.residual (some s0)
    else
      let t := (old.map fun e => 1 - e.1).getD 0
      let seq := (old.map fun e => (wordAt e.2 9 + 1) % 2 ^ 32).getD 1
      let a := copyAddr slot q t
      let hdr := rootHeader b (w.court.getD 0) t o s0 s1 ee seq
      let aux := if o.eigen then
          [((a + (1 + 64 * q * q) * tileBytes) % 2 ^ 48, matBytes (transpose o.v (reqF b)), 1), (a + 2048, wordBytes o.lam, 0)]
        else []
      let (s, ok) := writeAll s w
        ([(a, hdr false, 0), ((a + tileBytes) % 2 ^ 48, matBytes x, 1)] ++ aux ++ [(a, hdr true, 0)])
      let s := if ok then count s (Page.re r) 0x07 { court := w.court } else s
      rootDone s r (if ok then 1 else 6) o.iters o.residual (some s0)

/-! ## Running a request (R178) -/

/-- The engine writes its work area: 24 F² bytes of tiles whose bytes the spec leaves open; false where it may not. (DESIGN CHOICE, notes/assumptions/52.md) -/
def useWork (s : State) (w : Who) (b : List Byte) : State × Bool :=
  if reqF b ≤ 512 then (s, true)
  else
    let n := 24 * reqF b * reqF b / tileBytes
    let k := s.freeCount
    let s := { s with freeCount := k + 1 }
    (List.range n).foldl (fun (acc : State × Bool) i =>
      if acc.2 then
        match writeTile acc.1 w ((reqWork b + i * tileBytes) % 2 ^ 48)
            ((List.range tileBytes).map fun j => Config.freeByte k (i * tileBytes + j)) 1 with
        | (s, none) => (s, true)
        | (s, some _) => (s, false)
      else acc) (s, true)

/-- Counters and flags of a request's attempts (R183, Table 8.11). -/
def noteRun (s : State) (r : Nat) (o : RunOut) : State :=
  let pg := Page.re r
  let c : Cnt := { court := s.courtOf r }
  let s := count s pg 0x03 { c with n := o.newtonIters }
  let s := count s pg 0x04 { c with n := o.sweeps }
  let s := count s pg 0x05 { c with n := o.steps }
  let s := count s pg 0x08 { c with n := o.warmTaken }
  let s := count s pg 0x09 { c with n := o.colds }
  let s := fixedCount s pg 1 o.steps
  let s := s.satFld pg F.RE_WARM_COUNT_warm_rejected o.warmRejected
  let s := s.satFld pg F.RE_WARM_COUNT_warm_failed o.warmFailed
  let s := s.setReg (pg + 0x48) (BitVec.ofNat 32 o.residual)
  if o.coldFallback then rootErr s r Err.re_root_cold_start else s

/-- The previous root or eigenvectors for a warm start: the data, whether the request is to be mismatched. -/
def warmData (s : State) (w : Who) (b : List Byte) : State × Option Mat × Bool :=
  if !reqWarm b then (s, none, false)
  else match readHeads s w (reqSlot b) (reqQ b) with
    | (s, none) => (s, none, false)
    | (s, some hs) =>
      match newestRoot hs with
      | none => (s, none, false)
      | some (c, h) =>
        if !signatureMatches h b then (s, none, true)
        else
          let (s, x) := readCopyMat s w (reqSlot b) (reqQ b) c (if reqMethod b = 2 then 1 else 0)
          -- eigenvectors lie with component x of vector k at (F x + k): the matrix v itself
          (s, x, false)

def runRoot (s : State) (r : Nat) (q : RootReq) : State :=
  let b := q.desc
  let w : Who := ⟨q.court, 4, 0⟩
  let s := s.setReg (Page.re r + 0x44) (BitVec.ofNat 32
    (reqKind b * 2 ^ 30 + (if reqMethod b = 2 then 2 else 1) * 2 ^ 28 + reqBlock b * 2 ^ 20 + reqLayer b % 4096))
  match readFactor s w b with
  | (s, .error e) =>
    if rootQueue s r = [] then s
    else if e = .nonfinite then rootDone (rootErr s r Err.re_root_input_nonfinite) r 5 0 0 none
    else rootDone (rootErr s r Err.re_root_record) r 4 0 0 none
  | (s, .ok ts) =>
    let a := factorMat (reqQ b) ts
    let s0 := (ts.map fun t => t.2.1).foldl min (2 ^ 48)
    let s1 := (ts.map fun t => t.2.1).foldl max 0
    if a.flatten.any fun v => !ffinite v then rootDone (rootErr s r Err.re_root_input_nonfinite) r 5 0 0 (some s0)
    else
      let (s, workOk) := useWork s w b
      let ee := epsEff b a
      let (s, prev, mismatch) := warmData s w b
      if rootQueue s r = [] then s
      else
        let o := if workOk then attempts b a (dampedFactor a ee) ee prev mismatch else .empty
        let s := noteRun s r o
        match o.root with
        | none =>
          let s := (rootErr s r Err.re_root_nonconverged).satFld (Page.re r) F.RE_FAIL_COUNT_nonconverged 1
          rootDone s r 3 o.iters o.residual (some s0)
        | some x => commitRoot s r w b o x s0 s1 ee

/-! ## Use at a consumer (R191, R192, Table 8.7) -/

/-- The error bits of a consumer's page: root-absent, root-stale, root-wait-expired. -/
structure UseBits where
  page : Nat
  absent : Nat
  stale : Nat
  expired : Nat
  deriving DecidableEq, Repr

/-- What the use rule gives: outcome 1 fresh, 2 stale-used, 3 none; staleness; the root's bytes asked for. -/
structure UseOut where
  outcome : Nat
  d : Nat
  data : List Byte
  deriving DecidableEq, Repr

/-- Must a consumer wait at step 2: select exact, and a pending request whose use_from is not above s? -/
def rootWaits (s : State) (w : Who) (slot step : Nat) : Bool :=
  match admits s w slot with
  | some _ => false
  | none =>
    let b := (tileData s slot).1
    bit (wordAt b 2) 15 && bits (wordAt b 3) 15 0 != 0 && decide (step48 b 4 ≤ step)

/-- Read a span for a consumer whose checks are made for w and whose poison is charged to a court. -/
def consumeFor (s : State) (w : Who) (court : Option Nat) (a n : Nat) : State × Option (List Byte) :=
  match readSpan s w a n with
  | (s, .refused _) => (s, none)
  | (s, .poisoned t) => (poisonConsumed s { w with court := court } t 0, none)
  | (s, .bytes bs _) => (s, some bs)

/-- The copy a consumer takes at step s: index and header (steps 3 and 4). -/
def eligible (h0 h1 : List Byte) (step : Nat) : Option (Nat × List Byte) :=
  let ok (h : List Byte) : Option Nat := if step48 h 7 ≤ step then rootSeq h else none
  (newestCopy (ok h0) (ok h1)).map fun e => (e.1, if e.1 = 0 then h0 else h1)

/-- Table 8.7 from step 3 on, for n bytes at an offset of the root data. `court` bears the poison; the errors go to the
court the control tile names. -/
def useRoot (s : State) (w : Who) (court : Option Nat) (u : UseBits) (slot step off n : Nat) : State × UseOut :=
  match consumeFor s w court slot 32 with
  | (s, none) => (raiseEv s u.absent { page := u.page, court := court }, ⟨3, 0, []⟩)
  | (s, some c) =>
    let named := some (bits (wordAt c 0) 7 4)
    let err (s : State) (bit mag : Nat) : State := raiseEv s bit { page := u.page, court := named, mag := mag }
    match consumeFor s w court (copyAddr slot 1 0) 64 with
    | (s, none) => (err s u.absent 1, ⟨3, 0, []⟩)
    | (s, some h0) =>
      let q := bits (wordAt h0 1) 7 4 + 1
      match consumeFor s w court (copyAddr slot q 1) 64 with
      | (s, none) => (err s u.absent 1, ⟨3, 0, []⟩)
      | (s, some h1) =>
        match eligible h0 h1 step with
        | none => (err s u.absent 1, ⟨3, 0, []⟩)
        | some (k, h) =>
          let d := step - step48 h 3
          let fresh := decide (d ≤ bits (wordAt c 2) 31 16)
          let s := if fresh then s else err s u.stale d
          if !fresh && bit (wordAt c 2) 14 then (s, ⟨3, d, []⟩)
          else
            let size := 4 * 65536 * q * q
            match consumeFor s w court ((copyAddr slot q k + tileBytes + off) % 2 ^ 48) (min n (size - off)) with
            | (s, none) => (err s u.absent 1, ⟨3, d, []⟩)
            | (s, some bs) => (s, ⟨if fresh then 1 else 2, d, bs⟩)

/-! ## Root fetch (R245) -/

def rgUse (r : Nat) : UseBits := ⟨Page.rg r, Err.rg_root_absent, Err.rg_root_stale, Err.rg_root_wait_expired⟩

/-- A root fetch after its wait: the data into the cluster store with code 0x1, and RG_ROOT_LAST. `use` is the slot, step,
store address, offset, bytes and physical cluster. (DESIGN CHOICE, notes/assumptions/53.md) -/
def fetchRoot (s : State) (r : Nat) (task : Bool) (use : List Nat) : State :=
  let g (i : Nat) := use.getD i 0
  let w : Who := ⟨s.courtOf r, 1, if task then 1 else 0⟩
  let (s, o) := useRoot s w w.court (rgUse r) (g 0) (g 1) (g 3) (g 4)
  let s := s.setReg (Page.rg r + 0x94) (BitVec.ofNat 32 (o.outcome * 2 ^ 30 + min o.d 0xFFFF))
  if o.data = [] then s else s.updCluster (clusterOf r (g 5)) fun x => storeWrite x (g 2) o.data 1

/-- The root fetches of a program that no longer wait complete. -/
def settleFetches (s : State) (r : Nat) (task : Bool) : State :=
  let go (i : InFlight) : Option (List Nat) := match i.what with
    | .rootFetch use =>
      if use.getD 6 0 = 1 ∨ !rootWaits s ⟨s.courtOf r, 1, 0⟩ (use.getD 0 0) (use.getD 1 0) then some use else none
    | _ => none
  let ready := (progOf (s.region r) task).inflight.filterMap go
  let s := updProg s r task fun p => completeInflight p fun i => (go i).isSome
  forEach ready s fun s use => fetchRoot s r task use

/-- Every waiting root fetch re-reads its control tile. -/
def settleAllFetches (s : State) : State :=
  forEach (s.regions.map (·.1)) s fun s r => settleFetches (settleFetches s r false) r true

/-- A logical cluster of the stage, as a physical index. -/
def partOf (s : State) (r logical : Nat) : Option Nat := ((parts s r).find? fun e => e.1 == logical).map (·.2)

/-- ROOT_FETCH. -/
def execRootFetch (h : Hdr) (a : AddrOp) (o : RootFetchOp) (s : State) : Host.Outcome State Fault Refusal :=
  let r := h.region.toNat
  let p := s.prog h
  let slot := addrOf p a
  let n := (o.sizeM1.toNat + 1) * 64
  issue s h 0 true (if rebuildWaits s slot 32 then .hazard else .yes) fun s =>
    match partOf s r o.cluster.toNat with
    | none => raise s (Page.rg r) Err.rg_cluster_absent
    | some ph =>
      if storeSize < o.cs.toNat + n then veErr s (clusterOf r ph) Err.ve_store_range
      else
        let use := [slot, p.step.toNat, o.cs.toNat, o.offset.toNat * 64, n, ph, 0]
        if rootWaits s (regionWho s h 1) slot p.step.toNat then hold s h p.pc 6 (.rootFetch use)
        else fetchRoot s r h.task use

/-- ROOT_RUN: the engine starts its oldest request (R178); consumers that waited for it go on. -/
def execRootRun (region : BitVec 5) (s : State) : Host.Outcome State Fault Refusal :=
  let r := region.toNat
  match rootQueue s r with
  | [] => turnedAway s
  | q :: _ => effect s fun s => settleAllFetches (runRoot s r q)

end Sys2Proof.Machine
end

