-- ==== Sys2Proof/Machine/Move.lean ====
section
/-! DEFINITION. The move engine: weight loads, plain and from the version ring, fetch, store, send, receive and copy
(09_ablos_encoding.md Table 9.12, R497; 04_tensor_units.md R96 to R98, R494; 12_caddie.md R276, R279, R288). -/

namespace Sys2Proof.Machine

/-! ## Weight loads -/

/-- The context of a weight load's accesses: reader 0, the move engine as master. -/
def loadWho (court : Option Nat) : Who := ⟨court, 0, 2⟩

/-- A refusal as a bank records it. -/
def causeOf (why : Refused) (a : Nat) : BankCause :=
  match why with
  | .stackRetired => .refused 0 a
  | .addressRange => .refused 1 a
  | .courtRange => .refused 2 a
  | .tagMismatch => .refused 3 a

/-- Read one tile for a load, against the format it must have (R97): its bytes, or why the load fails. Poison raises the
stack's events only. -/
def loadTile (s : State) (w : Who) (a want : Nat) : State × Except BankCause (List Byte) :=
  match readTile s w (a % 2 ^ 48) with
  | (s, .refused why) => (s, .error (causeOf why (a % 2 ^ 48)))
  | (s, .data bs t) =>
    if t.poison then (s, .error (.poison (a % 2 ^ 48)))
    else if Fmt.agree t.format.toNat want then (s, .ok bs) else (s, .error .formatMismatch)

/-- Read tiles in order until one fails. -/
def loadTiles (s : State) (w : Who) (ts : List (Nat × Nat)) : State × Except BankCause (List Byte) :=
  ts.foldl (fun (acc : State × Except BankCause (List Byte)) t =>
    match acc with
    | (s, .error e) => (s, .error e)
    | (s, .ok bs) =>
      match loadTile s w t.1 t.2 with
      | (s, .error e) => (s, .error e)
      | (s, .ok b) => (s, .ok (bs ++ b))) (s, .ok [])

/-- Element tiles of a block. -/
def blockTiles (wfmt : Nat) (narrow : Bool) : Nat := (blockBytes wfmt narrow + tileBytes - 1) / tileBytes

/-- The tiles of a block at an address with the formats they must have: elements, then the scale tile (R494). -/
def blockSpan (wfmt : Nat) (narrow : Bool) (a : Nat) : List (Nat × Nat) :=
  ((List.range (blockTiles wfmt narrow)).map fun i => (a + i * tileBytes, wfmt))
    ++ (if scaleBytes wfmt narrow = 0 then [] else [(a + blockTiles wfmt narrow * tileBytes, scaleFmt wfmt)])

/-- The high halves of a round-aware read: high + 1 as a 16-bit pattern where the bitmap's bit is 1 (R279). -/
def roundHigh (bitmap : Nat → Bool) : Nat → List Byte → List Byte
  | i, a :: b :: t =>
    leBytes 2 (((leNat [a, b]) + (bitmap i).toNat) % 65536) ++ roundHigh bitmap (i + 1) t
  | _, t => t

/-- Where a load reads: the block's address, and for a round-aware read the bitmap's address and the first element. -/
structure LoadFrom where
  base : Nat
  bitmap : Option (Nat × Nat)
  load : BankLoad
  deriving DecidableEq, Repr

/-- Read the round bitmap's tiles for n elements from element `first` on. -/
def readBitmap (s : State) (w : Who) (base first n : Nat) : State × Except BankCause (Nat → Bool) :=
  let a := base + first / 8
  let m := (first % 8 + n + 7) / 8
  match loadTiles s w ((spanTiles a m).map fun t => (t, 0)) with
  | (s, .error e) => (s, .error e)
  | (s, .ok bs) => (s, .ok fun i => bit (leAt bs (a % tileBytes + (first % 8 + i) / 8) 1) ((first % 8 + i) % 8))

/-- The bank that a block at an address fills, or why it cannot. -/
def readBlock (s : State) (w : Who) (wfmt : Nat) (f : LoadFrom) : State × Except BankCause Bank :=
  let narrow := f.load.narrow
  match loadTiles s w (blockSpan wfmt narrow f.base) with
  | (s, .error e) => (s, .error e)
  | (s, .ok bs) =>
    let els := bs.take (blockBytes wfmt narrow)
    let scales := (bs.drop (blockTiles wfmt narrow * tileBytes)).take (scaleBytes wfmt narrow)
    match f.bitmap with
    | none => (s, .ok ⟨wfmt, true, els, scales, .none, f.load⟩)
    | some (b, first) =>
      match readBitmap s w b first (els.length / 2) with
      | (s, .error e) => (s, .error e)
      | (s, .ok m) => (s, .ok ⟨wfmt, true, roundHigh m 0 els, scales, .none, f.load⟩)

/-! ### The version ring (R276, R288) -/

/-- The slot that holds a version, or the current one, in state committing or committed. -/
def ringSlot (b : List Byte) (v : Option Nat) : Option Nat :=
  if bits (wordAt b 0) 31 8 = 0x51D701 then
    match v with
    | some v => (List.range (ringSlots b)).find? fun k => ringVersion b k == v && decide (2 ≤ ringState b k)
    | none => if ringCurrent b < ringSlots b ∧ 2 ≤ ringState b (ringCurrent b) then some (ringCurrent b) else none
  else none

/-- Tiles of high halves E, from T_s = 2E + ceil(E ÷ 8). (DESIGN CHOICE, notes/assumptions/57.md) -/
def ringElems (ts : Nat) : Nat := 8 * ts / 17

/-- The version a ring load reads: none for the current one; `some none` is a negative version. -/
def loadVersion (o : WeightLoadOp) (step : Nat) : Option (Option Nat) :=
  if o.version = 1#2 then
    (if step < 1 + o.lag.toNat then some none else some (some (step - 1 - o.lag.toNat)))
  else none

def isRing (o : WeightLoadOp) : Bool := o.version == 1#2 || o.roundAware

/-- Must a ring load wait: its slot is in state committing (R288 step 2)? -/
def ringCommitting (s : State) (court : Option Nat) (ring : Nat) (v : Option Nat) : Bool :=
  match admits s (loadWho court) ring with
  | some _ => false
  | none =>
    let b := ((tileData s ring).1.drop (ring % tileBytes)).take 64
    match ringSlot b v with
    | some k => ringState b k == 2
    | none => false

/-- Find a version: the slot's first byte, the bitmap, and the version, or why the load fails. (DESIGN CHOICE, notes/assumptions/56.md) -/
def findVersion (s : State) (court : Option Nat) (ring : Nat) (v : Option Nat) :
    State × Except BankCause (Nat × Nat × Nat) :=
  let w := loadWho court
  match loadTile s w (ring / tileBytes * tileBytes) 0 with
  | (s, .error e) => (s, .error e)
  | (s, .ok t) =>
    let b := (t.drop (ring % tileBytes)).take 64
    match ringSlot b v with
    | none =>
      (raiseEv s Err.caddie_version_absent { page := Page.caddie (stackOf ring), court := court }, .error (.versionAbsent ring))
    | some k =>
      let base := ring + tileBytes * (1 + k * ringTiles b)
      (s, .ok (base, base + 2 * ringElems (ringTiles b) * tileBytes, ringVersion b k))

/-- The second header read of R288 step 3; nothing comes between the two in this model. -/
def recheckRing (s : State) (court : Option Nat) (ring : Nat) : State :=
  (readTile s (loadWho court) ring).1

/-! ### Filling banks -/

/-- Load rows of a block (R96: 64 bytes each). -/
def loadRows (wfmt : Nat) (narrow : Bool) : Nat := blockBytes wfmt narrow / 64

/-- Put a loaded bank into the shadow or active place of a unit, and count its load rows. -/
def fillBank (s : State) (c u : Nat) (active : Bool) (b : Bank) : State :=
  let s := s.updCluster c fun x =>
    let t := unitOf x u
    setUnit x u (if active then { t with active := b } else { t with shadow := b })
  let s := showBanks s c
  if b.valid then
    let n := loadRows b.fmt b.load.narrow
    fixedCount (count s (Page.tu c) 0x04 { n := n, court := pageCourt s (Page.tu c), master := some 2 }) (Page.tu c) 1 n
  else s

/-- A load that failed leaves the bank invalid with its cause; a format difference is raised on the cluster's TU page. (DESIGN CHOICE, notes/assumptions/54.md) -/
def failBank (s : State) (c u : Nat) (active : Bool) (cause : BankCause) (l : BankLoad) : State :=
  let s := fillBank s c u active ⟨0, false, [], [], cause, l⟩
  match cause with
  | .formatMismatch => raise s (Page.tu c) Err.tu_format_mismatch
  | _ => s

/-- Load one unit's bank. -/
def loadUnit (s : State) (court : Option Nat) (c u : Nat) (active : Bool) (wfmt : Nat) (f : LoadFrom) : State :=
  match readBlock s (loadWho court) wfmt f with
  | (s, .error e) => failBank s c u active e f.load
  | (s, .ok b) => fillBank s c u active b

/-- Load a bank again from where it came (04_tensor_units.md R105; 16_fault_containment.md R392; 14_host_port.md
Table 14.4a): the recorded address and, for a ring load, the recorded version. -/
def reloadBank (s : State) (court : Option Nat) (c u : Nat) (active : Bool) (wfmt : Nat) (l : BankLoad) : State :=
  if wfmt = 0 then s
  else if l.ring then
    match findVersion s court l.addr (some l.version) with
    | (s, .error e) => failBank s c u active e l
    | (s, .ok (base, bm, _)) =>
      loadUnit s court c u active wfmt
        ⟨(base + l.ringOff) % 2 ^ 48, if l.roundAware then some (bm, l.ringOff / 2) else none, l⟩
  else loadUnit s court c u active wfmt ⟨l.addr, none, l⟩

/-- The units a weight load names: logical cluster, physical cluster, unit. -/
def loadUnits (s : State) (r : Nat) (mask : BitVec 16) : List (Nat × Nat × Nat) :=
  (parts s r).flatMap fun e => if mask.getLsbD e.1 then (List.range 4).map fun u => (e.1, e.2, u) else []

/-- Does a mask name a logical cluster that does not participate (R497)? -/
def maskAbsent (s : State) (r : Nat) (mask : BitVec 16) : Bool :=
  (maskBits 16 mask.toNat).any fun c => (partOf s r c).isNone

/-- Byte offset of a unit's block. -/
def unitOff (o : WeightLoadOp) (e : Nat × Nat × Nat) : Nat := (4 * e.1 + e.2.2) * o.stride.toNat * tileBytes

/-- Load every named unit of a load whose block area starts at `base`. -/
def loadAll (s : State) (h : Hdr) (o : WeightLoadOp) (ring : Option (Nat × Nat × Nat)) (base disp : Nat) : State :=
  let r := h.region.toNat
  let court := s.courtOf r
  let us := loadUnits s r o.mask
  let wfmt := o.wfmt.toNat
  if !aligned base then
    let s := refuseUnaligned s (loadWho court) base
    forEach us s fun s e =>
      failBank s (clusterOf r e.2.1) e.2.2 false (.refused 1 base) ⟨false, base, 0, 0, false, o.narrow⟩
  else forEach us s fun s e =>
    let off := unitOff o e
    let f : LoadFrom := match ring with
      | some (a, bm, v) =>
        ⟨(base + off) % 2 ^ 48, if o.roundAware then some (bm, (disp + off) / 2) else none,
          ⟨true, a, disp + off, v, o.roundAware, o.narrow⟩⟩
      | none => ⟨(base + off) % 2 ^ 48, none, ⟨false, (base + off) % 2 ^ 48, 0, 0, false, o.narrow⟩⟩
    loadUnit s court (clusterOf r e.2.1) e.2.2 false wfmt f

/-- A ring load. -/
def loadRing (s : State) (h : Hdr) (o : WeightLoadOp) (ring disp : Nat) (v : Option (Option Nat)) : State :=
  let r := h.region.toNat
  let court := s.courtOf r
  let failAll (s : State) (e : BankCause) : State :=
    forEach (loadUnits s r o.mask) s fun s k =>
      failBank s (clusterOf r k.2.1) k.2.2 false e ⟨true, ring, disp, 0, o.roundAware, o.narrow⟩
  match v with
  | some none =>
    failAll (raiseEv s Err.caddie_version_absent { page := Page.caddie (stackOf ring), court := court }) (.versionAbsent ring)
  | v =>
    match findVersion s court ring (v.getD none) with
    | (s, .error e) => failAll s e
    | (s, .ok (base, bm, ver)) =>
      recheckRing (loadAll s h o (some (ring, bm, ver)) ((base + disp) % 2 ^ 48) disp) court ring

/-- Lowest reason of a weight-load word: a format without a weight block (5), a value out of range (6). (DESIGN CHOICE, notes/assumptions/55.md) -/
def loadReason (o : WeightLoadOp) : Nat :=
  if (pairWidth o.wfmt.toNat 4).isNone && (pairWidth o.wfmt.toNat 6).isNone && (pairWidth o.wfmt.toNat o.wfmt.toNat).isNone then 5
  else if o.stride = 0#8 ∨ (o.narrow && o.wfmt != 10#4) ∨ 2 ≤ o.version.toNat ∨ 3 < o.lag.toNat then 6
  else 0

/-- Does a load wait: for a committing slot, or for a tile in rebuild (R267, R288)? -/
def loadWaits (s : State) (h : Hdr) (o : WeightLoadOp) (ring disp : Nat) (v : Option (Option Nat)) : Bool :=
  let r := h.region.toNat
  let court := s.courtOf r
  let span (base : Nat) : Bool :=
    (loadUnits s r o.mask).any fun e =>
      tilesWait s ((blockSpan o.wfmt.toNat o.narrow ((base + unitOff o e) % 2 ^ 48)).map (·.1))
  if isRing o then
    if v = some none then false
    else ringCommitting s court ring (v.getD none)
      || (let b := ((tileData s ring).1.drop (ring % tileBytes)).take 64
          match ringSlot b (v.getD none) with
          | some k => span (ring + tileBytes * (1 + k * ringTiles b) + disp)
          | none => false)
  else span ((ring + disp) % 2 ^ 48)

/-- WEIGHT_LOAD. -/
def execWeightLoad (h : Hdr) (a : AddrOp) (o : WeightLoadOp) (s : State) : Host.Outcome State Fault Refusal :=
  let r := h.region.toNat
  let p := s.prog h
  let base := (aReg p a.areg.toNat).toNat
  let disp := (a.disp.signExtend 48).toNat
  let v := loadVersion o p.step.toNat
  let gone := maskAbsent s r o.mask
  issue s h (loadReason o) true (if !gone && loadWaits s h o base disp v then .hazard else .yes) fun s =>
    if gone then raise s (Page.rg r) Err.rg_cluster_absent
    else if isRing o then loadRing s h o base disp v
    else loadAll s h o none ((base + disp) % 2 ^ 48) 0

/-! ## Fetch and store -/

/-- The clusters a fetch or store names with their memory addresses. -/
def fetchSel (s : State) (r base : Nat) (o : FetchOp) : List (Nat × Nat) :=
  (parts s r).filterMap fun e =>
    if o.mask.getLsbD e.1 then some (e.2, (base + e.1 * o.clusterStride.toNat * tileBytes) % 2 ^ 48) else none

def fetchBytes (o : FetchOp) : Nat := (o.sizeM1.toNat + 1) * 64

/-- The checks of R497 that stop a move in every cluster; the flag says it goes on. -/
def moveRefused (s : State) (r : Nat) (absent : Bool) (cs n : Nat) (phys : List Nat) : State × Bool :=
  if absent then (raise s (Page.rg r) Err.rg_cluster_absent, false)
  else if storeSize < cs + n then
    (forEach phys s fun s p => veErr s (clusterOf r p) Err.ve_store_range, false)
  else (s, true)

/-- Write a fetched span into a store, each tile's bytes with the format code of that tile (R496). -/
def storeTiles (x : Cluster) (cs a : Nat) (bs : List Byte) (fs : List Nat) : Cluster :=
  ((spanTiles a bs.length).zip fs).foldl (fun x e =>
    let (lo, part) := spanPart a bs e.1
    storeWrite x (cs + (lo - a)) part e.2) x

/-- FETCH. -/
def execFetch (h : Hdr) (a : AddrOp) (o : FetchOp) (s : State) : Host.Outcome State Fault Refusal :=
  let r := h.region.toNat
  let p := s.prog h
  let sel := fetchSel s r (addrOf p a) o
  let n := fetchBytes o
  issue s h 0 true (if sel.any fun e => rebuildWaits s e.2 n then .hazard else .yes) fun s =>
    match moveRefused s r (maskAbsent s r o.mask) o.cs.toNat n (sel.map (·.1)) with
    | (s, false) => s
    | (s, true) => forEach sel s fun s e =>
        if !(s.region r).started then s
        else match consume s ⟨s.courtOf r, 1, 2⟩ e.2 n p.pc with
          | (s, none) => s
          | (s, some (bs, fs)) => s.updCluster (clusterOf r e.1) fun x => storeTiles x o.cs.toNat e.2 bs fs

/-- MOVE_STORE. -/
def execMoveStore (h : Hdr) (a : AddrOp) (o : FetchOp) (s : State) : Host.Outcome State Fault Refusal :=
  let r := h.region.toNat
  let p := s.prog h
  let sel := fetchSel s r (addrOf p a) o
  let n := fetchBytes o
  issue s h 0 true (if sel.any fun e => rebuildWaits s e.2 n then .hazard else .yes) fun s =>
    match moveRefused s r (maskAbsent s r o.mask) o.cs.toNat n (sel.map (·.1)) with
    | (s, false) => s
    | (s, true) => forEach sel s fun s e =>
        (writeSpan s ⟨s.courtOf r, 6, 2⟩ e.2 (storeRead (s.cluster (clusterOf r e.1)) o.cs.toNat n) o.fmt.toNat).1

/-! ## Send and receive (R226, R228) -/

/-- Lowest reason of a send or receive word. (DESIGN CHOICE, notes/assumptions/58.md) -/
def pbMoveReason (s : State) (h : Hdr) (o : PbMoveOp) : Nat :=
  if (o.mem && (o.cs != 0#21 || o.cluster != 0#4)) || (!o.mem && (o.addr.areg != 0#4 || o.addr.disp != 0#32)) then 3
  else if (s.region h.region.toNat).pbs.length ≤ o.pb.toNat then 8 else 0

/-- Bytes a send or receive moves. -/
def pbMoveBytes (d : PbDesc) (o : PbMoveOp) : Nat := (o.entriesM1.toNat + 1) * d.entryBytes

/-- R497's checks for the cluster-store side. -/
def pbMoveRefused (s : State) (r : Nat) (o : PbMoveOp) (n : Nat) : State × Bool :=
  if o.mem then (s, true)
  else
    let q := partOf s r o.cluster.toNat
    moveRefused s r q.isNone o.cs.toNat n (q.map (fun p => [p])).toList.flatten

/-- The bytes a send puts in. -/
def sendBytes (s : State) (h : Hdr) (o : PbMoveOp) (p : Prog) (n : Nat) : State × Option (List Byte) :=
  let r := h.region.toNat
  if o.mem then
    match consume s ⟨s.courtOf r, 1, 2⟩ (addrOf p o.addr) n p.pc with
    | (s, some (bs, _)) => (s, some bs)
    | (s, none) => (s, none)
  else (s, (partOf s r o.cluster.toNat).map fun q => storeRead (s.cluster (clusterOf r q)) o.cs.toNat n)

/-- SEND. -/
def execSend (h : Hdr) (o : PbMoveOp) (s : State) : Host.Outcome State Fault Refusal :=
  let r := h.region.toNat
  let p := s.prog h
  let waits := match pbDesc s r o.pb.toNat with
    | some d => o.mem && rebuildWaits s (addrOf p o.addr) (pbMoveBytes d o)
    | none => false
  issue s h (pbMoveReason s h o) true (if waits then .hazard else .yes) fun s =>
    match pbDesc s r o.pb.toNat with
    | none => s
    | some d =>
      match pbMoveRefused s r o (pbMoveBytes d o) with
      | (s, false) => s
      | (s, true) =>
        match sendBytes s h o p (pbMoveBytes d o) with
        | (s, none) => s
        | (s, some bs) => finishProducer (pushBytes s d bs) h d p.pc 6

/-- Put received bytes where the instruction names. -/
def receiveInto (s : State) (h : Hdr) (o : PbMoveOp) (p : Prog) (d : PbDesc) (bs : List Byte) : State :=
  let r := h.region.toNat
  if o.mem then (writeSpan s ⟨s.courtOf r, 6, 2⟩ (addrOf p o.addr) bs d.format).1
  else match partOf s r o.cluster.toNat with
    | some q => s.updCluster (clusterOf r q) fun x => storeWrite x o.cs.toNat bs d.format
    | none => s

/-- RECEIVE. -/
def execReceive (h : Hdr) (o : PbMoveOp) (s : State) : Host.Outcome State Fault Refusal :=
  let r := h.region.toNat
  let p := s.prog h
  let d := (pbDesc s r o.pb.toNat).getD ⟨0, 0, 0, 0, 0, 0, 0, 0, 0, 0, 0⟩
  let n := pbMoveBytes d o
  let refused := !(pbMoveRefused s r o n).2
  let ready : Ready :=
    if refused then .yes
    else if o.mem && rebuildWaits s (addrOf p o.addr) n then .hazard
    else if available s d < n then .counted 2 o.pb.toNat else .yes
  issue s h (pbMoveReason s h o) true ready (onWait := fun s => drainStore s d n) fun s =>
    match pbMoveRefused s r o n with
    | (s, false) => s
    | (s, true) =>
      let (s, bs, bad) := takeBytes s d n
      if bad then poisonEntry s h else receiveInto s h o p d bs

/-! ## Copy -/

/-- MOVE_COPY. -/
def execMoveCopy (h : Hdr) (tilesM1 : BitVec 16) (src dst : AddrOp) (s : State) : Host.Outcome State Fault Refusal :=
  let r := h.region.toNat
  let p := s.prog h
  let a := addrOf p src
  let b := addrOf p dst
  let n := tilesM1.toNat + 1
  let waits := rebuildWaits s a (n * tileBytes) || rebuildWaits s b (n * tileBytes)
  issue s h 0 true (if waits then .hazard else .yes) fun s =>
    let w : Who := ⟨s.courtOf r, 6, 2⟩
    if !aligned a then refuseUnaligned s w a
    else if !aligned b then refuseUnaligned s w b
    else (copyTiles s w a b n).1

end Sys2Proof.Machine
end

