-- ==== Sys2Proof/Machine/Repair.lean ====
section
/-! DEFINITION. The repair map in flash (16_fault_containment.md R405, Table 16.6). Its check word is that of its contents
and is not stored apart. -/

namespace Sys2Proof.Machine

/-- Word index of region r's record and of stack n's. -/
def regionRec (r : Nat) : Nat := 16 + 64 * r
def stackRec (n : Nat) : Nat := 2064 + 8 * n

/-- The map of a part with no fault: sixteen working clusters, each logical cluster on its own index. -/
def repairDefault (k : Nat) : Nat :=
  if k = 0 then 0x4E9A0100
  else if 16 ≤ k ∧ k < 2064 then
    match (k - 16) % 64 with
    | 0 => 0x100000
    | 2 => 0x03020100
    | 3 => 0x07060504
    | 4 => 0x0B0A0908
    | 5 => 0x0F0E0D0C
    | _ => 0
  else 0

def repairWord (s : State) (k : Nat) : Nat := KMap.get s.flash.repair (repairDefault k) k

def setRepairWord (s : State) (k v : Nat) : State :=
  { s with flash := { s.flash with repair := KMap.set s.flash.repair (repairDefault k) k (v % 2 ^ 32) } }

/-- A new version of the map with some words changed; nothing is written where none changes. (DESIGN CHOICE, notes/assumptions/97.md) -/
def writeRepair (s : State) (ws : List (Nat × Nat)) : State :=
  if ws.all fun e => repairWord s e.1 == e.2 % 2 ^ 32 then s
  else
    let s := forEach ws s fun s e => setRepairWord s e.1 e.2
    setRepairWord s 1 (repairWord s 1 + 1)

end Sys2Proof.Machine
end

