-- ==== Sys2Proof/Machine/Chesy.lean ====
section
/-! DEFINITION. The reception of a message (13_fabric_and_collectives.md R309, R311, R313, R316, R498). -/

namespace Sys2Proof.Machine

/-! ## Reception -/

/-- A message discarded and counted (R309, R313, R498). -/
def badMessage (s : State) : State :=
  (noteIn s Page.chesy Err.chesy_bad_message none).satFld Page.chesy F.CHESY_BAD_count 1

/-- An acknowledgement: type, and words ack, sack, flags. -/
def sendAck (s : State) (dev fl : Nat) (typ : Nat) (resendSrc ece : Bool) (credit : Nat) : State :=
  let f := flowOf s dev fl
  let sack := f.held.foldl (fun m e =>
    let d := (e.1 + 2 ^ 32 - f.expect - 1) % 2 ^ 32
    if d < 32 then m ||| 2 ^ d else m) 0
  let s := s.send ⟨.device dev, typ, [fl, f.expect, sack, ece.toNat * 2 ^ 31 + resendSrc.toNat * 2 ^ 29 + credit], []⟩
  setFlow s dev fl { f with fresh := 0 }

/-- What an engine makes of a message: its state, and whether it takes it. A message whose tile fails its first check is
not taken; a NAK asks for it again (R316). -/
inductive Taken where
  | yes (s : State)
  | resend (s : State)
  deriving DecidableEq, Repr

/-- Take one message in sequence. (DESIGN CHOICE, notes/assumptions/94.md) -/
def takeMsg (s : State) (w : WireHdr) (m : ChesyMsg) (engine : State → WireHdr → ChesyMsg → Taken) : State × Bool :=
  let dev := w.src.toNat
  let fl := w.flow.toNat
  match engine s w m with
  | .resend s => (chesyCnt (sendAck s dev fl 0x02 true w.ce 0) 0x04, false)
  | .yes s =>
    let f := flowOf s dev fl
    let s := setFlow s dev fl { f with expect := (f.expect + 1) % 2 ^ 32, fresh := f.fresh + 1 }
    (chesyCnt s 0x02, true)

/-- Take the held messages that are now in sequence. -/
def takeHeld : Nat → State → Nat → Nat → (State → WireHdr → ChesyMsg → Taken) → State
  | 0, s, _, _, _ => s
  | k + 1, s, dev, fl, engine =>
    let f := flowOf s dev fl
    match f.held.find? fun e => e.1 == f.expect with
    | none => s
    | some (q, w, m) =>
      let s := setFlow s dev fl { f with held := f.held.filter fun e => e.1 != q }
      match takeMsg s w m engine with
      | (s, true) => takeHeld k s dev fl engine
      | (s, false) => s

/-- Does the port take a data message at all (R306, R308, R498): a fabric port with link that is not held? -/
def portTakes (s : State) (w : WireHdr) : Bool :=
  fabricUp s && decide (w.port.toNat < 18) && portUp s w.port.toNat

/-- A message with the package's own ID as source: a duplicate ID is recorded and the port held (R22). -/
def duplicateId (s : State) (p : Nat) : State :=
  (noteIn s (Page.eth p) Err.eth_duplicate_id none).setFld (Page.eth p) F.ETH_STATUS_held 1

/-- Receive a data message (R311): what is wrong is counted and not acknowledged; a duplicate is acknowledged again; one
ahead of its turn is held, and a NAK goes when three are held. -/
def receiveMsg (s : State) (w : WireHdr) (m : ChesyMsg) (engine : State → WireHdr → ChesyMsg → Taken) : State :=
  let dev := w.src.toNat
  let fl := w.flow.toNat
  let s := count s (Page.eth w.port.toNat) 0x02 { priv := 30, master := some 5 }
  let s := if w.ce then count s (Page.eth w.port.toNat) 0x05 { priv := 30, master := some 5 } else s
  if w.intact && w.src.toNat == deviceId s then duplicateId s w.port.toNat
  else if !w.intact || w.dst.toNat != deviceId s then badMessage s
  else
    let s := if (flowOf s dev fl).isOpen then s else openFlow s dev fl allPorts
    let s := applyAck s dev fl w.ack.toNat w.sack.toNat w.ece
    let f := flowOf s dev fl
    let seq := w.seq.toNat
    if seq = f.expect then
      match takeMsg s w m engine with
      | (s, false) => s
      | (s, true) =>
        let s := takeHeld 1024 s dev fl engine
        if 8 ≤ (flowOf s dev fl).fresh then sendAck s dev fl 0x01 false w.ce 0 else s
    else if below seq f.expect then sendAck s dev fl 0x01 false w.ce 0
    else if (f.held.any fun e => e.1 == seq) || decide (1024 ≤ f.held.length) then s
    else
      let s := setFlow s dev fl { f with held := f.held ++ [(seq, w, m)] }
      if f.held.length + 1 = 3 then chesyCnt (sendAck s dev fl 0x02 false w.ce 0) 0x04 else s

/-- Does the message arrive at H (18) or at SP (19), which accept none of the engines' types (R498, Table 13.3a)? -/
def wrongPort (s : State) (w : WireHdr) : Bool :=
  fabricUp s && (w.port == 18#5 || (w.port == 19#5 && !s.board.spDown))

/-- A data message's command; at H or SP it is discarded (R498). -/
def wireCmd (s : State) (w : WireHdr) (m : ChesyMsg) (engine : State → WireHdr → ChesyMsg → Taken) :
    Host.Outcome State Fault Refusal :=
  if portTakes s w then effect s fun s => receiveMsg s w m engine
  else if wrongPort s w then effect s badMessage
  else turnedAway s

/-- The tiles of a message, checked: some tile fails its first check, or each payload with its poison and trailer word 1
(R316). -/
def checkTiles (ts : List WireTile) : Option (List (List Byte × Bool × Nat)) :=
  if ts.any fun t => !wireOk t && !t.resent && !bit t.word1.toNat 19 then none
  else some (ts.map fun t => (t.data, bit t.word1.toNat 19 || !wireOk t, t.word1.toNat))

/-- A tile in memory as a message carries it. -/
def tileOut (s : State) (a : Nat) : State × List Byte :=
  match readTile s (.device 6 5) a with
  | (s, .refused _) => (s, [])
  | (s, .data bs t) => (s, bs ++ trailerBytes t)

end Sys2Proof.Machine
end

