-- ==== Sys2Proof/Machine/Caddie.lean ====
section
/-! DEFINITION. The Caddies: page table, parts, the update, holds, the exchange before ready, commit and buddy parity
(12_caddie.md R273 to R301). -/

namespace Sys2Proof.Machine

/-! ## Page descriptors (R274 to R277) -/

def pgValid (b : List Byte) : Bool := bit (wordAt b 0) 7
def pgRule (b : List Byte) : Nat := bits (wordAt b 0) 6 5
/-- D, the committed versions kept. -/
def pgD (b : List Byte) : Nat := bits (wordAt b 0) 4 3 + 1
def pgOwned (b : List Byte) : Bool := bit (wordAt b 0) 2
def pgNoRootHold (b : List Byte) : Bool := bit (wordAt b 0) 1
def pgNonfiniteHold (b : List Byte) : Bool := bit (wordAt b 0) 0
def pgParts (b : List Byte) : Nat := bits (wordAt b 1) 27 24 + 1
def pgKb (b : List Byte) : Nat := bits (wordAt b 2) 31 16
def pgNb (b : List Byte) : Nat := bits (wordAt b 2) 15 0
def pgQa (b : List Byte) : Nat := bits (wordAt b 3) 31 28 + 1
def pgQg (b : List Byte) : Nat := bits (wordAt b 3) 27 24 + 1
def pgGradFmt (b : List Byte) : Nat := bits (wordAt b 3) 7 4
def pgDeep (b : List Byte) : Nat := pgAddr b 6
def pgHyper (b : List Byte) : Nat := pgAddr b 12
/-- Blocks of the page; a component of element size e takes e tiles a block. -/
def pgBlocks (b : List Byte) : Nat := pgKb b * pgNb b
/-- T_s: tiles of a ring slot. -/
def pgSlotTiles (b : List Byte) : Nat := 2 * pgBlocks b + (pgBlocks b + 7) / 8
/-- T_c: tiles of a copy. -/
def pgCopyTiles (b : List Byte) : Nat := 1 + (if pgRule b = 0 then 6 else 10) * pgBlocks b

def slotAddr (b : List Byte) (k : Nat) : Nat := pgNear b + tileBytes * (1 + k * pgSlotTiles b)
def copyBase (b : List Byte) (k : Nat) : Nat := pgDeep b + k * pgCopyTiles b * tileBytes

/-- Does a run of tiles from an address lie in a tier of stack n? -/
def runInTier (n a tiles : Nat) (deep : Bool) : Bool :=
  stackOf a == n && deepOf a == deep && decide (tileOf a + tiles ≤ tierTiles deep)

/-- The checks of R275. -/
def pgOk (n : Nat) (b : List Byte) : Bool :=
  let rows := 64 * pgKb b / pgParts b
  bits (wordAt b 0) 31 8 == 0xCAD001 && pgRule b != 3 && (pgGradFmt b == 1 || pgGradFmt b == 2)
    && runInTier n (pgNear b) (1 + (pgD b + 1) * pgSlotTiles b) false
    && runInTier n (pgDeep b) (2 * pgCopyTiles b) true
    && pgHyper b % 128 == 0 && stackOf (pgHyper b) == n && inTier (pgHyper b)
    && decide (1 ≤ pgBlocks b) && decide (pgBlocks b ≤ 4096) && pgKb b % pgParts b == 0
    && (pgRule b != 2 || (rows % (256 * pgQa b) == 0 && (64 * pgNb b) % (256 * pgQg b) == 0))

def caddieFld (s : State) (n : Nat) (f : Fld) : Nat := s.fld (Page.caddie n) f
def ownerMode (s : State) (n : Nat) : Bool := caddieFld s n F.CADDIE_CTL_mode == 0

/-- Does this Caddie only receive the page's high halves (R296)? -/
def receivesHigh (s : State) (n : Nat) (b : List Byte) : Bool := ownerMode s n && !pgOwned b

def committedOf (s : State) (n : Nat) : Nat :=
  s.fld48 (Page.caddie n) F.CADDIE_COMMIT_STEP_LO_step F.CADDIE_COMMIT_STEP_HI_step

/-- A Caddie error with its action. -/
def caddieErr (s : State) (n : Nat) (court : Option Nat) (page bit : Nat) (mag : Nat := 1) : State :=
  act (caddieNote s n court page bit mag) (codeOf (Page.caddie n) bit) (severityOf (codeOf (Page.caddie n) bit)) court

/-- Entry x of the page table; none where it cannot be read. -/
def readEntry (s : State) (n x : Nat) : State × Option (List Byte) :=
  let base := s.fld48 (Page.caddie n) F.CADDIE_PT_BASE_LO_base F.CADDIE_PT_BASE_HI_base
  consumeFor s whoCaddie none (base + 64 * x) 64

/-- The walker's check of one entry: the page where it is valid and passes (R275). -/
def walkEntry (s : State) (n x : Nat) : State × Option (List Byte) :=
  match readEntry s n x with
  | (s, none) => (s, none)
  | (s, some b) =>
    if !pgValid b then (s, none)
    else if pgOk n b then (s, some b)
    else (caddieErr s n (some (pgCourt b)) x Err.caddie_page_descriptor, none)

def newPage (b : List Byte) : CPage := ⟨b, [], [], 0, false, false, false⟩

/-- The write of CADDIE_PT_COUNT (R275): refused in an open window (R304). -/
def ptCountWrite (s : State) (n v : Nat) : State × Nat :=
  if (caddie s n).window.isSome then (s, RegStatus.denied)
  else
    let s := s.setFld (Page.caddie n) F.CADDIE_PT_COUNT_entries v
    let k := min (v % 8192) 4096
    let (s, ps) := (List.range k).foldl (fun (acc : State × KMap CPage) x =>
      match walkEntry acc.1 n x with
      | (s, some b) => (s, acc.2 ++ [(x, newPage b)])
      | (s, none) => (s, acc.2)) (s, [])
    (updCaddie s n fun x => { x with pages := ps, whole := caddieFld s n F.CADDIE_CTL_parity_en == 1 }, RegStatus.ok)

def execCaddiePtCountWrite (h : RegHdr) (stack : BitVec 5) (v : W32) (s : State) : Host.Outcome State Fault Refusal :=
  regCommand s h (Page.caddie stack.toNat + 0x4C) fun s => ptCountWrite s stack.toNat v.toNat

def cpage (s : State) (n x : Nat) : Option CPage := ((caddie s n).pages.find? fun e => e.1 == x).map (·.2)

def updPage (s : State) (n x : Nat) (f : CPage → CPage) : State :=
  updCaddie s n fun c => { c with pages := c.pages.map fun e => if e.1 = x then (e.1, f e.2) else e }

def dropPage (s : State) (n x : Nat) : State :=
  updCaddie s n fun c => { c with pages := c.pages.filter fun e => e.1 != x }

/-! ## Copies and records (R277, R280) -/

/-- seq of a valid copy header. -/
def copyHdrSeq (b : List Byte) : Option Nat := if wordAt b 0 = 0xC0D70101 then some (wordAt b 3) else none

/-- The current copy: its index and header; the valid header with the larger seq. -/
def currentCopy (s : State) (court : Nat) (b : List Byte) : State × Option (Nat × List Byte) :=
  match consumeFor s whoCaddie (some court) (copyBase b 0) 64 with
  | (s, none) => (s, none)
  | (s, some h0) =>
    match consumeFor s whoCaddie (some court) (copyBase b 1) 64 with
    | (s, none) => (s, none)
    | (s, some h1) =>
      (s, (newestCopy (copyHdrSeq h0) (copyHdrSeq h1)).map fun e => (e.1, if e.1 = 0 then h0 else h1))

/-- from_step of a valid hyperparameter record. -/
def hyperFrom (r : List Byte) : Option Nat :=
  if bits (wordAt r 0) 31 8 = 0x47A001 ∧ bit (wordAt r 0) 0 then some (wordAt r 1 + bits (wordAt r 2) 15 0 * 2 ^ 32) else none

/-- The record for a step: the valid one with the larger from_step not above it, record 0 where equal (R280). -/
def pickHyper (pair : List Byte) (step : Nat) : Option (List Byte) :=
  let r0 := pair.take 64
  let r1 := (pair.drop 64).take 64
  let ok (r : List Byte) : Option Nat := (hyperFrom r).bind fun f => if f ≤ step then some f else none
  match ok r0, ok r1 with
  | some a, some b => some (if a < b then r1 else r0)
  | some _, none => some r0
  | none, some _ => some r1
  | none, none => none

/-! ## Holding a page (R283) -/

/-- Copy the current copy and version over the pending ones, tile by tile. -/
def copyHeld (s : State) (n : Nat) (p : CPage) (cur : Nat) (curSlot : Nat) : State :=
  let b := p.desc
  let s := (copyTiles s whoCaddie (slotAddr b curSlot) (slotAddr b p.slot) (pgSlotTiles b)).1
  if receivesHigh s n b then s
  else (copyTiles s whoCaddie (copyBase b cur + tileBytes) (copyBase b (1 - cur) + tileBytes) (pgCopyTiles b - 1)).1

/-- Hold a page for the step: exact copies of its current state. -/
def holdPage (s : State) (n x cur curSlot : Nat) : State :=
  match cpage s n x with
  | none => s
  | some p =>
    let s := copyHeld s n p cur curSlot
    let s := count s (Page.caddie n) 0x05 { court := some (pgCourt p.desc), master := some 4 }
    updPage s n x fun p => { p with held := true }

/-! ## The update (R278, R279, R281) -/

/-- The hyperparameters of a record: lr, wd, b1, b2, eps, c1, c2, gscale. -/
structure Hyper where
  lr : Nat
  wd : Nat
  b1 : Nat
  b2 : Nat
  eps : Nat
  c1 : Nat
  c2 : Nat
  gscale : Nat
  deriving DecidableEq, Repr

def hyperOf (r : List Byte) : Hyper :=
  ⟨wordAt r 3, wordAt r 4, wordAt r 5, wordAt r 6, wordAt r 7, wordAt r 8, wordAt r 9, wordAt r 10⟩

/-- The state of an element: high, low, m and, where the rule has one, v. -/
structure Elem where
  high : Nat
  low : Nat
  m : Nat
  v : Nat
  deriving DecidableEq, Repr

/-- One element under rule 0 or 1 with gradient g, or under rule 2 with p in its place (R281). -/
def updElem (rule : Nat) (h : Hyper) (g : Nat) (e : Elem) : Elem :=
  let omb1 := fsub f1 h.b1
  let omb2 := fsub f1 h.b2
  let m := if rule = 0 then ffma h.b1 e.m g else ffma h.b1 e.m (fmul omb1 g)
  let v := if rule = 1 then ffma h.b2 e.v (fmul omb2 (fmul g g)) else e.v
  let d := if rule = 1 then fdiv (fmul m h.c1) (fadd (fsqrt (fmul v h.c2)) h.eps) else m
  let w := e.high * 65536 + e.low
  let w := fsub w (fmul h.lr (ffma h.wd w d))
  ⟨w / 65536, w % 65536, m, v⟩

/-- Did an element's new master, m or v come out NaN or infinite (R283)? -/
def elemBad (rule : Nat) (e : Elem) : Bool :=
  !ffinite (e.high * 65536 + e.low) || !ffinite e.m || (rule == 1 && !ffinite e.v)

/-- The round bit of an element (R279). -/
def roundBit (high low : Nat) : Bool :=
  bits high 14 7 != 0xFF && (decide (0x8000 < low) || (low == 0x8000 && high % 2 == 1))

/-- Bitmap bytes of elements, eight a byte. -/
def bitmapBytes (hs ls : List Nat) : List Byte :=
  packBits 1 ((hs.zip ls).map fun e => (roundBit e.1 e.2).toNat)

/-- Gradient elements widened to FP32. -/
def gradEls (fmt : Nat) (bs : List Byte) : List Nat :=
  if fmt = 2 then (unpackBits 16 (bs.length / 2) bs).map (· * 65536) else unpackBits 32 (bs.length / 4) bs

/-- Where a page's components lie: current and pending slot and copy. -/
structure PageAt where
  curSlot : Nat
  newSlot : Nat
  cur : Nat
  deriving DecidableEq, Repr

/-- Address of a block's bytes in a component of a copy that starts `off` blocks-of-tiles in, with e tiles a block. -/
def compAddr (base offTiles e block : Nat) : Nat := base + tileBytes * (offTiles + e * block)

/-- Read a block's elements of a component. -/
def readComp (s : State) (court a e : Nat) : State × Option (List Nat) :=
  match consumeFor s whoCaddie (some court) a (4096 * e) with
  | (s, none) => (s, none)
  | (s, some bs) => (s, some (unpackBits (8 * e) 4096 bs))

/-- Update one block: its new state written to the pending copy and slot; the flag says an element is not finite. -/
def updBlock (s : State) (b : List Byte) (at_ : PageAt) (h : Hyper) (block : Nat) (gs : List Nat) : State × Option Bool :=
  let court := pgCourt b
  let e := pgBlocks b
  let rule := pgRule b
  let cb := copyBase b at_.cur
  let nb := copyBase b (1 - at_.cur)
  match readComp s court (compAddr (slotAddr b at_.curSlot) 0 2 block) 2 with
  | (s, none) => (s, none)
  | (s, some hs) =>
    match readComp s court (compAddr cb 1 2 block) 2 with
    | (s, none) => (s, none)
    | (s, some ls) =>
      match readComp s court (compAddr cb (1 + 2 * e) 4 block) 4 with
      | (s, none) => (s, none)
      | (s, some ms) =>
        match (if rule = 1 then readComp s court (compAddr cb (1 + 6 * e) 4 block) 4 else (s, some (List.replicate 4096 0))) with
        | (s, none) => (s, none)
        | (s, some vs) =>
          let es := ((hs.zip ls).zip (ms.zip vs)).zip gs |>.map fun q =>
            updElem rule h q.2 ⟨q.1.1.1, q.1.1.2, q.1.2.1, q.1.2.2⟩
          let put (s : State) (a e fmt : Nat) (xs : List Nat) : State := (writeSpan s whoCaddie a (packBits (8 * e) xs) fmt).1
          let s := put s (compAddr (slotAddr b at_.newSlot) 0 2 block) 2 2 (es.map (·.high))
          let s := put s (compAddr nb 1 2 block) 2 0 (es.map (·.low))
          let s := put s (compAddr nb (1 + 2 * e) 4 block) 4 1 (es.map (·.m))
          let s := if rule = 1 then put s (compAddr nb (1 + 6 * e) 4 block) 4 1 (es.map (·.v)) else s
          let s := if rule = 2 then put s (compAddr nb (1 + 6 * e) 4 block) 4 1 gs else s
          (s, some (es.any (elemBad rule)))

/-- Blocks of part k: block rows k × kb ÷ P on (R285). -/
def partBlocks (b : List Byte) (k : Nat) : List Nat :=
  let n := pgKb b / pgParts b * pgNb b
  (List.range n).map (k * n + ·)

/-- Update a run of blocks with the gradients of each. -/
def updBlocks (s : State) (b : List Byte) (at_ : PageAt) (h : Hyper) (gs : List (Nat × List Nat)) : State × Option Bool :=
  gs.foldl (fun (acc : State × Option Bool) g =>
    match acc with
    | (s, none) => (s, none)
    | (s, some bad) =>
      match updBlock s b at_ h g.1 g.2 with
      | (s, none) => (s, none)
      | (s, some bad') => (s, some (bad || bad'))) (s, some false)

/-! ### Roots (R281, R282) -/

def caddieUse (n : Nat) : UseBits :=
  ⟨Page.caddie n, Err.caddie_root_absent, Err.caddie_root_stale, Err.caddie_root_wait_expired⟩

/-- Slot of the root of A block i or G block j of a page. -/
def rootSlot (b : List Byte) (a : Bool) (i : Nat) : Nat :=
  let q := if a then pgQa b else pgQg b
  (pgAddr b (if a then 8 else 10) + i * (3 + 256 * q * q) * tileBytes) % 2 ^ 48

/-- A blocks a part needs, and G blocks of the page. -/
def partABlocks (b : List Byte) (k : Nat) : List Nat :=
  let n := 64 * pgKb b / pgParts b / (256 * pgQa b)
  (List.range n).map (k * n + ·)
def gBlocks (b : List Byte) : List Nat := List.range (64 * pgNb b / (256 * pgQg b))

/-- Slots a part's roots come from. -/
def partSlots (b : List Byte) (k : Nat) : List Nat :=
  if pgRule b = 2 then (partABlocks b k).map (rootSlot b true) ++ (gBlocks b).map (rootSlot b false) else []

/-- Read a root: a matrix, the identity where none is to be had, or none where the page is held for it. -/
def caddieRoot (s : State) (n step : Nat) (b : List Byte) (a : Bool) (i : Nat) : State × Option Mat :=
  let f := 256 * (if a then pgQa b else pgQg b)
  match useRoot s whoCaddie (some (pgCourt b)) (caddieUse n) (rootSlot b a i) step 0 (4 * f * f) with
  | (s, o) =>
    if o.data = [] then (s, if pgNoRootHold b then none else some (identity f f1))
    else (s, some (matOf f o.data))

/-- Read several roots, in order; none where one holds the page. -/
def caddieRoots (s : State) (n step : Nat) (b : List Byte) (a : Bool) (is : List Nat) : State × Option (List Mat) :=
  is.foldl (fun (acc : State × Option (List Mat)) i =>
    match acc with
    | (s, none) => (s, none)
    | (s, some ms) =>
      match caddieRoot s n step b a i with
      | (s, none) => (s, none)
      | (s, some m) => (s, some (ms ++ [m]))) (s, some [])

/-- Rows of a part's gradient from its blocks: row k of block row i is the k-th rows of its blocks in turn. -/
def blockRows (nb : Nat) (blocks : List (List Nat)) : Mat :=
  (List.range (blocks.length / nb)).flatMap fun i => (List.range 64).map fun k =>
    (List.range nb).flatMap fun j => (((blocks.getD (i * nb + j) []).drop (64 * k)).take 64)

/-- The blocks of a matrix by rows. -/
def rowsBlocks (nb : Nat) (x : Mat) : List (List Nat) :=
  (List.range (x.length / 64)).flatMap fun i => (List.range nb).map fun j =>
    (List.range 64).flatMap fun k => ((x.getD (64 * i + k) []).drop (64 * j)).take 64

/-- p of rule 2: mm(mm(L_i, g), R_j) by whole A and G blocks. -/
def precondition (b : List Byte) (ls rs : List Mat) (g : Mat) : Mat :=
  let fa := 256 * pgQa b
  let fg := 256 * pgQg b
  (ls.zip (List.range ls.length)).flatMap fun l =>
    let t := mm l.1 ((g.drop (fa * l.2)).take fa) (64 * pgNb b)
    let ps := (rs.zip (List.range rs.length)).map fun r => mm (t.map fun row => (row.drop (fg * r.2)).take fg) r.1 fg
    (List.range fa).map fun k => ps.flatMap fun p => p.getD k []

/-- The values the update of a part takes for each block: scaled gradients, or p under rule 2; none holds the page. -/
def partValues (s : State) (n : Nat) (b : List Byte) (h : Hyper) (p : CPart) : State × Option (List (Nat × List Nat)) :=
  let blocks := partBlocks b p.part
  let es := (gradEls (pgGradFmt b) p.data).map fun g => fmul g h.gscale
  let gs := (List.range blocks.length).map fun i => (es.drop (4096 * i)).take 4096
  if pgRule b = 2 then
    match caddieRoots s n p.step b true (partABlocks b p.part) with
    | (s, none) => (s, none)
    | (s, some ls) =>
      match caddieRoots s n p.step b false (gBlocks b) with
      | (s, none) => (s, none)
      | (s, some rs) =>
        let m := precondition b ls rs (blockRows (pgNb b) gs)
        let s := count s (Page.caddie n) 0x04
          { n := ls.length * (256 * pgQa b) * (256 * pgQa b) * 64 * pgNb b / 4096
              + 64 * pgKb b / pgParts b * 64 * pgNb b * (256 * pgQg b) / 4096, court := some (pgCourt b), master := some 4 }
        (s, some (blocks.zip (rowsBlocks (pgNb b) m)))
  else (s, some (blocks.zip gs))

/-! ## Parts (R285 to R287) -/

/-- The pending step, or the step after the last committed. (DESIGN CHOICE, notes/assumptions/77.md) -/
def pendingStep (s : State) (n : Nat) : Nat := ((caddie s n).window).getD (committedOf s n + 1)

/-- Does a tile of a page's near or deep area wait for rebuild (R267)? -/
def pageRebuilding (s : State) (b : List Byte) : Bool :=
  s.trailers.any fun e =>
    let a := e.1 * tileBytes
    e.2.state == .rebuilding
      && ((decide (pgNear b ≤ a) && decide (a < slotAddr b (pgD b + 1)))
        || (decide (pgDeep b ≤ a) && decide (a < copyBase b 2)))

/-- Parts a page expects for a step: its gradient parts, or one of the owner's high halves. -/
def pageParts (s : State) (n : Nat) (b : List Byte) : Nat := if receivesHigh s n b then 1 else pgParts b

def pageDone (s : State) (n : Nat) (p : CPage) : Bool := p.got.length == pageParts s n p.desc

/-- Is an arriving part a stray (Table 12.6)? -/
def isStray (s : State) (n : Nat) (p : CPart) : Bool :=
  match cpage s n p.page with
  | none => true
  | some g =>
    p.court != pgCourt g.desc || decide (p.step ≤ committedOf s n) || decide (pendingStep s n + 1 < p.step)
      || decide (pageParts s n g.desc ≤ p.part) || p.high != receivesHigh s n g.desc
      || (p.step == pendingStep s n && g.got.contains p.part)
      || (caddie s n).staged.any fun q => q.page == p.page && q.part == p.part && q.step == p.step

/-- May a part be applied now, leaving other staged parts aside? (DESIGN CHOICE, notes/assumptions/81.md) -/
def partFree (s : State) (n : Nat) (p : CPart) : Bool :=
  match cpage s n p.page with
  | none => false
  | some g =>
    p.step == pendingStep s n && !g.digesting && !pageRebuilding s g.desc
      && (p.expired || !(partSlots g.desc p.part).any fun a => rootWaits s whoCaddie a p.step)

/-- Open the window of a step (R290). -/
def openWindow (s : State) (n step : Nat) : State :=
  if (caddie s n).window.isSome then s
  else
    let s := updCaddie s n fun x => { x with window := some step }
    let p := Page.caddie n
    let s := s.setFld p F.CADDIE_STATUS_window_open 1
    let s := s.setFld p F.CADDIE_COMMIT_STAT_state 1
    s.setFld48 p F.CADDIE_PENDING_STEP_LO_step F.CADDIE_PENDING_STEP_HI_step step

def showLeft (s : State) (n : Nat) : State :=
  s.setFld (Page.caddie n) F.CADDIE_COMMIT_STAT_pages_left
    (min ((caddie s n).pages.filter fun e => !pageDone s n e.2).length 0xFFF)

/-- A page that cannot take the step is refused and invalid. -/
def refusePage (s : State) (n x court : Nat) : State :=
  dropPage (caddieErr s n (some court) x Err.caddie_page_descriptor) n x

/-- The pending slot of a page: a free slot, marked pending with the step (R289). The current slot with it. (DESIGN CHOICE, notes/assumptions/76.md) -/
def takeSlot (s : State) (b : List Byte) (step : Nat) : State × Option (Nat × Nat) :=
  match consumeFor s whoCaddie (some (pgCourt b)) (pgNear b) 64 with
  | (s, none) => (s, none)
  | (s, some h) =>
    match ringSlot h none, (List.range (ringSlots h)).find? fun k => ringState h k == 0 with
    | some cur, some k => (rewriteTile s whoCaddie (pgNear b) fun t => ringPut t k step 1, some (cur, k))
    | _, _ => (s, none)

/-- Where a page's state lies during a step: its current slot and copy. -/
def pageAt' (s : State) (n : Nat) (p : CPage) : State × Option PageAt :=
  match consumeFor s whoCaddie (some (pgCourt p.desc)) (pgNear p.desc) 64 with
  | (s, none) => (s, none)
  | (s, some h) =>
    if receivesHigh s n p.desc then (s, some ⟨ringCurrent h, p.slot, 0⟩)
    else match currentCopy s (pgCourt p.desc) p.desc with
      | (s, none) => (s, none)
      | (s, some (c, _)) => (s, some ⟨ringCurrent h, p.slot, c⟩)

/-- A page's first part of a step (R275, R280, R289): its entry checked again, its slot taken, its record read. -/
def startPage (s : State) (n x step court : Nat) : State × Bool :=
  match walkEntry s n x with
  | (s, none) => (dropPage s n x, false)
  | (s, some b) =>
    let s := updPage s n x fun p => { p with desc := b }
    match takeSlot s b step with
    | (s, none) => (refusePage s n x court, false)
    | (s, some (_, k)) =>
      let s := updPage (openWindow s n step) n x fun p => { p with slot := k }
      if receivesHigh s n b then (s, true)
      else
        match consumeFor s whoCaddie (some court) (pgHyper b) 128 with
        | (s, none) => (refusePage s n x court, false)
        | (s, some pair) =>
          match pickHyper pair step with
          | some r => (updPage s n x fun p => { p with hyper := r }, true)
          | none =>
            let s := caddieErr s n (some court) x Err.caddie_hyper_record
            match cpage s n x with
            | none => (s, false)
            | some p =>
              match pageAt' s n p with
              | (s, some a) => (holdPage s n x a.cur a.curSlot, true)
              | (s, none) => (refusePage s n x court, false)

/-- Write a page's round bitmap from its pending high and low halves, when its last part is applied. -/
def writeBitmap (s : State) (b : List Byte) (a : PageAt) : State :=
  let court := pgCourt b
  let nb := copyBase b (1 - a.cur)
  let (s, bs) := (List.range (pgBlocks b)).foldl (fun (acc : State × List Byte) k =>
    match readComp acc.1 court (compAddr (slotAddr b a.newSlot) 0 2 k) 2 with
    | (s, none) => (s, acc.2 ++ List.replicate 512 0#8)
    | (s, some hs) =>
      match readComp s court (compAddr nb 1 2 k) 2 with
      | (s, none) => (s, acc.2 ++ List.replicate 512 0#8)
      | (s, some ls) => (s, acc.2 ++ bitmapBytes hs ls)) (s, [])
  let tiles := (pgBlocks b + 7) / 8
  (writeSpan s whoCaddie (slotAddr b a.newSlot + 2 * pgBlocks b * tileBytes)
    (bs ++ List.replicate (tiles * tileBytes - bs.length) 0#8) 0).1

/-- Count a part as applied. -/
def partGot (s : State) (n : Nat) (p : CPart) (els : Nat) : State :=
  let s := updPage s n p.page fun g => { g with got := g.got ++ [p.part] }
  let s := count s (Page.caddie n) 0x01 { court := some p.court, master := some 4 }
  showLeft (fixedCount s (Page.caddie n) 0 els) n

/-- The gradient part's effect on its page. -/
def applyGradient (s : State) (n : Nat) (p : CPart) (g : CPage) (a : PageAt) : State :=
  let b := g.desc
  let els := (partBlocks b p.part).length * 4096
  let h := hyperOf g.hyper
  match partValues s n b h p with
  | (s, none) => partGot (holdPage s n p.page a.cur a.curSlot) n p els
  | (s, some vs) =>
    match updBlocks s b a h vs with
    | (s, none) => updCaddie s n fun x => { x with blocked := true }
    | (s, some bad) =>
      let s := partGot s n p els
      if bad && !g.nonfinite then
        let s := caddieErr s n (some p.court) p.page Err.caddie_caddie_nonfinite
        if pgNonfiniteHold b then holdPage s n p.page a.cur a.curSlot
        else updPage s n p.page fun g => { g with nonfinite := true }
      else s

/-- After a part: the page's bitmap once its last part is in. -/
def partEnd (s : State) (n : Nat) (p : CPart) (a : PageAt) : State :=
  match cpage s n p.page with
  | none => s
  | some g =>
    if pageDone s n g && !g.held && !receivesHigh s n g.desc then writeBitmap s g.desc a else s

/-- Apply a part to its page. -/
def applyPart (s : State) (n : Nat) (p : CPart) : State :=
  let first := match cpage s n p.page with
    | some g => g.got == []
    | none => true
  let (s, ok) := if first then startPage s n p.page p.step p.court else (s, true)
  if !ok then s
  else match cpage s n p.page with
    | none => s
    | some g =>
      match pageAt' s n g with
      | (s, none) => refusePage s n p.page p.court
      | (s, some a) =>
        if g.held then partGot s n p ((partBlocks g.desc p.part).length * 4096)
        else if p.high then
          let tiles := pgSlotTiles g.desc
          let s := forEach (List.range tiles) s fun s i =>
            (writeTile s whoCaddie (slotAddr g.desc g.slot + i * tileBytes) ((p.data.drop (i * tileBytes)).take tileBytes)
              (if i < 2 * pgBlocks g.desc then 2 else 0)).1
          partGot s n p (pgBlocks g.desc * 4096)
        else partEnd (applyGradient s n p g a) n p a

/-! ## Buddy parity (R299, R300) -/

def parityOn (s : State) (n : Nat) : Bool :=
  let k := caddieFld s n F.CADDIE_PAR_CTL_n
  caddieFld s n F.CADDIE_CTL_parity_en == 1 && decide (2 ≤ k) && decide (k ≤ 8)

def parN (s : State) (n : Nat) : Nat := caddieFld s n F.CADDIE_PAR_CTL_n
def parJ (s : State) (n : Nat) : Nat := caddieFld s n F.CADDIE_PAR_CTL_member
def parTiles (s : State) (n : Nat) : Nat := caddieFld s n F.CADDIE_PAR_TILES_chunk_tiles
def parBase (s : State) (n : Nat) : Nat := s.fld48 (Page.caddie n) F.CADDIE_PAR_BASE_LO_base F.CADDIE_PAR_BASE_HI_base
/-- Device ID of a member of the buddy group. -/
def parId (s : State) (n m : Nat) : Nat :=
  s.fld (Page.caddie n) (if m % 2 = 1 then F.CADDIE_PAR_ID_id_hi else F.CADDIE_PAR_ID_id_lo) (m / 2)

def parCopy (s : State) (n k : Nat) : Nat := parBase s n + k * (1 + parTiles s n) * tileBytes

def paritySeq (b : List Byte) : Option Nat := if wordAt b 0 = 0x9A710101 then some (wordAt b 3) else none

/-- The committed parity copy; copy 1 before any commit, so that the first goes to copy 0. (DESIGN CHOICE, notes/assumptions/83.md) -/
def parCommitted (s : State) (n : Nat) : Nat × Nat :=
  let h (k : Nat) : List Byte := (tileData s (parCopy s n k)).1
  match newestCopy (paritySeq (h 0)) (paritySeq (h 1)) with
  | some e => e
  | none => (1, 0)

/-- The tiles of a page in the protected stream, with their pending counterparts: high halves, low halves, m and v. -/
def streamOf (b : List Byte) (a : PageAt) : List (Nat × Nat) :=
  let e := pgBlocks b
  let pair (x y k : Nat) : List (Nat × Nat) := (List.range k).map fun i => (x + i * tileBytes, y + i * tileBytes)
  pair (slotAddr b a.curSlot) (slotAddr b a.newSlot) (2 * e)
    ++ pair (copyBase b a.cur + tileBytes) (copyBase b (1 - a.cur) + tileBytes) ((if pgRule b = 1 then 10 else 6) * e)

/-- Tiles of one page in the stream. -/
def streamTiles (b : List Byte) : Nat := 2 * pgBlocks b + (if pgRule b = 1 then 10 else 6) * pgBlocks b

/-- The stack's stream in page-table order over the owned pages: each tile with its pending one; a page with no pending
state names its current tiles twice. -/
def protectedStream (s : State) (n : Nat) : State × List (Nat × Nat) :=
  (caddie s n).pages.foldl (fun (acc : State × List (Nat × Nat)) e =>
    if !pgOwned e.2.desc then acc
    else match pageAt' acc.1 n e.2 with
      | (s, none) => (s, acc.2)
      | (s, some a) =>
        let t := streamOf e.2.desc a
        (s, acc.2 ++ if e.2.got = [] then t.map fun x => (x.1, x.1) else t)) (s, [])

def streamLength (s : State) (n : Nat) : Nat :=
  ((caddie s n).pages.map fun e => if pgOwned e.2.desc then streamTiles e.2.desc else 0).sum

/-- Enabling parity, or a table or chunk size that makes a chunk n − 1 exist: parity-config and parity off (R299). -/
def parityCheck (s : State) (n : Nat) : State :=
  if parityOn s n && decide ((parN s n - 1) * parTiles s n < streamLength s n) then
    (caddieErr (s.setFld (Page.caddie n) F.CADDIE_CTL_parity_en 0) n none 0 Err.caddie_parity_config).setFld
      (Page.caddie n) F.CADDIE_STATUS_parity_on 0
  else s.setFld (Page.caddie n) F.CADDIE_STATUS_parity_on (parityOn s n).toNat

def xorBytes (a b : List Byte) : List Byte := (a.zip b).map fun e => e.1 ^^^ e.2

/-- The flow of a stack's Caddie, class 0x5 (R310). -/
def caddieFlow (n : Nat) : Nat := 5 * 2 ^ 28 + n

/-- A Caddie transfer to a device: eight header words, then a tile with its trailer. (DESIGN CHOICE, notes/assumptions/79.md) -/
def sendTransfer (s : State) (n dev kind chunk index step : Nat) (last : Bool) (tile : List Byte) : State :=
  let t : List Byte := if tile = [] then [] else
    tile ++ trailerBytes ⟨tileCheck tile 0#12 0#4 0#15, 0#12, false, 0#4, 0#15, .written⟩
  sendFlow s dev (caddieFlow n) allPorts 0x52
    [kind * 2 ^ 29 + n * 2 ^ 24 + parJ s n * 2 ^ 20 + chunk * 2 ^ 16 + last.toNat, index, step % 2 ^ 32, step / 2 ^ 32, 0, 0, 0, 0] t []

/-- Payload of a tile read by the Caddie; nothing where it cannot be used. -/
def caddieTile (s : State) (a : Nat) : State × List Byte :=
  match readTile s whoCaddie a with
  | (s, .data bs _) => (s, bs)
  | (s, .refused _) => (s, [])

/-- Send the tiles of one chunk to its holder: the delta pending ⊕ current, or the pending tile itself where every member
sends its whole stream; then the end mark. -/
def sendChunk (s : State) (n step c : Nat) (whole : Bool) (ts : List (Nat × Nat)) : State :=
  let dev := parId s n ((parJ s n + 1 + c) % parN s n)
  let s := (ts.zip (List.range ts.length)).foldl (fun s e =>
    let (s, x) := caddieTile s e.1.2
    let (s, y) := if whole then (s, []) else caddieTile s e.1.1
    let s := count s (Page.caddie n) 0x06 { master := some 4, priv := 30 }
    sendTransfer s n dev (if whole then 6 else 0) c e.2 step false (if whole then x else xorBytes x y)) s
  sendTransfer s n dev 0 c 0 step true []

/-- Step 2 of Table 12.7 with parity: each chunk to its holder. -/
def sendDeltas (s : State) (n step : Nat) : State :=
  let (s, st) := protectedStream s n
  let tp := max 1 (parTiles s n)
  let whole := (caddie s n).whole
  let s := forEach (List.range (parN s n - 1)) s fun s c =>
    sendChunk s n step c whole ((st.drop (c * tp)).take tp)
  updCaddie s n fun x => { x with whole := false }

/-- The devices of a plan entry's rank table, without effects on the stacks. -/
def rankTable (s : State) (e : List Byte) : List Nat :=
  let n := bits (wordAt e 2) 31 16 + 1
  let a := (wordAt e 9 + wordAt e 10 * 2 ^ 32) % 2 ^ 48
  (List.range n).map fun i =>
    let b := Memory.read s.mem (a + 2 * i) 2
    leNat b

/-- The replicas of a court's pages: the devices of its plan entries' rank tables, this one aside. (DESIGN CHOICE, notes/assumptions/78.md) -/
def replicasOf (s : State) (court : Nat) : List Nat :=
  ((s.plans.flatMap fun e => if bits (wordAt e.2 0) 3 0 = court then rankTable s e.2 else []).eraseDups).filter
    fun d => d != deviceId s

/-- Owner mode: an owned page's pending high halves and bitmap go to the same page of every replica (R296). -/
def sendHigh (s : State) (n step x : Nat) (p : CPage) : State :=
  let b := p.desc
  forEach (replicasOf s (pgCourt b)) s fun s dev =>
    forEach (List.range (pgSlotTiles b)) s fun s i =>
      let (s, t) := caddieTile s (slotAddr b p.slot + i * tileBytes)
      sendTransfer s n dev 1 0 (x * 65536 + i) step (i + 1 == pgSlotTiles b) t

/-- Every page it expects is complete: the exchange of step 2 starts. -/
def startExchange (s : State) (n : Nat) : State :=
  let x := caddie s n
  match x.window with
  | none => s
  | some step =>
    if x.sent || !(x.pages.all fun e => pageDone s n e.2) then s
    else
      let s := (updCaddie s n fun x => { x with sent := true }).setFld (Page.caddie n) F.CADDIE_COMMIT_STAT_state 2
      let s := if parityOn s n then sendDeltas s n step else s
      if ownerMode s n then
        forEach x.pages s fun s e => if pgOwned e.2.desc then sendHigh s n step e.1 e.2 else s
      else s

/-- Devices this Caddie's transfers go to. -/
def transferPeers (s : State) (n : Nat) : List Nat :=
  (s.flows.filter fun e => e.1 % 2 ^ 32 == caddieFlow n).map fun e => e.1 / 2 ^ 32

/-- Step 3 of Table 12.7: every transfer acknowledged and, as holder, every member's delta in. -/
def canReady (s : State) (n : Nat) : Bool :=
  let x := caddie s n
  x.window.isSome && x.sent && !x.ready && !x.blocked && !x.rebuilding
    && (transferPeers s n).all (fun d => flowIdle s d (caddieFlow n))
    && (!parityOn s n || (List.range (parN s n)).all fun m => m == parJ s n || x.deltasFrom.contains m)

/-! ## Arrival (R285 to R287) -/

def stagedTiles (s : State) (n : Nat) : Nat := ((caddie s n).staged.map fun p => p.data.length / tileBytes).sum

/-- Where a part bound for a retired stack goes: its relocation Caddie (R303). -/
def partTarget (s : State) (n : Nat) : Nat :=
  if s.pageRetired (Page.stk n) && caddieFld s n F.CADDIE_RELOC_valid == 1 then caddieFld s n F.CADDIE_RELOC_target else n

/-- A part as its target knows its page. -/
def partAt (s : State) (n : Nat) (p : CPart) : CPart :=
  if partTarget s n = n then p
  else match KMap.get (caddie s n).moved 0 p.page with
    | 0 => { p with page := 4096 }
    | k + 1 => { p with page := k }

/-- What Table 12.6 gives for an arriving part: applied, staged, or discarded; none where staging has no room and the part
is not acknowledged yet (R287). -/
inductive PartFate where
  | apply | stage | stray | waits
  deriving DecidableEq, Repr

def partFate (s : State) (n : Nat) (p : CPart) : PartFate :=
  if isStray s n p then .stray
  else if !pageAccepts s (Page.caddie n) then .waits
  else if partFree s n p && !((caddie s n).staged.any fun q => q.page == p.page) then .apply
  else if stagedTiles s n + p.data.length / tileBytes ≤ 16384 then .stage else .waits

def takePart (s : State) (n : Nat) (p : CPart) : State :=
  match partFate s n p with
  | .stray =>
    count (caddieErr s n (some p.court) p.page Err.caddie_gradient_stray) (Page.caddie n) 0x03
      { court := some p.court, master := some 4 }
  | .apply => startExchange (applyPart s n p) n
  | .stage =>
    let s := updCaddie s n fun x => { x with staged := x.staged ++ [p] }
    count (showStaged s n) (Page.caddie n) 0x02 { court := some p.court, master := some 4 }
  | .waits => s

/-- A part with a poisoned tile meets its court's poison handling; the Caddie reports no ready for the step (R285). -/
def poisonPart (s : State) (n : Nat) (court : Nat) : State :=
  let s := updCaddie s n fun x => { x with blocked := true }
  raiseDevice s 0xF001 { page := Page.caddie n, court := some court, detail := [0, 0, 5, 0] }

/-- GRADIENT_PART. -/
def execGradientPart (g : GradPart) (s : State) : Host.Outcome State Fault Refusal :=
  let n := partTarget s g.stack.toNat
  let p := partAt s g.stack.toNat ⟨g.page.toNat, g.part.toNat, g.step.toNat, g.court.toNat, false, false, g.data⟩
  if !fabricUp s then turnedAway s
  else if g.poison then effect s fun s => poisonPart s n g.court.toNat
  else if partFate s n p = .waits then turnedAway s
  else effect s fun s => takePart s n p

/-- The oldest staged part whose page is free. -/
def stagedReady (s : State) (n : Nat) : Option CPart :=
  (caddie s n).staged.find? fun p =>
    partFree s n p && ((caddie s n).staged.find? fun q => q.page == p.page) == some p

/-- STAGED_PART_APPLY (R286). -/
def execStagedPartApply (stack : BitVec 5) (s : State) : Host.Outcome State Fault Refusal :=
  let n := stack.toNat
  match stagedReady s n with
  | none => turnedAway s
  | some p => effect s fun s =>
      let s := showStaged (updCaddie s n fun x => { x with staged := x.staged.filter fun q => q != p }) n
      startExchange (applyPart s n p) n

/-! ## Commit (R291) -/

/-- A copy header (Table 12.4). -/
def copyHeader (step seq : Nat) (held nonfinite : Bool) : List Byte :=
  wordBytes [0xC0D70101, step % 2 ^ 32, step / 2 ^ 32 % 2 ^ 16, seq % 2 ^ 32, held.toNat * 2 + nonfinite.toNat]
    ++ List.replicate 4076 0#8

/-- The ring header after a commit (R289): the pending slot committed and current; the oldest version's slot free where D
were committed already. -/
def ringCommit (h : List Byte) (slot d step : Nat) : List Byte :=
  let done := (List.range (ringSlots h)).filter fun k => ringState h k == 3
  let old := done.foldl (fun (acc : Option Nat) k => match acc with
    | none => some k
    | some j => if ringVersion h k < ringVersion h j then some k else some j) none
  let h := ringSetCurrent (ringPut h slot step 3) slot
  match old with
  | some k => if d ≤ done.length then ringPut h k 0 0 else h
  | none => h

/-- The commit of one page (step 7 of Table 12.7). -/
def commitPage (s : State) (n step : Nat) (p : CPage) : State :=
  if p.got = [] then s
  else
    let b := p.desc
    let s := if receivesHigh s n b then s
      else match currentCopy s (pgCourt b) b with
        | (s, some (c, h)) =>
          (writeTile s whoCaddie (copyBase b (1 - c)) (copyHeader step (wordAt h 3 + 1) p.held p.nonfinite) 0).1
        | (s, none) => s
    rewriteTile s whoCaddie (pgNear b) fun h => ringCommit h p.slot (pgD b) step

/-- The pending parity copy becomes the committed one (R300). -/
def switchParity (s : State) (n step : Nat) : State :=
  if (caddie s n).parity then
    let (k, seq) := parCommitted s n
    (writeTile s whoCaddie (parCopy s n (1 - k))
      (wordBytes [0x9A710101, step % 2 ^ 32, step / 2 ^ 32 % 2 ^ 16, seq + 1] ++ List.replicate 4080 0#8) 0).1
  else s

/-- commit(s) reaches a Caddie (step 6 of Table 12.7): its pending slots are committing. A commit of another step than its
window's does nothing. (DESIGN CHOICE, notes/assumptions/80.md) -/
def commitSent (s : State) (n step : Nat) : State :=
  let x := caddie s n
  if x.window ≠ some step then s
  else
    let s := forEach x.pages s fun s e =>
      if e.2.got = [] then s else rewriteTile s whoCaddie (pgNear e.2.desc) fun b => ringPut b e.2.slot step 2
    let s := s.setFld (Page.caddie n) F.CADDIE_COMMIT_STAT_state 4
    s.setFld (Page.caddie n) F.CADDIE_COMMIT_STAT_last_outcome 1

/-- Steps 7 and 8 of Table 12.7 at a Caddie that has its commit. -/
def commitCaddie (s : State) (n step : Nat) : State :=
  let x := caddie s n
  if s.fld (Page.caddie n) F.CADDIE_COMMIT_STAT_state ≠ 4 then s
  else
    let s := forEach x.pages s fun s e => commitPage s n step e.2
    let s := switchParity s n step
    let s := s.setFld48 (Page.caddie n) F.CADDIE_COMMIT_STEP_LO_step F.CADDIE_COMMIT_STEP_HI_step step
    let last := caddieFld s n F.CADDIE_COMMIT_STAT_last_outcome
    let s := fixedCount (closeWindow s n last) (Page.caddie n) 1 1
    let every := caddieFld s n F.CADDIE_CTL_digest_every
    if every ≠ 0 ∧ step % every = 0 ∧ !ownerMode s n then
      let s := updCaddie s n fun x => { x with pages := x.pages.map fun e => (e.1, { e.2 with digesting := true }) }
      s.setFld (Page.caddie n) F.CADDIE_DIGEST_STAT_state 1
    else s

/-- The stacks whose Caddies hold pages of a court. -/
def caddiesOf (s : State) (court : Nat) : List Nat := (s.caddies.map (·.1)).filter fun n => servesCourt s n court

/-- A discard that reaches a Caddie after its commit is a no-op but for last_outcome (R294). -/
def discardStep (s : State) (n court step : Nat) : State :=
  if (caddie s n).window.isSome then discardCaddie s n (some court)
  else if step ≤ committedOf s n then s.setFld (Page.caddie n) F.CADDIE_COMMIT_STAT_last_outcome 3
  else s

/-! ## Root waits (R191) -/

/-- The program whose oldest root fetch waits: main first. -/
def waitingFetch (x : Region) : Option (Bool × List Nat) :=
  [false, true].findSome? fun task => ((progOf x task).inflight.findSome? fun i => match i.what with
    | .rootFetch use => if use.getD 6 0 = 0 then some (task, use) else none
    | _ => none)

/-- The oldest staged part of a Caddie that waits for a root. -/
def waitingPart (s : State) (n : Nat) : Option CPart :=
  (caddie s n).staged.find? fun p => !p.expired && match cpage s n p.page with
    | some g => p.step == pendingStep s n && (partSlots g.desc p.part).any fun a => rootWaits s whoCaddie a p.step
    | none => false

/-- Mark a region's waiting fetch expired and let it go on. -/
def expireFetch (s : State) (r : Nat) (task : Bool) (use : List Nat) : State :=
  let court := bits (wordAt (tileData s (use.getD 0 0)).1 0) 7 4
  let s := raiseEv s Err.rg_root_wait_expired { page := Page.rg r, court := some court }
  let s := updProg s r task fun p =>
    { p with inflight := p.inflight.map fun i =>
        if i.what = .rootFetch use then { i with what := .rootFetch (use.take 6 ++ [1]) } else i }
  settleFetches s r task

/-- ROOT_WAIT_EXPIRY: a consumer's wait under select exact reaches wait_limit; it is recorded and the consumer continues
with step 3 of Table 8.7. -/
def execRootWaitExpiry (atCaddie : Bool) (index : BitVec 5) (s : State) : Host.Outcome State Fault Refusal :=
  let n := index.toNat
  if atCaddie then
    match waitingPart s n with
    | none => turnedAway s
    | some p => effect s fun s =>
        let slot := match cpage s n p.page with
          | some g => ((partSlots g.desc p.part).find? fun a => rootWaits s whoCaddie a p.step).getD 0
          | none => 0
        let court := bits (wordAt (tileData s slot).1 0) 7 4
        let s := caddieErr s n (some court) p.page Err.caddie_root_wait_expired
        updCaddie s n fun x => { x with staged := x.staged.map fun q => if q = p then { q with expired := true } else q }
  else
    match waitingFetch (s.region n) with
    | none => turnedAway s
    | some (task, use) => effect s fun s => expireFetch s n task use

end Sys2Proof.Machine
end

