-- ==== Sys2Proof/Machine/Huddle.lean ====
section
/-! DEFINITION. Huddle groups: arrivals, the package's arrival, failures (13_fabric_and_collectives.md R320 to R325). -/

namespace Sys2Proof.Machine

/-! ## The table (R320) -/

def gEntryOk (s : State) (b : List Byte) (ids : List Nat) : Bool :=
  let w := wordAt b
  bits (w 0) 31 16 == 0x4ADD && bits (w 0) 15 8 == 1 && decide (bits (w 3) 11 8 ≤ 8)
    && (bit (w 3) 15 || bits (w 3) 31 16 != deviceId s) && !ids.contains (bits (w 1) 31 16)

def groupOf (b : List Byte) : HGroup :=
  let w := wordAt b
  { id := bits (w 1) 31 16, commit := bit (w 0) 6, court := bits (w 0) 3 0, subtreeM1 := bits (w 1) 15 0, regions := w 2
    parent := bits (w 3) 31 16, isRoot := bit (w 3) 15
    children := (List.range (bits (w 3) 11 8)).map fun k => bits (w (4 + k / 2)) (16 * (k % 2) + 15) (16 * (k % 2))
    ports := bits (w 8) 17 0, timeoutMs := w 9, out := [], decided := [], last := none, doomed := [] }

def ceWho : Who := .device 6 5

/-- A CE event with its counter (Table 13.12 selector 0x08). -/
def ceErr (s : State) (bit : Nat) (court : Option Nat) (mag : Nat := 1) : State :=
  raiseEv (count s Page.ce 0x08 { court := court, master := some 5, priv := if court.isSome then 29 else 30 }) bit
    { page := Page.ce, court := court, mag := mag }

/-- Load entry k of the huddle table: in use and right, refused with hg-entry, or not in use. -/
def loadGroup (s : State) (k : Nat) : State :=
  let base := s.fld48 Page.ce F.CE_HG_BASE_LO_base F.CE_HG_BASE_HI_base
  match consumeFor s ceWho none (base + 64 * k) 64 with
  | (s, none) => ceErr s Err.ce_hg_entry none
  | (s, some b) =>
    if !bit (wordAt b 0) 7 then s
    else if gEntryOk s b (s.groups.map fun e => e.2.id) then setGroup s k (groupOf b)
    else ceErr s Err.ce_hg_entry none

/-- The write of CE_HG_COUNT. -/
def hgCountWrite (s : State) (v : Nat) : State × Nat :=
  if s.groups.any fun e => e.2.out != [] then (s, RegStatus.denied)
  else
    let s := s.setFld Page.ce F.CE_HG_COUNT_entries v
    (forEach (List.range (min (v % 512) 256)) { s with groups := [] } loadGroup, RegStatus.ok)

def execCeHgLoad (h : RegHdr) (v : W32) (s : State) : Host.Outcome State Fault Refusal :=
  regCommand s h (Page.ce + 0x48) fun s => hgCountWrite s v.toNat

/-! ## The Relay's numbers (R333) -/

def relayGroup (s : State) : Nat := s.fld Page.ce F.CE_RELAY_ARM_group
def relayNum (s : State) : Nat := s.fld48 Page.ce F.CE_RELAY_NUM_LO_number F.CE_RELAY_NUM_HI_number

/-- Which of the armed Relay's numbers h, h + 1, h + 2 of its group a number is: 0, 1 or 2. -/
def relayRole (s : State) (id h : Nat) : Option Nat :=
  if s.fld Page.ce F.CE_RELAY_ARM_armed = 1 ∧ relayGroup s = id ∧ relayNum s ≤ h ∧ h ≤ relayNum s + 2 then
    some (h - relayNum s) else none

/-- The plan entries whose runs arrive at a group (R327), and the engine number the Relay arrives under. (DESIGN CHOICE, notes/assumptions/88.md) -/
def doneEntries (s : State) (id : Nat) : List Nat :=
  (s.plans.filter fun e => bits (wordAt e.2 15) 15 0 == id).map (·.1)
def relayEngine : Nat := 1024

/-! ## Arrivals (R321, R322) -/

/-- May a number take an arrival: outstanding already, or one of eight? -/
def numRoom (g : HGroup) (h : Nat) : Bool := (findNum g h).isSome || decide (g.out.length < 8)

/-- Change an outstanding number, opening it where it is not. -/
def updNum (s : State) (i h : Nat) (f : HNum → HNum) : State :=
  let g := group s i
  match findNum g h with
  | some _ => setGroup s i { g with out := g.out.map fun n => if n.number = h then f n else n }
  | none => setGroup s i { g with out := g.out ++ [f (.init h)] }

def minStep (o : Option Nat) (st : Nat) : Option Nat := some (match o with
  | some x => min x st
  | none => st)

/-- huddle-stale in the arriving region's court. (DESIGN CHOICE, notes/assumptions/87.md) -/
def staleArrive (s : State) (court : Option Nat) : State := ceErr s Err.ce_huddle_stale court

/-- The engine of plan entry or Relay `e` arrives at a number of a group (R327, R333). -/
def engineArrive (s : State) (id h step e : Nat) : State :=
  match groupIndex s id with
  | none => s
  | some i =>
    if numDecided (group s i) h then staleArrive s (some (group s i).court)
    else updNum s i h fun n => { n with engines := n.engines ++ [e], step := minStep n.step step }

/-- The step a number's package arrival carries: the smallest of its local arrivals' and its children's (R321). -/
def numStep (n : HNum) : Nat := n.step.getD 0

/-- The local side of a number stands: its regions, its engines, and for a commit group every Caddie of its court has
reported ready for its step. -/
def localArrived (s : State) (g : HGroup) (n : HNum) : Bool :=
  (relayRole s g.id n.number == some 1 || n.regions &&& g.regions == g.regions)
    && (match relayRole s g.id n.number with
        | some k => k == 0 || n.engines.contains relayEngine
        | none => (doneEntries s g.id).all n.engines.contains)
    && (!g.commit || (caddiesOf s g.court).all fun c => (caddie s c).ready && (caddie s c).window == some (numStep n))

/-- Every child has sent arrive with a non-zero count. -/
def childrenArrived (g : HGroup) (n : HNum) : Bool := g.children.all fun d => n.children.any fun c => c.1 == d && c.2 != 0

/-! ## Waits and failures (R323, R324) -/

def waitsFor (id h : Nat) (i : InFlight) : Bool := i.what == .huddle id h

/-- The waits of a region's programs for (g, h) complete. -/
def endHuddleWaits (s : State) (r id h : Nat) : State :=
  let s := updProg s r false fun p => completeInflight p (waitsFor id h)
  updProg s r true fun p => completeInflight p (waitsFor id h)

def regionWaits (s : State) (r id h : Nat) : Bool :=
  let x := s.region r
  (x.main.inflight ++ x.task.inflight).any (waitsFor id h)

/-- The waits for a number that failed complete with failure: each region that waited stops issuing. (DESIGN CHOICE, notes/assumptions/89.md) -/
def failWaits (s : State) (id h : Nat) : State :=
  forEach (List.range 32) s fun s r =>
    if regionWaits s r id h then (endHuddleWaits s r id h).updRegion r fun x => { x with stopped := true } else s

/-- A number fails here: it is recorded and passed on, a commit group's Caddies discard, its waits fail. (DESIGN CHOICE, notes/assumptions/86.md) -/
def failHere (s : State) (i h step cause : Nat) : State :=
  let g := group s i
  if numDecided g h && (findNum g h).isNone then s
  else
    let s := recordDecision s i h step 2 cause
    let s := if g.commit then forEach (caddiesOf s g.court) s fun s n => discardStep s n g.court step else s
    ceErr (failWaits s g.id h) Err.ce_huddle_failed (some g.court)

def setPhase (s : State) (v : Nat) : State := s.setFld Page.ce F.CE_RELAY_STAT_phase v

/-- A Relay fails with every member's data as it stood (R334). (DESIGN CHOICE, notes/assumptions/90.md) -/
def relayFails (s : State) : State :=
  let s := { s with relay := { s.relay with running := false } }
  let s := setPhase (s.setFld Page.ce F.CE_RELAY_ARM_armed 0) 5
  ceErr s Err.ce_relay_failed none

/-- A failure of a number upward: the root decides fail, another member sends fail to its parent once (R323). -/
def upFail (s : State) (i h cause : Nat) : State :=
  let g := group s i
  let s := if (findNum g h).isSome || numDecided g h then s else updNum s i h id
  if g.isRoot then
    match findNum (group s i) h with
    | some n => failHere s i h (numStep n) cause
    | none => s
  else localFail s i h cause

/-- A number fails: failHere, and for the Relay's number h + 1 the Relay fails with the wait on h + 2; a failed h drops
the arm. -/
def decideFail (s : State) (i h step cause : Nat) : State :=
  let g := group s i
  match relayRole s g.id h with
  | some 1 => upFail (relayFails (failHere s i h step cause)) i (h + 1) 1
  | some 0 => (failHere s i h step cause).setFld Page.ce F.CE_RELAY_ARM_armed 0
  | _ => failHere s i h step cause

/-- A local failure of a number (R302, R323, R330). -/
def failNumber (s : State) (i h cause : Nat) : State :=
  let g := group s i
  match findNum g h with
  | none => s
  | some n => if g.isRoot then decideFail s i h (numStep n) cause else localFail s i h cause

/-- A failure of a court's step is reported to its commit groups: the number that carries the step fails, or the next
one that does (R302, R330). -/
def commitFailure (s : State) (court step : Nat) : State :=
  forEach (s.groups.filter fun e => e.2.commit && e.2.court == court) s fun s e =>
    match (group s e.1).out.find? fun n => n.step == some step with
    | some n => failNumber s e.1 n.number 1
    | none => setGroup s e.1 { group s e.1 with doomed := (group s e.1).doomed ++ [step] }

/-- A region arrives at a number with its step register (R321, R292). -/
def regionArrive (s : State) (r i h step : Nat) : State :=
  let s := updNum s i h fun n => { n with regions := n.regions ||| 2 ^ r, step := minStep n.step step }
  let g := group s i
  if g.commit && g.doomed.contains step then
    failNumber (setGroup s i { g with doomed := g.doomed.filter (· != step) }) i h 1
  else s

/-! ## Arrive, wait, arrive and wait (R214, R231, R322, R324) -/

/-- Huddle number of an instruction: (A[areg] + sign-extended disp) mod 2^48. -/
def huddleNum (s : State) (h : Hdr) (a : AddrOp) : Nat := addrOf (s.prog h) a

/-- What stands in the way of an arrive: the bench under commit, or a ninth number. -/
def arriveReady (s : State) (h : Hdr) (group' : Nat) (num : Nat) (commit : Bool) : Ready :=
  let x := s.region h.region.toNat
  if commit && !h.task && (x.taskRunning || x.bench != []) then .counted 5 0
  else match groupIndex s group' with
    | none => .yes
    | some i => if numDecided (group s i) num || numRoom (group s i) num then .yes else .hazard

/-- The arrival of an instruction at a number of a group: a group absent from the table or a decided number has no effect
and raises huddle-stale. -/
def doArrive (s : State) (h : Hdr) (gid num step : Nat) : State :=
  match groupIndex s gid with
  | none => staleArrive s (s.courtOf h.region.toNat)
  | some i =>
    if numDecided (group s i) num then staleArrive s (s.courtOf h.region.toNat)
    else regionArrive s h.region.toNat i num step

/-- A wait for (g, h): held until its decision; one already decided completes, and stops the region where it failed. -/
def doWait (s : State) (h : Hdr) (pc gid num : Nat) : State :=
  let known := (groupIndex s gid).bind fun i => (group s i).decided.find? fun e => e.1 == num
  match known with
  | some (_, o) => if o = 2 then s.updRegion h.region.toNat fun x => { x with stopped := true } else s
  | none =>
    if (groupIndex s gid).isNone then staleArrive s (s.courtOf h.region.toNat)
    else hold s h pc 9 (.huddle gid num)

/-- ARRIVE (Table 9.13). -/
def execArrive (h : Hdr) (gid : BitVec 16) (a : AddrOp) (commit : Bool) (s : State) : Host.Outcome State Fault Refusal :=
  let num := huddleNum s h a
  let step := (s.prog h).step.toNat
  issue s h 0 true (arriveReady s h gid.toNat num commit) fun s => doArrive s h gid.toNat num step

/-- HUDDLE_WAIT (Table 9.13). -/
def execHuddleWait (h : Hdr) (gid : BitVec 16) (a : AddrOp) (s : State) : Host.Outcome State Fault Refusal :=
  let num := huddleNum s h a
  let pc := (s.prog h).pc
  issue s h 0 true .yes fun s => doWait s h pc gid.toNat num

/-- ARRIVE_AND_WAIT (Table 9.13). -/
def execArriveAndWait (h : Hdr) (gid : BitVec 16) (a : AddrOp) (commit : Bool) (s : State) :
    Host.Outcome State Fault Refusal :=
  let num := huddleNum s h a
  let step := (s.prog h).step.toNat
  let pc := (s.prog h).pc
  issue s h 0 true (arriveReady s h gid.toNat num commit) fun s =>
    let stale := match groupIndex s gid.toNat with
      | none => true
      | some i => numDecided (group s i) num
    let s := doArrive s h gid.toNat num step
    if stale then s else doWait s h pc gid.toNat num

end Sys2Proof.Machine
end

