-- ==== Sys2Proof/Machine/Collect.lean ====
section
/-! DEFINITION. Collectives: plan, runs, the reduction tree, delivery and gradient-noise statistics
(13_fabric_and_collectives.md R326 to R331). -/

namespace Sys2Proof.Machine

/-! ## Plan entries (R326, Table 13.7) -/

def plOp (e : List Byte) : Nat := bits (wordAt e 1) 31 28
def plFmt (e : List Byte) : Nat := bits (wordAt e 1) 27 24
def plStats (e : List Byte) : Bool := bit (wordAt e 1) 23
def plParts (e : List Byte) : Bool := bit (wordAt e 1) 22
def plTrigger (e : List Byte) : Nat := bits (wordAt e 1) 15 0
def plN (e : List Byte) : Nat := bits (wordAt e 2) 31 16 + 1
def plRank (e : List Byte) : Nat := bits (wordAt e 2) 15 0
def plTiles (e : List Byte) : Nat := bits (wordAt e 3) 16 0
def plSrc (e : List Byte) : Nat := pgAddr e 5
def plDst (e : List Byte) : Nat := pgAddr e 7
def plPartCount (e : List Byte) : Nat := bits (wordAt e 11) 31 16
def plRoot (e : List Byte) : Nat := bits (wordAt e 11) 15 0
def plBatch (e : List Byte) : Nat := wordAt e 12
def plStatsBase (e : List Byte) : Nat := pgAddr e 13
def plDone (e : List Byte) : Nat := bits (wordAt e 15) 15 0

/-- ceil(log2 n). -/
def clog2 (n : Nat) : Nat := if n ≤ 1 then 0 else Nat.log2 (n - 1) + 1

def planOk (s : State) (e : List Byte) : Bool :=
  let w := wordAt e
  let known (g : Nat) : Bool := (groupIndex s g).isSome
  bits (w 0) 31 16 == 0xC011 && bits (w 0) 15 8 == 1 && decide (plOp e ≤ 3) && (plFmt e == 1 || plFmt e == 2)
    && decide (256 ≤ plTiles e) && decide (plTiles e ≤ 65536)
    && bits (w 4) 4 0 + bits (w 4) 12 8 + bits (w 4) 20 16 == clog2 (plN e)
    && decide (plRank e < plN e) && known (plTrigger e) && (plDone e == 0xFFFF || known (plDone e))

/-- Load entry k of the plan: valid and right, refused with plan-entry, or not in use. -/
def loadPlan (s : State) (k : Nat) : State :=
  let base := s.fld48 Page.ce F.CE_PLAN_BASE_LO_base F.CE_PLAN_BASE_HI_base
  match consumeFor s ceWho none (base + 64 * k) 64 with
  | (s, none) => ceErr s Err.ce_plan_entry none
  | (s, some b) =>
    if !bit (wordAt b 0) 7 then s
    else if planOk s b then { s with plans := KMap.set s.plans [] k b }
    else ceErr s Err.ce_plan_entry none

def planCountWrite (s : State) (v : Nat) : State × Nat :=
  let s := s.setFld Page.ce F.CE_PLAN_COUNT_entries v
  (forEach (List.range (min (v % 2048) 1024)) { s with plans := [] } loadPlan, RegStatus.ok)

def execCePlanLoad (h : RegHdr) (v : W32) (s : State) : Host.Outcome State Fault Refusal :=
  regCommand s h (Page.ce + 0x54) fun s => planCountWrite s v.toNat

/-! ## The tree of R328 -/

def negZero : Nat := 0x80000000

/-- One level: pairs added under RNE. -/
def rankLevel : List Nat → List Nat
  | a :: b :: t => fadd a b :: rankLevel t
  | xs => xs

def rankTree : Nat → List Nat → Nat
  | 0, xs => xs.headD negZero
  | k + 1, xs => rankTree k (rankLevel xs)

/-- The sum of FP32 values in rank order, padded with −0 to a power of two. -/
def treeSum (xs : List Nat) : Nat :=
  let k := clog2 xs.length
  rankTree k (xs ++ List.replicate (2 ^ k - xs.length) negZero)

/-- Elements of FP32 bits in a bucket format, RNE with saturation clear. -/
def packFmt (fmt : Nat) (xs : List Nat) : List Byte :=
  if fmt = 2 then packBits 16 (xs.map fun x => (bf16.round .rne 0 false (num32 x)).1) else packBits 32 xs

/-- A tile reduced over the ranks' tiles. -/
def reduceTile (fmt : Nat) (tiles : List (List Byte)) : List Byte :=
  let vs := tiles.map (gradEls fmt)
  let n := (vs.headD []).length
  packFmt fmt ((List.range n).map fun i => treeSum (vs.map fun v => v.getD i 0))

/-- The squared norm of a bucket's elements (R331). -/
def sqNorm (fmt : Nat) (bs : List Byte) : Nat :=
  let es := gradEls fmt bs
  treeSum ((List.range ((es.length + 4095) / 4096)).map fun k =>
    ((es.drop (4096 * k)).take 4096).foldl (fun a x => fadd a (fmul x x)) negZero)

/-! ## Shards, parts and messages (R329) -/

/-- The tiles of rank k's shard. (DESIGN CHOICE, notes/assumptions/92.md) -/
def shard (e : List Byte) (k : Nat) : List Nat :=
  let lo := k * plTiles e / plN e
  (List.range ((k + 1) * plTiles e / plN e - lo)).map (lo + ·)

/-- An entry of the part table: device, page, part, stack, first bucket tile, tiles. -/
structure PartEntry where
  device : Nat
  page : Nat
  part : Nat
  stack : Nat
  first : Nat
  tiles : Nat
  deriving DecidableEq, Repr

/-- The part table, as it lies in memory. -/
def partTable (s : State) (e : List Byte) : List PartEntry :=
  (List.range (plPartCount e)).map fun i =>
    let b := Memory.read s.mem (plDst e + 16 * i) 16
    let w := wordAt b
    ⟨bits (w 0) 31 16, bits (w 0) 15 4, bits (w 0) 3 0, bits (w 1) 4 0, w 2, w 3⟩

/-- The parts delivered at a device: all of them under all-reduce. -/
def partsAt (s : State) (e : List Byte) (dev : Nat) : List PartEntry :=
  (partTable s e).filter fun p => plOp e == 0 || p.device == dev

/-- The bucket tiles a rank's outputs need. -/
def wanted (s : State) (e : List Byte) (k : Nat) : List Nat :=
  match plOp e with
  | 1 => if plParts e then
      (List.range (plTiles e)).filter fun t =>
        (partsAt s e ((rankTable s e).getD k 0)).any fun p => decide (p.first ≤ t) && decide (t < p.first + p.tiles)
    else shard e k
  | _ => List.range (plTiles e)

/-- The tiles rank `me` sends rank `k` of an op. -/
def sends (s : State) (e : List Byte) (k : Nat) : List Nat :=
  match plOp e with
  | 0 => List.range (plTiles e)
  | 1 => wanted s e k
  | 2 => shard e (plRank e)
  | _ => []

/-- The leaves a rank needs before it can deliver: rank and tile. -/
def leavesNeeded (s : State) (e : List Byte) : List (Nat × Nat) :=
  match plOp e with
  | 2 => (List.range (plN e)).flatMap fun k => (shard e k).map fun t => (k, t)
  | 3 => (List.range (plTiles e)).map fun t => (plRoot e, t)
  | _ => (List.range (plN e)).flatMap fun k => (wanted s e (plRank e)).map fun t => (k, t)

def leafKey (k t : Nat) : Nat := k * 2 ^ 17 + t

def planFlow (entry : Nat) : Nat := 3 * 2 ^ 28 + entry

/-- The children of a rank in the broadcast tree of fanout 8, by position from the root. -/
def castChildren (e : List Byte) (k : Nat) : List Nat :=
  let pos := (k + plN e - plRoot e) % plN e
  ((List.range 8).map fun i => 8 * pos + 1 + i).filterMap fun q =>
    if q < plN e then some ((q + plRoot e) % plN e) else none

/-- Send a bucket tile to a rank: the run header, then the tile with its trailer. -/
def sendBucket (s : State) (entry : Nat) (e : List Byte) (step from' to' t : Nat) (tile : List Byte) (src : List Nat) : State :=
  sendFlow s ((rankTable s e).getD to' 0) (planFlow entry) allPorts 0x50
    [step % 2 ^ 32, step / 2 ^ 32, from', t, 0, 0, 0, 0] tile src

/-- Send the norms of a rank to the other ranks (R331). -/
def sendNorms (s : State) (entry : Nat) (e : List Byte) (step u w : Nat) : State :=
  forEach ((List.range (plN e)).filter (· != plRank e)) s fun s k =>
    sendFlow s ((rankTable s e).getD k 0) (planFlow entry) allPorts 0x51
      [step % 2 ^ 32, step / 2 ^ 32, plRank e, 0, u, w, 0, 0] [] []

/-! ## Runs (R327) -/

def sameRun (entry step : Nat) (r : Run) : Bool := r.entry == entry && r.step == step

/-- The run of an entry and step. -/
def runOf (s : State) (entry step : Nat) : Option Run := s.runs.find? (sameRun entry step)

def setRuns (s : State) (rs : List Run) : State :=
  ({ s with runs := rs }).setFld Page.ce F.CE_STATUS_runs_active (min (rs.filter fun (x : Run) => x.live).length 255)

def putRun (s : State) (r : Run) : State :=
  setRuns s (if s.runs.any (sameRun r.entry r.step) then s.runs.map fun x => if sameRun r.entry r.step x then r else x
    else s.runs ++ [r])

def newRun (entry : Nat) (e : List Byte) (step : Nat) : Run := ⟨entry, e, step, 0, [], [], false, [], [], false⟩

/-- Is a run the oldest live one of its entry, so that it runs (R327)? -/
def runsNow (s : State) (r : Run) : Bool :=
  (s.runs.find? fun x => x.entry == r.entry && x.live).map (·.step) == some r.step

/-- A run fails (R330): coll-failed, no arrival at done, and the court's commit group hears of it for the step. -/
def failRun (s : State) (r : Run) : State :=
  let s := setRuns s (s.runs.filter fun x => !sameRun r.entry r.step x)
  let c := runCourt r
  let s := count s Page.ce 0x02 { court := some c, master := some 5 }
  commitFailure (ceErr s Err.ce_coll_failed (some c)) c r.step

/-- Read the source tiles of a run and send each rank what it takes; the own leaves stay. A poisoned or refused tile
fails the run. (DESIGN CHOICE, notes/assumptions/91.md) -/
def sendSources (s : State) (r : Run) : State :=
  let e := r.desc
  let w : Who := ⟨some (runCourt r), 6, 5⟩
  let mine := match plOp e with
    | 2 => shard e (plRank e)
    | 3 => if plRank e = plRoot e then List.range (plTiles e) else []
    | _ => List.range (plTiles e)
  mine.foldl (fun s t =>
    match runOf s r.entry r.step with
    | none => s
    | some r' =>
      let a := plSrc e + t * tileBytes
      match readTile s w a with
      | (s, .refused _) => failRun s r'
      | (s, .data bs tr) =>
        if tr.poison then failRun (poisonConsumed s w a 0) r'
        else
          let s := putRun s { r' with leaves := KMap.set r'.leaves [] (leafKey (plRank e) t) bs }
          let to' := if plOp e = 3 then castChildren e (plRank e)
            else (List.range (plN e)).filter fun k => k != plRank e && (sends s e k).contains t
          forEach to' s fun s k => sendBucket s r.entry e r.step (plRank e) k t (bs ++ trailerBytes tr) [a]) s

/-! ## Outputs (R328, R329) -/

def leavesIn (s : State) (r : Run) : Bool :=
  (leavesNeeded s r.desc).all fun x => KMap.get r.leaves [] (leafKey x.1 x.2) != []

/-- The rank that holds a tile of an all-gather: the one whose shard it lies in. -/
def holderOf (e : List Byte) (t : Nat) : Nat := ((List.range (plN e)).find? fun k => (shard e k).contains t).getD 0

/-- The output tile t of a run. -/
def outTile (r : Run) (t : Nat) : List Byte :=
  let e := r.desc
  match plOp e with
  | 2 => KMap.get r.leaves [] (leafKey (holderOf e t) t)
  | 3 => KMap.get r.leaves [] (leafKey (plRoot e) t)
  | _ => reduceTile (plFmt e) ((List.range (plN e)).map fun k => KMap.get r.leaves [] (leafKey k t))

/-- The parts a run delivers to Caddies, each with its stack. -/
def runParts (s : State) (r : Run) : List (Nat × CPart) :=
  (partsAt s r.desc (deviceId s)).map fun p =>
    (p.stack, ⟨p.page, p.part, r.step, runCourt r, false, false, (List.range p.tiles).flatMap fun i => outTile r (p.first + i)⟩)

/-- Deliver the parts of a run that their Caddies accept (R287); the rest wait. -/
def deliver (s : State) (r : Run) : State :=
  let (s, left) := (r.homes.zip r.parts).foldl (fun (acc : State × List (Nat × CPart)) x =>
    let n := partTarget acc.1 x.1
    let q := partAt acc.1 x.1 x.2
    if partFate acc.1 n q = .waits then (acc.1, acc.2 ++ [x])
    else (count (takePart acc.1 n q) Page.ce 0x04 { court := some (runCourt r), master := some 5 }, acc.2)) (s, [])
  match runOf s r.entry r.step with
  | none => s
  | some r => putRun s { r with parts := left.map (·.2), homes := left.map (·.1) }

/-- The tiles of a rank's reduced shard, for its norm w. -/
def shardTiles (s : State) (e : List Byte) : List Nat :=
  if plOp e = 1 then wanted s e (plRank e) else shard e (plRank e)

/-- Every leaf is in: the outputs are computed and written, or given to the Caddies, and the norms go out. -/
def finishLeaves (s : State) (r : Run) : State :=
  if !(r.live && runsNow s r && !r.reduced && leavesIn s r) then s
  else
    let e := r.desc
    let w : Who := ⟨some (runCourt r), 6, 5⟩
    let ts := wanted s e (plRank e)
    let s := if plParts e then s else forEach (ts.zip (List.range ts.length)) s fun s x =>
      let off := if plOp e = 1 then x.2 else x.1
      (writeTile s w (plDst e + off * tileBytes) (outTile r x.1) (plFmt e)).1
    let s := count s Page.ce 0x03 { n := ts.length, court := some (runCourt r), master := some 5 }
    let s := fixedCount s Page.ce 0 (ts.length * tileBytes)
    let own := sqNorm (plFmt e) ((List.range (plTiles e)).flatMap fun t => KMap.get r.leaves [] (leafKey (plRank e) t))
    let red := sqNorm (plFmt e) ((shardTiles s e).flatMap (outTile r))
    let norms := if plStats e then KMap.set r.norms 0 (plRank e) (own + red * 2 ^ 32 + 2 ^ 64) else r.norms
    let s := if plStats e then sendNorms s r.entry e r.step own red else s
    let ps := if plParts e then runParts s r else []
    let r := { r with reduced := true, norms := norms, parts := ps.map (·.2), homes := ps.map (·.1) }
    deliver (putRun s r) r

/-- A run that may run starts: its sources go out and what has arrived is used. -/
def startRun (s : State) (entry step : Nat) : State :=
  match runOf s entry step with
  | none => s
  | some r =>
    if !runsNow s r then s
    else
      let s := sendSources s r
      match runOf s entry step with
      | none => s
      | some r => finishLeaves s r

/-- A group's number completed: a run of every entry it triggers, for the step the arrivals carried (R327). -/
def startRuns (s : State) (id h step : Nat) : State :=
  forEach (s.plans.filter fun e => plTrigger e.2 == id) s fun s e =>
    let r := (runOf s e.1 step).getD (newRun e.1 e.2 step)
    if r.live then s else startRun (putRun s { r with live := true, number := h, desc := e.2 }) e.1 step

/-! ## Data and statistics (R328, R331) -/

/-- Take a bucket tile: poison is met in the run's court and fails the run; a broadcast passes it on. -/
def takeLeaf (s : State) (entry : Nat) (m : CollMsg) (x : (List Byte × Bool × Nat) × Nat) : State :=
  match runOf s entry m.step.toNat with
  | none => s
  | some r =>
    let e := r.desc
    let t := m.tile.toNat + x.2
    if x.1.2.1 then
      failRun (raiseDevice s 0xF001 { page := Page.ce, court := some (runCourt r), detail := [t, 0, 6, 0] }) r
    else
      let s := putRun s { r with leaves := KMap.set r.leaves [] (leafKey m.rank.toNat t) x.1.1 }
      if plOp e = 3 then
        forEach (castChildren e (plRank e)) s fun s k =>
          sendBucket s entry e r.step (plRoot e) k t
            (x.1.1 ++ leBytes 4 (crc32c (x.1.1 ++ leBytes 4 (x.1.2.2 - bits x.1.2.2 19 19 * 2 ^ 19))) ++ leBytes 4 x.1.2.2) []
      else s

/-- COLLECTIVE_DATA as the engine takes it: a plan entry this package lacks takes nothing. -/
def takeColl (s : State) (flow : Nat) (m : CollMsg) : Taken :=
  let entry := flow % 2 ^ 28
  match checkTiles m.tiles with
  | none => .resend s
  | some ts =>
    .yes <|
      let e := KMap.get s.plans [] entry
      if e = [] ∨ plN e ≤ m.rank.toNat then s
      else
        let s := if (runOf s entry m.step.toNat).isSome then s else putRun s (newRun entry e m.step.toNat)
        let s := if m.stats then
            match runOf s entry m.step.toNat with
            | some r => putRun s { r with norms := KMap.set r.norms 0 m.rank.toNat (m.u.toNat + m.w.toNat * 2 ^ 32 + 2 ^ 64) }
            | none => s
          else forEach (ts.zip (List.range ts.length)) s fun s x => takeLeaf s entry m x
        match runOf s entry m.step.toNat with
        | some r => finishLeaves s r
        | none => s

/-! ## The end of a run (R327, R331) -/

def normsIn (r : Run) : Bool :=
  !plStats r.desc || (List.range (plN r.desc)).all fun k => KMap.get r.norms 0 k != 0

def f1over (x : Nat) : Nat := fdiv f1 x
def fnan : Nat := 0x7FC00000
def finf : Nat := 0x7F800000

/-- U, W, g2, s and bn of a run, and whether they are undefined (R331). -/
def noiseOf (r : Run) : List Nat × Bool :=
  let e := r.desc
  let n := plN e
  let u := treeSum ((List.range n).map fun k => KMap.get r.norms 0 k % 2 ^ 32)
  let w := treeSum ((List.range n).map fun k => KMap.get r.norms 0 k / 2 ^ 32 % 2 ^ 32)
  if n = 1 then ([u, w, fnan, fnan, fnan], true)
  else
    let fn := fnat n
    let b := fnat (plBatch e)
    let bg := fnat (n * plBatch e)
    let ml := fdiv u fn
    let mg := fdiv w (fmul fn fn)
    let g2 := fdiv (fsub (fmul bg mg) (fmul b ml)) (fsub bg b)
    let sg := fdiv (fsub ml mg) (fsub (f1over b) (f1over bg))
    if fle g2 0 then ([u, w, g2, sg, finf], true) else ([u, w, g2, sg, fdiv sg g2], false)

/-- The 32-byte statistics record and bn. -/
def writeNoise (s : State) (r : Run) : State :=
  let e := r.desc
  let (v, undef) := noiseOf r
  let s := if undef then ceErr s Err.ce_stats_undefined (some (runCourt r)) else s
  let s := (writeSpan s ⟨some (runCourt r), 6, 5⟩ (plStatsBase e + r.step % 64 * 32)
    (wordBytes ([r.step % 2 ^ 32, r.step / 2 ^ 32] ++ v ++ [plN e - 1])) 0).1
  { s with noise := KMap.set s.noise 0 r.entry (v.getD 4 0) }

/-- The run of an entry that can end: reduced, delivered, acknowledged, its norms in, and its done group free to take an
arrival. -/
def endingRun (s : State) (entry : Nat) : Option Run :=
  s.runs.find? fun r =>
    r.entry == entry && r.live && r.reduced && normsIn r
      && ((rankTable s r.desc).all fun d => d == deviceId s || flowIdle s d (planFlow entry))
      && (match groupIndex s (plDone r.desc) with
          | some i => numRoom (group s i) r.number || numDecided (group s i) r.number
          | none => true)

/-- A run ends: it arrives at done with the trigger's number, and the next run of its entry starts. -/
def endRun (s : State) (r : Run) : State :=
  let s := if plStats r.desc then writeNoise s r else s
  let s := setRuns s (s.runs.filter fun x => !sameRun r.entry r.step x)
  let s := count s Page.ce 0x01 { court := some (runCourt r), master := some 5 }
  let s := if plDone r.desc = 0xFFFF then s else engineArrive s (plDone r.desc) r.number r.step r.entry
  match s.runs.find? fun x => x.entry == r.entry && x.live with
  | some x => startRun s x.entry x.step
  | none => s

/-- COLLECTIVE_RUN_END: the parts still waiting are offered again; once none is left the run ends. -/
def execCollectiveRunEnd (entry : BitVec 10) (s : State) : Host.Outcome State Fault Refusal :=
  match endingRun s entry.toNat with
  | none => turnedAway s
  | some r =>
    if r.parts = [] then effect s fun s => endRun s r
    else if (r.homes.zip r.parts).all fun x => partFate s (partTarget s x.1) (partAt s x.1 x.2) == .waits then turnedAway s
    else effect s fun s =>
      let s := deliver s r
      match runOf s r.entry r.step with
      | some r => if r.parts = [] then endRun s r else s
      | none => s

end Sys2Proof.Machine
end

