-- ==== Sys2Proof/Machine/Relay.lean ====
section
/-! DEFINITION. The Relay (13_fabric_and_collectives.md R332 to R334). -/

namespace Sys2Proof.Machine

def relayIn (s : State) : Nat := s.fld Page.ce F.CE_RELAY_IN_tiles
def relayStage (s : State) (k : Nat) : Nat := s.fld48 Page.ce F.CE_RELAY_STAGE_LO_base F.CE_RELAY_STAGE_HI_base + k * tileBytes
def relayFlow (s : State) : Nat := 4 * 2 ^ 28 + relayGroup s

/-- Is a commit window open on any Caddie? -/
def anyWindow (s : State) : Bool := s.caddies.any fun e => e.2.window.isSome

def showRelay (s : State) : State := s.setFld Page.ce F.CE_RELAY_STAT_tiles_in s.relay.staged.length

/-- Arm the Relay (R332). -/
def relayArm (s : State) (group' : Nat) : State × Nat :=
  if anyWindow s || decide (s.fld Page.ce F.CE_RELAY_STAGE_TILES_tiles < relayIn s) then (s, RegStatus.denied)
  else
    let s := { s with relay := ⟨false, 0, []⟩ }
    let s := s.setFld Page.ce F.CE_RELAY_ARM_armed 1
    let s := s.setFld Page.ce F.CE_RELAY_ARM_copy 0
    let s := s.setFld Page.ce F.CE_RELAY_ARM_group group'
    (setPhase (showRelay s) 0, RegStatus.ok)

/-- A tile beyond CE_RELAY_IN (R334): relay-space, and h + 1 fails. -/
def relaySpace (s : State) : State :=
  let s := ceErr s Err.ce_relay_space none
  match groupIndex s (relayGroup s) with
  | some i => if s.fld Page.ce F.CE_RELAY_ARM_armed = 1 then
      failNumber (if (findNum (group s i) (relayNum s + 1)).isSome then s else updNum s i (relayNum s + 1) id) i (relayNum s + 1) 1
    else s
  | none => s

/-- Write an incoming tile into staging as a carrier; it keeps its format, generation and poison. -/
def stageTile (s : State) (dst : Nat) (bs : List Byte) (poison : Bool) (w1 : Nat) : State :=
  if relayIn s ≤ s.relay.staged.length then relaySpace s
  else
    let t : Trailer := ⟨0#32, 0#12, poison, BitVec.ofNat 4 (bits w1 18 15), BitVec.ofNat 15 (bits w1 14 0), .written⟩
    let s := (writeCopy s ceWho (relayStage s s.relay.staged.length) bs t poison).1
    let s := count s Page.ce 0x07 { priv := 30, master := some 5 }
    showRelay { s with relay := { s.relay with staged := s.relay.staged ++ [dst] } }

/-- RELAY_TILES as the engine takes it. -/
def takeRelay (s : State) (m : RelayMsg) : Taken :=
  match checkTiles m.tiles with
  | none => .resend s
  | some ts => .yes (forEach (ts.zip (List.range ts.length)) s fun s x =>
      stageTile s (m.dst.toNat + x.2 * tileBytes) x.1.1 x.1.2.1 x.1.2.2)

/-- An entry of the Relay's list: source local address, destination device and local address, tiles. -/
def relayEntry (s : State) (k : Nat) : State × Option (Nat × Nat × Nat × Nat) :=
  match consumeFor s ceWho none (s.fld48 Page.ce F.CE_RELAY_BASE_LO_base F.CE_RELAY_BASE_HI_base + 32 * k) 32 with
  | (s, none) => (s, none)
  | (s, some b) =>
    let w := wordAt b
    (s, some ((w 0 + w 1 * 2 ^ 32) % 2 ^ 48, w 3 / 2 ^ 16, (w 2 + w 3 * 2 ^ 32) % 2 ^ 48, w 4))

/-- Send one source tile to its destination package, or stage it here. -/
def relayOne (s : State) (src dev dst : Nat) : State :=
  match readTile s ceWho src with
  | (s, .refused _) => s
  | (s, .data bs t) =>
    if dev = deviceId s then stageTile s dst bs t.poison (word1 t.tag t.poison t.format t.gen)
    else
      let s := count s Page.ce 0x07 { priv := 30, master := some 5 }
      sendFlow s dev (relayFlow s) allPorts 0x60 [dst % 2 ^ 32, dst / 2 ^ 32, 0, 0, 0, 0, 0, 0] (bs ++ trailerBytes t) [src]

/-- Step 2 of Table 13.8: every source tile leaves. -/
def relaySend (s : State) (step : Nat) : State :=
  let s := setPhase { s with relay := { s.relay with running := true, step := step } } 1
  forEach (List.range (s.fld Page.ce F.CE_RELAY_COUNT_entries)) s fun s k =>
    match relayEntry s k with
    | (s, none) => s
    | (s, some (src, dev, dst, n)) =>
      forEach (List.range n) s fun s i => relayOne s (src + i * tileBytes) dev (dst + i * tileBytes)

/-- Step 5: each staged tile to its destination, then the arrival at h + 2. -/
def relayCopy (s : State) (step : Nat) : State :=
  let s := setPhase s 3
  let s := forEach (s.relay.staged.zip (List.range s.relay.staged.length)) s fun s x =>
    (copyTile s ceWho (relayStage s x.2) x.1).1
  engineArrive (setPhase s 4) (relayGroup s) (relayNum s + 2) step relayEngine

/-- The armed Relay at a completed number of its group. -/
def relayComplete (s : State) (role step : Nat) : State :=
  match role with
  | 0 => relaySend s step
  | 1 => relayCopy s step
  | _ => ({ s with relay := { s.relay with running := false } }).setFld Page.ce F.CE_RELAY_ARM_armed 0

/-- RELAY_ARM. -/
def execRelayArm (h : RegHdr) (gid : BitVec 16) (s : State) : Host.Outcome State Fault Refusal :=
  regCommand s h (Page.ce + 0x9C) fun s => relayArm s gid.toNat

/-- The write of CE_RELAY_ARM with the copy bit. -/
def relayRestart (s : State) (group' : Nat) : State × Nat :=
  let s := s.setFld Page.ce F.CE_RELAY_ARM_group group'
  let s := s.setFld Page.ce F.CE_RELAY_ARM_armed 1
  let s := s.setFld Page.ce F.CE_RELAY_ARM_copy 1
  (relayCopy s s.relay.step, RegStatus.ok)

/-- RELAY_COPY_RESTART: step 5 again from the staging area. -/
def execRelayCopyRestart (h : RegHdr) (gid : BitVec 16) (s : State) : Host.Outcome State Fault Refusal :=
  regCommand s h (Page.ce + 0x9C) fun s => relayRestart s gid.toNat

/-- Every outgoing tile is acknowledged and CE_RELAY_IN tiles have arrived. -/
def relayStaged (s : State) : Bool :=
  s.relay.running && s.fld Page.ce F.CE_RELAY_STAT_phase == 1 && s.relay.staged.length == relayIn s
    && (s.flows.filter fun e => e.1 % 2 ^ 32 == relayFlow s).all fun e => e.2.unacked == [] && e.2.waiting == []

/-- RELAY_STAGED (step 3): the CE arrives at h + 1. -/
def execRelayStaged (s : State) : Host.Outcome State Fault Refusal :=
  if relayStaged s then
    effect s fun s => engineArrive (setPhase s 2) (relayGroup s) (relayNum s + 1) s.relay.step relayEngine
  else turnedAway s

end Sys2Proof.Machine
end

