-- ==== Sys2Proof/Machine/CaddieOps.lean ====
section
/-! DEFINITION. The Caddies' ready, commit and commands, digest passes, transfers and rebuilds
(12_caddie.md R291, R293, R297 to R302; 16_fault_containment.md R400). -/

namespace Sys2Proof.Machine

/-! ## Ready, commit and CADDIE_CMD -/

/-- CADDIE_READY: step 3 of Table 12.7. -/
def execCaddieReady (stack : BitVec 5) (s : State) : Host.Outcome State Fault Refusal :=
  let n := stack.toNat
  if canReady s n then
    effect s fun s => (updCaddie s n fun x => { x with ready := true }).setFld (Page.caddie n) F.CADDIE_COMMIT_STAT_state 3
  else turnedAway s

/-- The courts whose pages a Caddie holds. -/
def courtsOf (s : State) (n : Nat) : List Nat := ((caddie s n).pages.map fun e => pgCourt e.2.desc).eraseDups

/-- The Caddie reports failure in place of ready for its window's step (R302, R323). (DESIGN CHOICE, notes/assumptions/82.md) -/
def reportFailure (s : State) (n : Nat) : State :=
  match (caddie s n).window with
  | none => s
  | some step => forEach (courtsOf s n) (updCaddie s n fun x => { x with blocked := true }) fun s c => commitFailure s c step

/-- READY_TIMEOUT: CADDIE_READY_DEADLINE expires before ready (R291). -/
def execReadyTimeout (stack : BitVec 5) (s : State) : Host.Outcome State Fault Refusal :=
  let n := stack.toNat
  let x := caddie s n
  if caddieFld s n F.CADDIE_READY_DEADLINE_deadline_us ≠ 0 ∧ x.window.isSome ∧ !x.ready ∧ !x.timedOut
      ∧ caddieFld s n F.CADDIE_COMMIT_STAT_state ≠ 4 then
    effect s fun s =>
      let s := updCaddie s n fun x => { x with timedOut := true }
      reportFailure (caddieErr s n none 0 Err.caddie_ready_timeout (caddieFld s n F.CADDIE_READY_DEADLINE_deadline_us)) n
  else turnedAway s

/-- CADDIE_COMMIT: steps 6 to 8 of Table 12.7 at a Caddie that commit(s) has reached. -/
def execCaddieCommit (stack : BitVec 5) (s : State) : Host.Outcome State Fault Refusal :=
  let n := stack.toNat
  match (caddie s n).window with
  | some step =>
    if caddieFld s n F.CADDIE_COMMIT_STAT_state = 4 then effect s fun s => commitCaddie s n step else turnedAway s
  | none => turnedAway s

/-- Start a digest pass: the pages are busy (R297). -/
def startDigest (s : State) (n : Nat) : State :=
  let s := updCaddie s n fun x => { x with pages := x.pages.map fun e => (e.1, { e.2 with digesting := true }) }
  s.setFld (Page.caddie n) F.CADDIE_DIGEST_STAT_state 1

/-- Does an address lie in a page's areas? -/
def inPage (b : List Byte) (a : Nat) : Bool :=
  (decide (pgNear b ≤ a) && decide (a < slotAddr b (pgD b + 1))) || (decide (pgDeep b ≤ a) && decide (a < copyBase b 2))

/-- Replace a tile of the committed state: written whole, its change sent to its parity holder as a committed delta, and
digest-repair raised (R298). -/
def repairTile (s : State) (n a : Nat) (bs : List Byte) : State :=
  let (s, old) := caddieTile s a
  let t := trailerAt s a
  let s := (writeTile s whoCaddie a bs t.format.toNat).1
  let (s, st) := if parityOn s n then protectedStream s n else (s, [])
  let tp := max 1 (parTiles s n)
  let s := match (st.map (·.1)).findIdx? (· == a) with
    | some i => sendTransfer s n (parId s n ((parJ s n + 1 + i / tp) % parN s n)) 0 (i / tp) (i % tp) (committedOf s n) false
        (xorBytes old bs)
    | none => s
  let s := s.satFld (Page.caddie n) F.CADDIE_DIGEST_STAT_repairs 1
  let page := ((caddie s n).pages.find? fun e => inPage e.2.desc a).map fun e => (e.1, pgCourt e.2.desc)
  caddieErr s n (page.map (·.2)) ((page.map (·.1)).getD 0) Err.caddie_digest_repair

/-- The pages no split tile holds are released. -/
def releasePages (s : State) (n : Nat) : State :=
  let split := (caddie s n).split.map (·.1)
  updCaddie s n fun x =>
    { x with pages := x.pages.map fun e => (e.1, { e.2 with digesting := split.any (inPage e.2.desc) }) }

/-- CADDIE_CMD cmd 3: every split tile takes the named replica's value; this package's own stands as it is. -/
def authority (s : State) (n dev : Nat) : State :=
  let x := caddie s n
  let s := forEach x.split s fun s e =>
    if dev = deviceId s then s
    else match e.2.find? fun c => c.1 == dev with
      | some c => repairTile s n e.1 c.2
      | none => s
  let s := updCaddie s n fun x =>
    { x with split := x.split.filter fun e => dev != deviceId s && !(e.2.any fun c => c.1 == dev) }
  releasePages s n

/-- The write of CADDIE_CMD: commands 1 to 3, others ignored with RANGE. -/
def caddieCmd (s : State) (n v : Nat) : State × Nat :=
  if !bit v 31 then (s, RegStatus.ok)
  else match bits v 18 16 with
  | 1 => (discardCaddie s n none, RegStatus.ok)
  | 2 => (startDigest s n, RegStatus.ok)
  | 3 => (authority s n (bits v 15 0), RegStatus.ok)
  | _ => (s, RegStatus.range)

def caddieCmdOff (n : Nat) : Nat := Page.caddie n + 0x68

def execCaddieCmdDiscard (h : RegHdr) (stack : BitVec 5) (s : State) : Host.Outcome State Fault Refusal :=
  regCommand s h (caddieCmdOff stack.toNat) fun s => caddieCmd s stack.toNat (2 ^ 31 + 1 * 2 ^ 16)

def execCaddieCmdDigest (h : RegHdr) (stack : BitVec 5) (s : State) : Host.Outcome State Fault Refusal :=
  regCommand s h (caddieCmdOff stack.toNat) fun s => caddieCmd s stack.toNat (2 ^ 31 + 2 * 2 ^ 16)

def execCaddieCmdAuthority (h : RegHdr) (stack : BitVec 5) (dev : BitVec 16) (s : State) :
    Host.Outcome State Fault Refusal :=
  regCommand s h (caddieCmdOff stack.toNat) fun s => caddieCmd s stack.toNat (2 ^ 31 + 3 * 2 ^ 16 + dev.toNat)

/-! ## The digest tree (R297) -/

/-- Groups of up to 64. -/
def groups64 : Nat → List Nat → List (List Nat)
  | 0, _ => []
  | k + 1, xs => if xs = [] then [] else xs.take 64 :: groups64 k (xs.drop 64)

/-- One level of nodes over child digests. -/
def digestLevel (xs : List Nat) : List Nat := (groups64 (xs.length + 1) xs).map fun g => crc64xz (g.flatMap (leBytes 8))

def digestGo : Nat → List Nat → Nat
  | 0, xs => xs.headD 0
  | k + 1, xs => match xs with
    | [] => 0
    | [x] => x
    | xs => digestGo k (digestLevel xs)

/-- The digest of a page: its committed high halves, low halves, m and v by tile. -/
def pageDigest (s : State) (n : Nat) (p : CPage) : State × Nat :=
  match pageAt' s n p with
  | (s, none) => (s, 0)
  | (s, some a) =>
    let (s, ds) := (streamOf p.desc a).foldl (fun (acc : State × List Nat) t =>
      let (s, b) := caddieTile acc.1 t.1
      let s := count s (Page.caddie n) 0x08 { master := some 4, priv := 30 }
      (s, acc.2 ++ [crc64xz b])) (s, [])
    (s, digestGo 4 (digestLevel ds))

/-- The node of a stack over its pages in page-table order. -/
def stackDigest (s : State) (n : Nat) : State × Nat :=
  let (s, ds) := (caddie s n).pages.foldl (fun (acc : State × List Nat) e =>
    let (s, d) := pageDigest acc.1 n e.2
    (s, acc.2 ++ [d])) (s, [])
  (s, digestGo 3 (digestLevel ds))

/-- The value a strict majority of three or more replicas holds, this one's among them. -/
def majority (vs : List (List Byte)) : Option (List Byte) :=
  if vs.length < 3 then none else vs.find? fun v => decide (vs.length < 2 * (vs.filter (· == v)).length)

/-- The owner a tile's page names. -/
def ownerOfTile (s : State) (n a : Nat) : Nat :=
  (((caddie s n).pages.find? fun e => decide (pgNear e.2.desc ≤ a) && decide (a < slotAddr e.2.desc (pgD e.2.desc + 1))).map
    fun e => bits (wordAt e.2.desc 14) 31 16).getD 0

/-- What a differing tile should hold: the owner's value in owner mode, the majority's in digest mode. -/
def digestChoice (s : State) (n a : Nat) (own : List Byte) (copies : List (Nat × List Byte)) : Option (List Byte) :=
  if ownerMode s n then (copies.find? fun c => c.1 == ownerOfTile s n a).map (·.2) else majority (own :: copies.map (·.2))

/-- One differing tile (R298). -/
def digestDiff (s : State) (n a : Nat) (copies : List (Nat × List Byte)) : State :=
  let (s, own) := caddieTile s a
  match digestChoice s n a own copies with
  | some v => if v = own then s else repairTile s n a v
  | none =>
    caddieErr (updCaddie s n fun x => { x with split := x.split ++ [(a, copies)] }) n none 0 Err.caddie_digest_split

/-- DIGEST_PASS: the tree is computed; the tiles that differ, with the replicas' values, are what the comparison found. -/
def execDigestPass (stack : BitVec 5) (diffs : List DigestDiff) (s : State) : Host.Outcome State Fault Refusal :=
  let n := stack.toNat
  let p := Page.caddie n
  if caddieFld s n F.CADDIE_DIGEST_STAT_state = 1 then
    effect s fun s =>
      let (s, d) := stackDigest s n
      let s := updCaddie s n fun x => { x with digest := d }
      let s := forEach diffs s fun s e => digestDiff s n e.tile.toNat (e.copies.map fun c => (c.1.toNat, c.2))
      let s := releasePages s n
      let s := s.setFld p F.CADDIE_DIGEST_STAT_state 0
      s.setFld p F.CADDIE_DIGEST_STAT_passes (caddieFld s n F.CADDIE_DIGEST_STAT_passes + 1)
  else turnedAway s

/-! ## Transfers (R296, R300, R301) -/

/-- XOR a tile into a tile of a parity copy. -/
def xorInto (s : State) (a : Nat) (bs : List Byte) : State :=
  let (s, old) := caddieTile s a
  (writeTile s whoCaddie a (xorBytes old bs) 0).1

/-- Begin the pending parity copy: from the committed copy, or from zeros where every member sends its whole stream. -/
def beginParity (s : State) (n : Nat) (whole : Bool) : State :=
  if (caddie s n).parity then s
  else
    let (k, _) := parCommitted s n
    let s := forEach (List.range (parTiles s n)) s fun s i =>
      let dst := parCopy s n (1 - k) + (1 + i) * tileBytes
      if whole then (writeTile s whoCaddie dst (List.replicate tileBytes 0#8) 0).1
      else (copyTile s whoCaddie (parCopy s n k + (1 + i) * tileBytes) dst).1
    updCaddie s n fun x => { x with parity := true }

/-- A delta or whole-stream tile, or its sender's end mark, at the holder (R300). A delta of a committed step changes the
committed copy (R298). -/
def takeDelta (s : State) (n : Nat) (m : CaddieMsg) (tile : Option (List Byte)) : State :=
  let step := m.step.toNat
  let i := m.index.toNat
  if step ≤ committedOf s n ∧ (caddie s n).window ≠ some step then
    match tile with
    | some b => xorInto s (parCopy s n (parCommitted s n).1 + (1 + i) * tileBytes) b
    | none => s
  else
    let s := openWindow s n step
    let s := beginParity s n (m.kind.toNat == 6)
    let s := match tile with
      | some b => xorInto s (parCopy s n (1 - (parCommitted s n).1) + (1 + i) * tileBytes) b
      | none => s
    if m.last then
      updCaddie s n fun x =>
        { x with deltasFrom := if x.deltasFrom.contains m.member.toNat then x.deltasFrom else x.deltasFrom ++ [m.member.toNat] }
    else s

/-- A tile of an owner's high halves: kept until the page's last one, then a part of the page (R285, R296). -/
def takeHigh (s : State) (n : Nat) (m : CaddieMsg) (tile : Option (List Byte)) : State :=
  let x := m.index.toNat / 65536 % 4096
  let s := match tile with
    | some b => updCaddie s n fun c => { c with incoming := KMap.upd c.incoming [] x (· ++ b) }
    | none => s
  if m.last then
    let data := KMap.get (caddie s n).incoming [] x
    let s := updCaddie s n fun c => { c with incoming := KMap.set c.incoming [] x [] }
    let court := ((cpage s n x).map fun g => pgCourt g.desc).getD 0
    takePart s n ⟨x, 0, m.step.toNat, court, true, false, data⟩
  else s

/-! ### Rebuild (R301, R302, R400) -/

/-- A page's committed tile k: of the current slot, then of the current copy, with its format. -/
def committedTile (b : List Byte) (a : PageAt) (k : Nat) : Nat × Nat :=
  let ts := pgSlotTiles b
  let e := pgBlocks b
  if k < ts then (slotAddr b a.curSlot + k * tileBytes, if k < 2 * e then 2 else 0)
  else (copyBase b a.cur + (1 + (k - ts)) * tileBytes, if k - ts < 2 * e then 0 else 1)

/-- The protected stream's committed tiles with their formats; a replacement's lie in slot 0 and copy 0. -/
def streamTilesOf (s : State) (n : Nat) (fresh : Bool) : State × List (Nat × Nat) :=
  (caddie s n).pages.foldl (fun (acc : State × List (Nat × Nat)) e =>
    let b := e.2.desc
    if !pgOwned b then acc
    else
      let (s, a) := if fresh then (acc.1, some (⟨0, 0, 0⟩ : PageAt)) else pageAt' acc.1 n e.2
      match a with
      | none => (s, acc.2)
      | some a =>
        let k := pgBlocks b
        let deep := (if pgRule b = 1 then 10 else 6) * k
        (s, acc.2 ++ (List.range (2 * k)).map (committedTile b a) ++ (List.range deep).map fun i => committedTile b a (pgSlotTiles b + i)))
    (s, [])

/-- Send a chunk of the own committed stream: kind 3 to another survivor, 5 to the replacement. -/
def sendStream (s : State) (n dev kind lost c : Nat) : State :=
  let (s, st) := streamTilesOf s n false
  let tp := max 1 (parTiles s n)
  let ts := (st.drop (c * tp)).take tp
  let s := (ts.zip (List.range ts.length)).foldl (fun s e =>
    let (s, b) := caddieTile s e.1.1
    sendTransfer s n dev kind lost e.2 (committedOf s n) false b) s
  sendTransfer s n dev kind lost 0 (committedOf s n) true []

/-- Every survivor has been heard: their chunks XORed with the committed parity are the lost member's chunk. -/
def answerRebuild (s : State) (n : Nat) : State :=
  match (caddie s n).gather with
  | none => s
  | some (lost, heard, sum) =>
    if heard.length + 2 < parN s n then s
    else
      let dev := parId s n lost
      let c := (parJ s n + parN s n - lost - 1) % parN s n
      let s := forEach (List.range (parTiles s n)) s fun s i =>
        let (s, p) := caddieTile s (parCopy s n (parCommitted s n).1 + (1 + i) * tileBytes)
        let g := KMap.get sum [] i
        sendTransfer s n dev 4 c i (committedOf s n) false (if g = [] then p else xorBytes p g)
      let s := sendTransfer s n dev 4 c 0 (committedOf s n) true []
      updCaddie s n fun x => { x with gather := none }

/-- A lost member's request at a survivor (R301). -/
def takeRequest (s : State) (n : Nat) (m : CaddieMsg) : State :=
  let lost := m.member.toNat
  let k := parN s n
  if !parityOn s n || lost == parJ s n || decide (k ≤ lost) then s
  else
    let s := updCaddie s n fun x => { x with gather := some (match x.gather with
      | some (l, h, t) => if l = lost then (l, h, t) else (lost, [], [])
      | none => (lost, [], [])) }
    let s := forEach ((List.range k).filter fun p => p != lost && p != parJ s n) s fun s p =>
      sendStream s n (parId s n p) 3 lost ((p + k - parJ s n - 1) % k)
    let s := sendStream s n (parId s n lost) 5 lost ((lost + k - parJ s n - 1) % k)
    answerRebuild s n

/-- Another survivor's chunk, tile by tile (R301 step 2); `chunk` names the lost member. -/
def takeSurvivor (s : State) (n : Nat) (m : CaddieMsg) (tile : Option (List Byte)) : State :=
  let lost := m.chunk.toNat
  let s := updCaddie s n fun x =>
    let (h, t) := match x.gather with
      | some (l, h, t) => if l = lost then (h, t) else ([], [])
      | none => ([], [])
    let t := match tile with
      | some b => KMap.upd t [] m.index.toNat fun o => if o = [] then b else xorBytes o b
      | none => t
    { x with gather := some (lost, if m.last then h ++ [m.member.toNat] else h, t) }
  answerRebuild s n

def rebuildLeft (s : State) (n : Nat) : Nat := caddieFld s n F.CADDIE_REBUILD_pending

/-- STK_REBUILD: the stack's rebuild-pending tiles. -/
def showRebuild (s : State) (k : Nat) : State :=
  let n := (s.trailers.filter fun e => e.2.state == .rebuilding && stackOf (e.1 * tileBytes) == k).length
  let s := s.setFld (Page.stk k) F.STK_REBUILD_pending n
  s.setFld (Page.stk k) F.STK_STATUS_rebuilding (if n = 0 then 0 else 1)

/-- A tile is rebuilt: one fewer to come. -/
def rebuilt (s : State) (n a fmt : Nat) (b : List Byte) : State :=
  let s := (writeTile s whoCaddie a b fmt).1
  let s := count s (Page.caddie n) 0x09 { master := some 4, priv := 30 }
  showRebuild (s.setFld (Page.caddie n) F.CADDIE_REBUILD_pending (rebuildLeft s n - 1)) (stackOf a)

/-- The round bitmap of an owned page from its committed halves. -/
def rebuildBitmap (s : State) (b : List Byte) (a : PageAt) : State :=
  writeBitmap s b ⟨a.curSlot, a.curSlot, 1 - a.cur⟩

/-- The ring header of a rebuilt page: slot 0 committed and current, the rest free. -/
def freshRing (b : List Byte) (step : Nat) : List Byte :=
  ringPut (wordBytes [0x51D70100 + (pgD b + 1) * 16, pgSlotTiles b] ++ List.replicate 4088 0#8) 0 step 3

/-- The rebuild is complete: a replacement's headers, parity header and committed step; the bitmaps in either case. -/
def finishRebuild (s : State) (n step : Nat) : State :=
  if (caddie s n).rebuilding then
    let s := forEach (caddie s n).pages s fun s e =>
      let b := e.2.desc
      if !pgOwned b then s
      else
        let s := (writeTile s whoCaddie (copyBase b 0) (copyHeader step 1 false false) 0).1
        let s := (writeTile s whoCaddie (pgNear b) (freshRing b step) 0).1
        rebuildBitmap s b ⟨0, 0, 0⟩
    let s := if s.pageRetired (Page.stk n) then s else (writeTile s whoCaddie (parCopy s n 0)
      (wordBytes [0x9A710101, step % 2 ^ 32, step / 2 ^ 32 % 2 ^ 16, 1] ++ List.replicate 4080 0#8) 0).1
    let s := s.setFld48 (Page.caddie n) F.CADDIE_COMMIT_STEP_LO_step F.CADDIE_COMMIT_STEP_HI_step step
    updCaddie s n fun x => { x with rebuilding := false, deltasFrom := [], whole := false }
  else
    forEach (caddie s n).pages s fun s e =>
      if pgOwned e.2.desc then match pageAt' s n e.2 with
        | (s, some a) => rebuildBitmap s e.2.desc a
        | (s, none) => s
      else s

/-- Does the rebuild end: every tile has come, and at a replacement every survivor's chunk for its parity? -/
def endRebuild (s : State) (n step : Nat) : State :=
  let x := caddie s n
  if rebuildLeft s n = 0 ∧ (!x.rebuilding || s.pageRetired (Page.stk n) || decide (parN s n ≤ x.deltasFrom.length + 1)) then finishRebuild s n step else s

/-- A rebuilt chunk's tile at the replacement, or for tiles rebuild-pending after a retirement. -/
def takeRebuilt (s : State) (n : Nat) (m : CaddieMsg) (tile : Option (List Byte)) : State :=
  match tile with
  | none => s
  | some b =>
    let x := caddie s n
    let (s, st) := streamTilesOf s n x.rebuilding
    match st[m.chunk.toNat * parTiles s n + m.index.toNat]? with
    | none => s
    | some (a, fmt) =>
      if rebuildLeft s n ≠ 0 ∧ (x.rebuilding || (trailerAt s a).state == .rebuilding) then
        endRebuild (rebuilt s n a fmt b) n m.step.toNat
      else s

/-- A survivor's own chunk, from which the replacement rebuilds its parity. -/
def takeOwnChunk (s : State) (n : Nat) (m : CaddieMsg) (tile : Option (List Byte)) : State :=
  if !(caddie s n).rebuilding || s.pageRetired (Page.stk n) then s
  else
    let s := match tile with
      | some b => xorInto s (parCopy s n 0 + (1 + m.index.toNat) * tileBytes) b
      | none => s
    if m.last then
      endRebuild (updCaddie s n fun x => { x with deltasFrom := x.deltasFrom ++ [m.member.toNat] }) n m.step.toNat
    else s

/-- Where a page's committed state lies; a page being rebuilt lies in slot 0 and copy 0. -/
def placeOf (s : State) (n : Nat) (p : CPage) : State × Option PageAt :=
  if (caddie s n).rebuilding then (s, some ⟨0, 0, 0⟩) else pageAt' s n p

/-- A replica's committed tile (kind 7), asked for by a request with chunk 7 (R302). -/
def takeReplica (s : State) (n : Nat) (m : CaddieMsg) (tile : Option (List Byte)) : State :=
  match tile, cpage s n (m.index.toNat / 65536) with
  | some b, some p =>
    match placeOf s n p with
    | (s, none) => s
    | (s, some at_) =>
      let (a, fmt) := committedTile p.desc at_ (m.index.toNat % 65536)
      if (trailerAt s a).state = .rebuilding then endRebuild (rebuilt s n a fmt b) n (committedOf s n) else s
  | _, _ => s

/-- A request for one committed tile: its answer. -/
def giveReplica (s : State) (n dev : Nat) (m : CaddieMsg) : State :=
  match cpage s n (m.index.toNat / 65536) with
  | none => s
  | some p =>
    match pageAt' s n p with
    | (s, none) => s
    | (s, some at_) =>
      let (s, b) := caddieTile s (committedTile p.desc at_ (m.index.toNat % 65536)).1
      sendTransfer s n dev 7 7 m.index.toNat (committedOf s n) false b

/-- A Caddie transfer as its Caddie takes it. A poisoned tile is met in device context and its step is not made ready. -/
def takeCaddie (s : State) (dev : Nat) (m : CaddieMsg) : Taken :=
  let n := m.stack.toNat
  match checkTiles m.tiles with
  | none => .resend s
  | some ts =>
    .yes <|
      if ts.any fun t => t.2.1 then
        noteDevice (updCaddie s n fun x => { x with blocked := true }) 0xF001 2 { page := Page.caddie n, court := none, detail := [0, 0, 5, 0] }
      else
        let tile := (ts.head?).map (·.1)
        match m.kind.toNat with
        | 0 => takeDelta s n m tile
        | 1 => takeHigh s n m tile
        | 2 => if m.chunk = 7#3 then giveReplica s n dev m else takeRequest s n m
        | 3 => takeSurvivor s n m tile
        | 4 => takeRebuilt s n m tile
        | 5 => takeOwnChunk s n m tile
        | 6 => takeDelta s n m tile
        | _ => takeReplica s n m tile

/-! ### A replacement's rebuild (R400) -/

/-- No owned page has a valid copy header. -/
def noCopies (s : State) (n : Nat) : Bool :=
  (caddie s n).pages.all fun e =>
    !pgOwned e.2.desc || [0, 1].all fun k => (copyHdrSeq (tileData s (copyBase e.2.desc k)).1).isNone

/-- Ask every other member for its chunks. -/
def askMembers (s : State) (n : Nat) : State :=
  forEach ((List.range (parN s n)).filter (· != parJ s n)) s fun s p =>
    sendTransfer s n (parId s n p) 2 0 0 (committedOf s n) true []

/-- PARITY_REBUILD: the conditions of R400 hold; the requests go out and no step is made ready until every tile came. -/
def execParityRebuild (stack : BitVec 5) (s : State) : Host.Outcome State Fault Refusal :=
  let n := stack.toNat
  let x := caddie s n
  if fabricUp s && parityOn s n && decide (parJ s n < parN s n) && (x.pages.any fun e => pgOwned e.2.desc)
      && noCopies s n && !x.rebuilding then
    effect s fun s =>
      let s := updCaddie s n fun x => { x with rebuilding := true, deltasFrom := [] }
      let s := s.setFld (Page.caddie n) F.CADDIE_REBUILD_pending (streamLength s n)
      let s := forEach (List.range (parTiles s n)) s fun s i =>
        (writeTile s whoCaddie (parCopy s n 0 + (1 + i) * tileBytes) (List.replicate tileBytes 0#8) 0).1
      askMembers s n
  else turnedAway s

/-! ### Tiles of a retired channel (R302) -/

/-- Where a state tile's rebuild comes from: a replica's device, buddy parity, or nowhere. -/
inductive RebuildSource where
  | replica (dev : Nat)
  | parity
  | nowhere
  deriving DecidableEq, Repr

/-- The first source that holds committed tile k of a page. -/
def sourceOf (s : State) (n : Nat) (b : List Byte) (k : Nat) : RebuildSource :=
  let stream := k < 2 * pgBlocks b ∨ (pgSlotTiles b ≤ k ∧ k - pgSlotTiles b < (if pgRule b = 1 then 10 else 6) * pgBlocks b)
  if !ownerMode s n then
    match replicasOf s (pgCourt b) with
    | d :: _ => .replica d
    | [] => if parityOn s n ∧ pgOwned b ∧ (stream ∨ k < pgSlotTiles b) then .parity else .nowhere
  else if !pgOwned b then .replica (bits (wordAt b 14) 31 16)
  else if parityOn s n ∧ (stream ∨ k < pgSlotTiles b) then .parity else .nowhere

/-- Committed tiles of a page: those of its slot, and where it has copies those of its copy. -/
def pageTileCount (s : State) (n : Nat) (b : List Byte) : Nat :=
  if receivesHigh s n b then pgSlotTiles b else pgSlotTiles b + (if pgRule b = 1 then 10 else 6) * pgBlocks b

/-- Mark a lost tile rebuild-pending. -/
def markPending (s : State) (n a : Nat) : State :=
  let s := s.setTrailer (a / tileBytes) { trailerAt s a with state := .rebuilding, poison := true }
  showRebuild (s.setFld (Page.caddie n) F.CADDIE_REBUILD_pending (rebuildLeft s n + 1)) (stackOf a)

/-- Where the pages' state lies, read before the channel's tiles are lost. -/
def pagePlaces (s : State) (n : Nat) : List (Nat × List Byte × PageAt) :=
  (caddie s n).pages.filterMap fun e => match (pageAt' s n e.2).2 with
    | some a => some (e.1, e.2.desc, a)
    | none => none

/-- Step 4 and 5 of Table 11.4 at the Caddie: its state tiles that were lost are rebuild-pending where a source holds
them, and asked for; the rest stay lost and state-lost is raised in the page's court. -/
def rebuildLost (s : State) (n : Nat) (places : List (Nat × List Byte × PageAt)) (gone : Nat → Bool) : State :=
  let (s, ask) := places.foldl (fun (acc : State × Bool) e =>
    let (x, b, at_) := e
    (List.range (pageTileCount acc.1 n b)).foldl (fun (acc : State × Bool) k =>
      let a := (committedTile b at_ k).1
      if !gone a then acc
      else match sourceOf acc.1 n b k with
        | .replica d => (sendTransfer (markPending acc.1 n a) n d 2 7 (x * 65536 + k) (committedOf acc.1 n) true [], acc.2)
        | .parity => if k < pgSlotTiles b ∧ 2 * pgBlocks b ≤ k then acc else (markPending acc.1 n a, true)
        | .nowhere => (caddieErr acc.1 n (some (pgCourt b)) x Err.caddie_state_lost, acc.2)) acc) (s, false)
  if ask then askMembers s n else s

end Sys2Proof.Machine
end

