-- ==== Sys2Proof/Machine/Counters.lean ====
section
/-! DEFINITION. Counter selections, freeze, snapshot and clear (17_scorecard_and_counters.md R419 to R424). -/

namespace Sys2Proof.Machine

/-- A write of PCNT_SELn that changes its value clears PCNTn (R419). -/
def setPcntSel (s : State) (page n v : Nat) : State :=
  let o := page + 0x100 + 4 * n
  let v := v - bits v 16 16 * 2 ^ 16
  if (s.reg o).toNat = v then s
  else (s.setReg o (BitVec.ofNat 32 v)).setReg64 (page + 0x140 + 8 * n) 0

def execPcntSelWrite (h : RegHdr) (page : BitVec 24) (n : BitVec 3) (v : W32) (s : State) :
    Host.Outcome State Fault Refusal :=
  let p := page.toNat / 0x1000 * 0x1000
  let off := p + 0x100 + 4 * n.toNat
  regCommand s h off fun s =>
    match pageAt p with
    | some (b, _) =>
      if b.hasCounters then (setPcntSel s p n.toNat v.toNat, RegStatus.ok)
      else (note s p Err.undefinedOffset, RegStatus.ok)
    | none => (s, RegStatus.unmapped)

/-- Does a page carry counters (PAGE_CAPS counts not both 0)? -/
def countedPage (page : Nat) : Bool :=
  match pageAt page with
  | some (b, _) => b.hasCounters || b.fixedCounters != 0
  | none => false

/-- Every page with counters, ascending. -/
def counterPages : List Nat := ((List.range 0x1000).map (· * 0x1000)).filter countedPage

/-- The pages of a court's bank: TU, ACC, VE, ST, RG and RE pages of its regions, ascending (R423). -/
def courtPages (s : State) (n : Nat) : List Nat :=
  let rs := s.regionsOf n
  let cs := rs.flatMap clustersOf
  cs.map Page.tu ++ cs.map Page.acc ++ cs.map Page.ve ++ cs.map Page.st ++ rs.map Page.rg ++ rs.map Page.re

/-- An entry of a snapshot bank, 128 bytes (R423). A page without a counter holds zeros there. -/
def bankEntry (s : State) (page : Nat) : List Byte :=
  let r (o : Nat) : Nat := (s.reg (page + o)).toNat
  let words (o n : Nat) : List Nat := (List.range n).map fun i => r (o + 4 * i)
  let (prog, fixed) := match pageAt page with
    | some (b, _) => (b.hasCounters, b.fixedCounters)
    | none => (false, 0)
  wordBytes ([page, r 0, 0, 0] ++ (if prog then words 0x140 16 else List.replicate 16 0)
    ++ ((List.range 4).map fun i => if i / 2 < fixed then r (0x180 + 4 * i) else 0)
    ++ (if prog then words 0x100 8 else List.replicate 8 0))

/-- Tiles a bank of n entries needs. -/
def bankTiles (n : Nat) : Nat := 1 + (n * 128 + tileBytes - 1) / tileBytes

/-- The 64-byte bank header with valid 1 (Table 17.7). -/
def bankHeader (s : State) (huddle entries owner : Nat) (valid : Bool) : List Byte :=
  wordBytes ([0x5A4B0100 + valid.toNat, s.fld Page.ctr F.CTR_SNAP_SEQ_seq, huddle % 2 ^ 32, huddle / 2 ^ 32, entries, owner, s.uptime]
    ++ List.replicate 9 0)

def ctrWho : Who := .device 1 3

/-- Write one bank: the header with valid 0 and the entries now; the header with valid 1 when the copy is done. -/
def writeBank (s : State) (huddle owner base : Nat) (pages : List Nat) : State × (Nat × List Byte) :=
  let es := pages.flatMap (bankEntry s)
  let (s, _) := writeSpan s ctrWho base (bankHeader s huddle pages.length owner false) 0
  let (s, _) := writeSpan s ctrWho (base + tileBytes) es 0
  (s, (base, bankHeader s huddle pages.length owner true))

/-- The banks of a snapshot: the device bank, then the permitted courts' (R423, R424). A bank too small is not written
and its bit is set. -/
def writeBanks (s : State) (huddle : Nat) : State × List (Nat × List Byte) :=
  let s := s.setFld Page.ctr F.CTR_STAT_dev_short 0
  let s := s.setFld Page.ctr F.CTR_STAT_bank_short 0
  let dev :=
    if s.fld Page.ctr F.CTR_BANK_DEV_tiles < bankTiles counterPages.length then
      (s.setFld Page.ctr F.CTR_STAT_dev_short 1, ([] : List (Nat × List Byte)))
    else
      let (s, b) := writeBank s huddle 0xF (s.fld48 Page.ctr F.CTR_BANK_DEV_base_lo F.CTR_BANK_DEV_base_hi) counterPages
      (s, [b])
  forEach (List.range 16) dev fun (s, bs) n =>
    let tiles := s.fld Page.ctr F.CTR_BANK_tiles n
    if s.fld (Page.court n) F.COURT_PERMIT_counter_read = 1 ∧ tiles ≠ 0 then
      let pages := courtPages s n
      if tiles < bankTiles pages.length then
        (s.setFld Page.ctr F.CTR_STAT_bank_short (s.fld Page.ctr F.CTR_STAT_bank_short ||| 2 ^ n), bs)
      else
        let (s, b) := writeBank s huddle n (s.fld48 Page.ctr F.CTR_BANK_base_lo F.CTR_BANK_base_hi n) pages
        (s, bs ++ [b])
    else (s, bs)

def ctrFreeze (s : State) (v : Nat) : State := s.setFld Page.ctr F.CTR_STAT_frozen v

/-- Start a snapshot (R422): freeze, count it, write the banks; `hold` says that it stays frozen. (DESIGN CHOICE, notes/assumptions/131.md) -/
def startSnap (s : State) (hold : Bool) (huddle : Nat) : State :=
  let was := s.fld Page.ctr F.CTR_STAT_frozen == 1
  let s := ctrFreeze s 1
  let s := s.setFld Page.ctr F.CTR_SNAP_SEQ_seq (s.fld Page.ctr F.CTR_SNAP_SEQ_seq + 1)
  let s := s.setFld Page.ctr F.CTR_STAT_copying 1
  let (s, bs) := writeBanks s huddle
  { s with snap := some ⟨hold || was, bs⟩ }

/-- Request a snapshot: it starts now, or after the one that is copying (R422). -/
def requestSnap (s : State) (hold : Bool) (huddle : Nat) : State :=
  match s.snap with
  | none => startSnap s hold huddle
  | some _ => { s with snapQueue := s.snapQueue ++ [(hold, huddle)] }

/-- Every PCNTn of every page to 0 (cmd 5); fixed counters stay. -/
def clearCounters (s : State) : State :=
  { s with regs := s.regs.filter fun e => !(countedPage e.1 && decide (0x140 ≤ e.1 % 0x1000) && decide (e.1 % 0x1000 < 0x180)) }

/-- The commands of CTR_CMD (R421); others are ignored with RANGE. -/
def ctrCmd (s : State) (cmd huddle : Nat) : State × Nat :=
  match cmd with
  | 1 => (ctrFreeze s 1, RegStatus.ok)
  | 2 => (ctrFreeze s 0, RegStatus.ok)
  | 3 => (requestSnap s false huddle, RegStatus.ok)
  | 4 => (requestSnap s true huddle, RegStatus.ok)
  | 5 => (clearCounters s, RegStatus.ok)
  | _ => (s, RegStatus.range)

/-- The write of CTR_CMD: go 0 does nothing. -/
def ctrCmdWrite (s : State) (v : Nat) : State × Nat :=
  if bit v 31 then ctrCmd s (bits v 18 16) s.lastHuddle else (s, RegStatus.ok)

def ctrCmdOff : Nat := Page.ctr + 0x40

def execCtrFreeze (h : RegHdr) (s : State) : Host.Outcome State Fault Refusal :=
  regCommand s h ctrCmdOff fun s => ctrCmd s 1 s.lastHuddle

def execCtrUnfreeze (h : RegHdr) (s : State) : Host.Outcome State Fault Refusal :=
  regCommand s h ctrCmdOff fun s => ctrCmd s 2 s.lastHuddle

def execCtrSnapshotReturn (h : RegHdr) (s : State) : Host.Outcome State Fault Refusal :=
  regCommand s h ctrCmdOff fun s => ctrCmd s 3 s.lastHuddle

def execCtrSnapshotHold (h : RegHdr) (s : State) : Host.Outcome State Fault Refusal :=
  regCommand s h ctrCmdOff fun s => ctrCmd s 4 s.lastHuddle

def execCtrClear (h : RegHdr) (s : State) : Host.Outcome State Fault Refusal :=
  regCommand s h ctrCmdOff fun s => ctrCmd s 5 s.lastHuddle

/-- The snapshot's banks are written: headers valid, copying cleared, the named freeze state, and the next request
starts (R422, R423). -/
def execSnapshotCopyDone (s : State) : Host.Outcome State Fault Refusal :=
  match s.snap with
  | none => turnedAway s
  | some x => effect s fun s =>
      let s := forEach x.banks s fun s b => (writeSpan s ctrWho b.1 b.2 0).1
      let s := { s with snap := none }
      let s := s.setFld Page.ctr F.CTR_STAT_copying 0
      let s := ctrFreeze s x.hold.toNat
      match s.snapQueue with
      | [] => s
      | (hold, n) :: rest => startSnap { s with snapQueue := rest } hold n

end Sys2Proof.Machine
end

