-- ==== Sys2Proof/Machine/Decide.lean ====
section
/-! DEFINITION. Huddle decisions: complete and fail, their messages, timeouts, and CTR_ARM
(13_fabric_and_collectives.md R321 to R325; 17_scorecard_and_counters.md R425; 19_firmware_and_trust.md R456). -/

namespace Sys2Proof.Machine

/-! ## Complete (R324) -/

/-- The actions armed at (g, h) (R324 step 1): a counter action, and an activation, which starts its drain, or is skipped
without holdup. -/
def fireArms (s : State) (id h : Nat) : State :=
  let s := if ctrArmedAt s id h then
      ctrDisarm (ctrCmd s (s.fld Page.ctr F.CTR_ARM_action) h).1 1
    else s
  if actArmedAt s id h then
    if s.fld Page.pkg F.PKG_HOLDUP_holdup_ok = 1 then
      { s with draining := true }.setFld Page.pkg F.PKG_ACT_ARM_armed 0
    else actDrop s 5
  else s

/-- commit(s) to a court's Caddies, and the court's last committed step (R324 step 2). (DESIGN CHOICE, notes/assumptions/85.md) -/
def commitCourt (s : State) (court step : Nat) : State :=
  let s := forEach (caddiesOf s court) s fun s n => commitSent s n step
  s.setFld48 (Page.court court) F.COURT_COMMIT_LO_step F.COURT_COMMIT_HI_step step

/-- The actions of a member at complete(h) (R324), the decision passed on, and the runs and Relay it triggers. -/
def decideComplete (s : State) (i h step : Nat) : State :=
  let g := group s i
  let role := relayRole s g.id h
  let s := fireArms s g.id h
  let s := recordDecision s i h step 1 0
  let s := if g.commit then commitCourt s g.court step else s
  let s := { s with lastHuddle := h, courtHuddle := KMap.set s.courtHuddle 0 g.court h }
  let s := forEach (List.range 32) s fun s r => if regionWaits s r g.id h then endHuddleWaits s r g.id h else s
  let s := startRuns s g.id h step
  match role with
  | some k => relayComplete s k step
  | none => s

/-! ## The package's arrival (R321) -/

/-- Members counted: this one and its children's subtrees. -/
def countedArrivals (g : HGroup) (n : HNum) : Nat :=
  1 + (g.children.map fun d => ((n.children.find? fun c => c.1 == d).map (·.2)).getD 0).sum

/-- A root whose arrival stands completes when its count is whole. -/
def rootCompletes (s : State) (i h : Nat) : State :=
  let g := group s i
  match findNum g h with
  | none => s
  | some n => if g.isRoot && n.arrived && countedArrivals g n == g.subtreeM1 + 1 then decideComplete s i h (numStep n) else s

/-- Can the package arrive at a number? -/
def canArrive (s : State) (i h : Nat) : Bool :=
  match findNum (group s i) h with
  | none => false
  | some n => isReady s && !s.fatal && !n.arrived && localArrived s (group s i) n && childrenArrived (group s i) n

/-- PACKAGE_ARRIVE. -/
def execPackageArrive (gid : BitVec 16) (num : BitVec 48) (s : State) : Host.Outcome State Fault Refusal :=
  match groupIndex s gid.toNat with
  | none => turnedAway s
  | some i =>
    if canArrive s i num.toNat then
      effect s fun s =>
        let s := updNum s i num.toNat fun n => { n with arrived := true }
        let g := group s i
        if g.isRoot then rootCompletes s i num.toNat
        else
          let st := ((findNum g num.toNat).map numStep).getD 0
          sendHuddle s g g.parent 0 0 num.toNat st (g.subtreeM1 + 1)
    else turnedAway s

/-! ## Messages (Table 13.6) -/

/-- A child's arrive: its count and step are noted. -/
def takeArrive (s : State) (i dev : Nat) (m : HuddleMsg) : State :=
  let h := m.number.toNat
  if numDecided (group s i) h then s
  else
    let s := updNum s i h fun n =>
      { n with
        children := (n.children.filter fun c => c.1 != dev) ++ [(dev, m.arrivals.toNat)]
        step := minStep n.step m.step.toNat }
    rootCompletes s i h

/-- A huddle message as HD takes it: a child's arrive or fail, the parent's decision; any other is discarded and counted. -/
def takeHuddle (s : State) (dev : Nat) (m : HuddleMsg) : State :=
  match groupIndex s m.group.toNat with
  | none => badMessage s
  | some i =>
    let g := group s i
    let h := m.number.toNat
    if (g.decided.any fun e => e.1 == h) then s
    else if m.kind = 0#2 ∧ g.children.contains dev then takeArrive s i dev m
    else if m.kind = 1#2 ∧ !g.isRoot ∧ g.parent = dev then decideComplete s i h m.step.toNat
    else if m.kind = 2#2 ∧ !g.isRoot ∧ g.parent = dev then decideFail s i h m.step.toNat m.cause.toNat
    else if m.kind = 2#2 ∧ g.children.contains dev then
      failNumber (if (findNum g h).isSome then s else updNum s i h id) i h m.cause.toNat
    else badMessage s

/-! ## Timeouts and orphans (R323, R325) -/

/-- HUDDLE_TIMEOUT: the group's timeout expires after the local arrival. -/
def execHuddleTimeout (gid : BitVec 16) (num : BitVec 48) (s : State) : Host.Outcome State Fault Refusal :=
  match groupIndex s gid.toNat with
  | none => turnedAway s
  | some i =>
    match findNum (group s i) num.toNat with
    | none => turnedAway s
    | some n =>
      if (group s i).timeoutMs ≠ 0 ∧ localArrived s (group s i) n ∧ !n.failedUp then
        effect s fun s => failNumber s i num.toNat 2
      else turnedAway s

/-- HUDDLE_ORPHAN: an arrived member has no decision within its timeout. -/
def execHuddleOrphan (gid : BitVec 16) (num : BitVec 48) (s : State) : Host.Outcome State Fault Refusal :=
  match groupIndex s gid.toNat with
  | none => turnedAway s
  | some i =>
    let g := group s i
    match findNum g num.toNat with
    | none => turnedAway s
    | some n =>
      if g.timeoutMs ≠ 0 ∧ !g.isRoot ∧ n.arrived ∧ !n.orphan then
        effect s fun s =>
          ceErr (updNum s i num.toNat fun n => { n with orphan := true }) Err.ce_huddle_orphan (some g.court) g.timeoutMs
      else turnedAway s

/-! ## CE_HUDDLE_CMD (R325) -/

def cmdNum (s : State) : Nat := s.fld48 Page.ce F.CE_HUDDLE_NUM_LO_number F.CE_HUDDLE_NUM_HI_number

/-- The write of CE_HUDDLE_CMD: complete or fail for an outstanding number; anything else is RANGE. -/
def huddleCmd (s : State) (v : Nat) : State × Nat :=
  if !bit v 31 then (s, RegStatus.ok)
  else
    let i := bits v 7 0
    let h := cmdNum s
    match findNum (group s i) h with
    | none => (s, RegStatus.range)
    | some n =>
      match bits v 30 29 with
      | 1 => (decideComplete s i h (numStep n), RegStatus.ok)
      | 2 => (decideFail s i h (numStep n) 1, RegStatus.ok)
      | _ => (s, RegStatus.range)

def execHuddleDeclareComplete (h : RegHdr) (index : BitVec 8) (s : State) : Host.Outcome State Fault Refusal :=
  regCommand s h (Page.ce + 0x6C) fun s => huddleCmd s (2 ^ 31 + 2 ^ 29 + index.toNat)

def execHuddleDeclareFail (h : RegHdr) (index : BitVec 8) (s : State) : Host.Outcome State Fault Refusal :=
  regCommand s h (Page.ce + 0x6C) fun s => huddleCmd s (2 ^ 31 + 2 * 2 ^ 29 + index.toNat)

/-! ## CTR_ARM (R425) -/

/-- The write of CTR_ARM: an action other than 1, 3 and 4, or a number the group has decided, is RANGE. -/
def ctrArmWrite (s : State) (v : Nat) : State × Nat :=
  if !bit v 31 then (s.setReg (Page.ctr + 0x90) (BitVec.ofNat 32 (v % 2 ^ 19 / 2 ^ 16 * 2 ^ 16 + v % 2 ^ 16)) |>.setFld Page.ctr F.CTR_STAT_armed 0, RegStatus.ok)
  else
    let a := bits v 18 16
    let late := match groupIndex s (bits v 15 0) with
      | some i => numDecided (group s i) (ctrArmNum s)
      | none => false
    if (a ≠ 1 ∧ a ≠ 3 ∧ a ≠ 4) ∨ late = true then (s, RegStatus.range)
    else
      let s := s.setReg (Page.ctr + 0x90) (BitVec.ofNat 32 (2 ^ 31 + a * 2 ^ 16 + bits v 15 0))
      ((s.setFld Page.ctr F.CTR_STAT_armed 1).setFld Page.ctr F.CTR_STAT_arm_outcome 0, RegStatus.ok)

def execCtrArm (h : RegHdr) (action : BitVec 3) (gid : BitVec 16) (s : State) : Host.Outcome State Fault Refusal :=
  regCommand s h (Page.ctr + 0x90) fun s => ctrArmWrite s (2 ^ 31 + action.toNat * 2 ^ 16 + gid.toNat)

end Sys2Proof.Machine
end

