-- ==== Sys2Proof/Machine/Engines.lean ====
section
/-! DEFINITION. What every engine takes from the fabric, and the commands of Chesy and the ports
(13_fabric_and_collectives.md R306 to R316, R498; 16_fault_containment.md R396, R404). -/

namespace Sys2Proof.Machine

/-! ## Pass-buffer entries and credit (R315) -/

/-- The Ethernet buffer of a flow with a device, consumed or produced here. -/
def remoteBuf (s : State) (dev fl : Nat) (consumer : Bool) : Option PassBuf :=
  s.pbufs.find? fun b =>
    b.desc.kind == 2 && b.desc.flow == fl && consumedHere s b.desc == consumer
      && (if consumer then b.desc.prodDevice else b.desc.consDevice) == dev

/-- An entry at the consumer: without credit discarded with credit-violation; a first check failure asks for it again, a
second poisons it (R227). -/
def takeEntry (s : State) (dev fl : Nat) (data : List Byte) (crc : BitVec 32) (resent : Bool) : Taken :=
  match remoteBuf s dev fl true with
  | none => .yes (noteIn s Page.chesy Err.chesy_credit_violation none)
  | some b =>
    if b.granted = 0 then .yes (noteIn s Page.chesy Err.chesy_credit_violation (s.courtOf b.desc.consRegion))
    else
      let ok := BitVec.ofNat 32 (crc32c data) == crc
      if !ok && !resent then .resend s
      else .yes (settle (storeGranted s b.desc ⟨data, !ok⟩) b.desc)

/-! ## Every engine -/

/-- Take a message of any type for its engine. -/
def engineTake (s : State) (w : WireHdr) (m : ChesyMsg) : Taken :=
  let dev := w.src.toNat
  let fl := w.flow.toNat
  match m with
  | .entry data crc resent => takeEntry s dev fl data crc resent
  | .huddle m => .yes (takeHuddle s dev m)
  | .coll m => takeColl s fl m
  | .caddie m => takeCaddie s dev m
  | .relay m => takeRelay s m

/-- A huddle message that would open a ninth number is not taken yet (R322). -/
def ninth (s : State) (m : HuddleMsg) : Bool :=
  match groupIndex s m.group.toNat with
  | some i => !numRoom (group s i) m.number.toNat && !numDecided (group s i) m.number.toNat
  | none => false

def huddleCommand (s : State) (w : WireHdr) (m : HuddleMsg) : Host.Outcome State Fault Refusal :=
  if ninth s m then turnedAway s else wireCmd s w (.huddle m) engineTake

def execHuddleArriveMsg (w : WireHdr) (gid : BitVec 16) (num step : BitVec 48) (arrivals : W32) (s : State) :
    Host.Outcome State Fault Refusal :=
  huddleCommand s w ⟨0#2, gid, num, step, 0#4, arrivals⟩

def execHuddleComplete (w : WireHdr) (gid : BitVec 16) (num step : BitVec 48) (s : State) :
    Host.Outcome State Fault Refusal :=
  wireCmd s w (.huddle ⟨1#2, gid, num, step, 0#4, 0#32⟩) engineTake

def execHuddleFail (w : WireHdr) (gid : BitVec 16) (num step : BitVec 48) (cause : BitVec 4) (s : State) :
    Host.Outcome State Fault Refusal :=
  huddleCommand s w ⟨2#2, gid, num, step, cause, 0#32⟩

def execCollectiveData (w : WireHdr) (m : CollMsg) (s : State) : Host.Outcome State Fault Refusal :=
  wireCmd s w (.coll m) engineTake

def execCaddieTransfer (w : WireHdr) (m : CaddieMsg) (s : State) : Host.Outcome State Fault Refusal :=
  wireCmd s w (.caddie m) engineTake

def execRelayTiles (w : WireHdr) (m : RelayMsg) (s : State) : Host.Outcome State Fault Refusal :=
  wireCmd s w (.relay m) engineTake

def execPassBufferEntry (w : WireHdr) (data : List Byte) (crc : BitVec 32) (resent : Bool) (s : State) :
    Host.Outcome State Fault Refusal :=
  wireCmd s w (.entry data crc resent) engineTake

/-! ## Flows that fail (R312) -/

/-- What a failed flow does to its users: huddles and runs fail, a Relay fails, a Caddie makes no step ready. -/
def flowUsers : FlowFail := fun s _ fl =>
  let low := fl % 2 ^ 28
  match fl / 2 ^ 28 with
  | 2 => match groupIndex s low with
    | some i => forEach (group s i).out s fun s n => failNumber s i n.number 3
    | none => s
  | 3 => forEach (s.runs.filter fun r => r.entry == low) s failRun
  | 4 => match groupIndex s low with
    | some i => if s.relay.running then
        failNumber (if (findNum (group s i) (relayNum s + 1)).isSome then s else updNum s i (relayNum s + 1) id)
          i (relayNum s + 1) 3
      else s
    | none => s
  | 5 => if (caddie s low).window.isSome then updCaddie s low fun x => { x with blocked := true } else s
  | _ => s

/-! ## Acknowledgements, NAK, credit (R311, R312, R315) -/

/-- The host acknowledges messages of a session's flow; on H, src_id is the session (R311, R319). -/
def sessionAck (s : State) (w : WireHdr) : State :=
  let x := s.session w.src.toNat
  let d := (w.ack.toNat + 2 ^ 32 - x.acked % 2 ^ 32) % 2 ^ 32
  if x.isOpen && x.flow == w.flow.toNat && decide (0 < d) && decide (d ≤ (s.sessionUnacked w.src.toNat).length) then
    s.setSession w.src.toNat { x with acked := x.acked + d, again := 0 }
  else s

/-- The flow of a session fails: flow-failed is raised and the session ends (R312, R343). -/
def sessionFail (s : State) (n : Nat) : State := (noteIn s Page.chesy Err.chesy_flow_failed none).setSession n .closed

/-- Send messages of a session again, the oldest unacknowledged one among them; past the retries its flow fails (R312). -/
def sessionResend (s : State) (n : Nat) (ms : List OutMsg) : State :=
  let x := s.session n
  if ms = [] then s
  else if s.fld Page.chesy F.CHESY_RTO_retries ≤ x.again then sessionFail s n
  else chesyCnt (forEach ms (s.setSession n { x with again := x.again + 1 }) fun s m => s.send { m with dest := .sessionAgain n }) 0x03

/-- A message of types 0x01 to 0x03 at H or SP: at H it is of a session's flow, and a NAK has all of it sent again that is
unacknowledged; SP's flows hold nothing (R311, R312, R498). (DESIGN CHOICE, notes/assumptions/140.md) -/
def sessionAckCmd (s : State) (w : WireHdr) (nak : Bool) : State :=
  if !w.intact || w.dst.toNat != deviceId s then badMessage s
  else if w.port == 18#5 then
    let s := sessionAck s w
    let x := s.session w.src.toNat
    if nak && x.isOpen && x.flow == w.flow.toNat then sessionResend s w.src.toNat (s.sessionUnacked w.src.toNat) else s
  else s

/-- A message of types 0x01 to 0x03; `body` follows its acknowledgement on a fabric port. -/
def ackCmd (s : State) (w : WireHdr) (nak : Bool) (body : State → State) : Host.Outcome State Fault Refusal :=
  if portTakes s w then
    effect s fun s =>
      let s := count s (Page.eth w.port.toNat) 0x02 { priv := 30, master := some 5 }
      if w.intact && w.src.toNat == deviceId s then duplicateId s w.port.toNat
      else if !w.intact || w.dst.toNat != deviceId s then badMessage s
      else body (applyAck (chesyCnt s 0x02) w.src.toNat w.flow.toNat w.ack.toNat w.sack.toNat w.ece)
  else if wrongPort s w then effect s fun s => sessionAckCmd s w nak
  else turnedAway s

def execAck (w : WireHdr) (s : State) : Host.Outcome State Fault Refusal := ackCmd s w false id

/-- A NAK: what remains unacknowledged from its ack on is sent again (R312). -/
def execNak (w : WireHdr) (s : State) : Host.Outcome State Fault Refusal :=
  ackCmd s w true fun s =>
    let dev := w.src.toNat
    let fl := w.flow.toNat
    forEach (flowOf s dev fl).unacked s fun s m =>
      if (flowOf s dev fl).failed then s else retransmit s dev fl w.resendSrc m flowUsers

/-- Credit for a producer here; the entries it allows go out. -/
def execCredit (w : WireHdr) (s : State) : Host.Outcome State Fault Refusal :=
  ackCmd s w false fun s =>
    match remoteBuf s w.src.toNat w.flow.toNat false with
    | some b => settle (setBuf s { b with credit := b.credit + w.credit.toNat }) b.desc
    | none => s

/-- ACK_TIMER: 2 µs after the first unacknowledged message. -/
def execAckTimer (dev : BitVec 16) (flow : W32) (s : State) : Host.Outcome State Fault Refusal :=
  if fabricUp s && decide (0 < (flowOf s dev.toNat flow.toNat).fresh) then
    effect s fun s => sendAck s dev.toNat flow.toNat 0x01 false false 0
  else turnedAway s

/-! ## Timers and windows (R312, R314) -/

/-- The retransmission timeout in µs. -/
def rto (s : State) (f : Flow) : Nat :=
  min 10000 (max (s.fld Page.chesy F.CHESY_RTO_min_us) (max (2 * f.srtt) (2 * f.timeout)))

/-- RETRANSMIT_TIMEOUT: the window falls to 16 KiB and the oldest message is sent again, or its flow fails. A flow of class 0 is a
session's, named by the session (R310, R319). -/
def execRetransmitTimeout (dev : BitVec 16) (flow : W32) (s : State) : Host.Outcome State Fault Refusal :=
  let d := dev.toNat
  let fl := flow.toNat
  match (flowOf s d fl).unacked with
  | [] =>
    let x := s.session d
    if fabricUp s && x.isOpen && x.flow == fl && s.sessionUnacked d != [] then
      effect s fun s => sessionResend s d ((s.sessionUnacked d).take 1)
    else turnedAway s
  | m :: _ =>
    if fabricUp s then
      effect s fun s =>
        let f := flowOf s d fl
        retransmit (setFlow s d fl { f with timeout := rto s f, cwnd := cwndMin }) d fl false m flowUsers
    else turnedAway s

/-- alpha × 15/16 + F/16 as a fraction in lowest terms, F = marked ÷ acked bytes. -/
def nextAlpha (a : Nat × Nat) (marked acked : Nat) : Nat × Nat :=
  let n := a.1 * 15 * acked + marked * a.2
  let d := 16 * a.2 * acked
  let g := max 1 (Nat.gcd n d)
  (n / g, d / g)

/-- CWND_UPDATE: once per round trip, with the round trip smoothed to `srtt` µs. -/
def execCwndUpdate (dev : BitVec 16) (flow : W32) (srtt : BitVec 16) (s : State) : Host.Outcome State Fault Refusal :=
  let d := dev.toNat
  let fl := flow.toNat
  let f := flowOf s d fl
  if f.acked = 0 then turnedAway s
  else effect s fun s =>
    let a := nextAlpha f.alpha f.marked f.acked
    let w := if f.marked ≠ 0 then max cwndMin (f.cwnd * (2 * a.2 - a.1) / (2 * a.2)) else min cwndMax (f.cwnd + 8320)
    let s := setFlow s d fl { f with alpha := a, cwnd := w, acked := 0, marked := 0, srtt := srtt.toNat, timeout := 0 }
    pump (f.waiting.length + 1) s d fl

/-- Every flow sends what it now may. -/
def pumpAll (s : State) : State :=
  forEach s.flows s fun s e => pump (e.2.waiting.length + 1) s (e.1 / 2 ^ 32) (e.1 % 2 ^ 32)

/-- Reopen the flow CHESY_FLOW_SEL names, sequences from 0; the entries of a pass buffer on it that have credit go out. -/
def reopenFlow (s : State) : State :=
  let fl := s.fld Page.chesy F.CHESY_FLOW_SEL_flow
  let s := forEach (s.flows.filter fun e => e.1 % 2 ^ 32 == fl) s fun s e =>
    openFlow (setFlow s (e.1 / 2 ^ 32) fl .init) (e.1 / 2 ^ 32) fl e.2.ports
  forEach (s.pbufs.filter fun b => b.desc.kind == 2 && b.desc.flow == fl && !consumedHere s b.desc) s fun s b => settle s b.desc

def chesyCmd (s : State) (v : Nat) : State × Nat := (if bit v 0 then reopenFlow s else s, RegStatus.ok)

def execChesyReopen (h : RegHdr) (s : State) : Host.Outcome State Fault Refusal :=
  regCommand s h (Page.chesy + 0x54) fun s => chesyCmd s 1

/-! ## Ports (R306 to R308, R396, R404) -/

/-- The page of port q: H for 0, Ep for 1 + p. -/
def portPage (q : Nat) : Nat := Page.h + q * 0x1000

def clearDup (s : State) (p v : Nat) : State × Nat :=
  (if bit v 0 then pumpAll (s.setFld (Page.eth p) F.ETH_STATUS_held 0) else s, RegStatus.ok)

def execClearDup (h : RegHdr) (p : BitVec 5) (s : State) : Host.Outcome State Fault Refusal :=
  regCommand s h (Page.eth p.toNat + 0x68) fun s => clearDup s p.toNat 1

def portMode (s : State) (q : Nat) : Nat := s.fld (portPage q) F.ETH_STATUS_mode

/-- A port's own address (R307; port H's is held whole). -/
def portAddr (s : State) (q : Nat) : Nat :=
  let w (i : Nat) : Nat := s.fld (portPage q) F.ETH_IP_BASE_base i
  if s.fld (portPage q) F.ETH_CTL_ipv6 = 1 then
    if q = 0 then w 0 * 2 ^ 96 + w 1 * 2 ^ 64 + w 2 * 2 ^ 32 + w 3
    else (w 0 * 2 ^ 32 + w 1) * 2 ^ 64 + deviceId s * 2 ^ 16 + (q - 1)
  else if q = 0 then w 0 else (w 0 + 32 * deviceId s + (q - 1)) % 2 ^ 32

/-- NEIGHBOUR_FRAME: a request for the port's own address is answered; any other is dropped and counted. A held port
answers too (R308). -/
def execNeighbourFrame (q : BitVec 5) (target : BitVec 128) (s : State) : Host.Outcome State Fault Refusal :=
  if q.toNat ≤ 18 ∧ portMode s q.toNat ≠ 0 then
    effect s fun s =>
      let pg := portPage q.toNat
      let s := count s pg 0x02 { priv := 30, master := some 5 }
      if target.toNat = portAddr s q.toNat then
        count (s.send ⟨.port q.toNat, 0x100, [(List.range 4).map fun i => target.toNat / 2 ^ (32 * i) % 2 ^ 32].flatten, []⟩)
          pg 0x01 { priv := 30, master := some 5 }
      else count (s.satFld pg F.ETH_DROPS_count 1) pg 0x03 { priv := 30, master := some 5 }
  else turnedAway s

/-- Does a port obey a pause: PAUSE where ETH_CTL.pause_rx enables it, priority flow control on the chosen priority? -/
def obeysPause (s : State) (q : Nat) (pfc : Bool) (prio : Nat) : Bool :=
  if pfc then s.fld (portPage q) F.ETH_VLAN_pfc_prio == prio else s.fld (portPage q) F.ETH_CTL_pause_rx == 1

/-- PFC_FRAME: a pause of some quanta, or the release with 0; it changes no window. (DESIGN CHOICE, notes/assumptions/96.md) -/
def execPfcFrame (q : BitVec 5) (pfc : Bool) (prio : BitVec 3) (quanta : BitVec 16) (s : State) :
    Host.Outcome State Fault Refusal :=
  let k := q.toNat
  if k ≤ 18 ∧ portMode s k ≠ 0 then
    effect s fun s =>
      let s := count s (portPage k) 0x02 { priv := 30, master := some 5 }
      if obeysPause s k pfc prio.toNat then
        let s := count s (portPage k) 0x04 { priv := 30, master := some 5 }
        pumpAll { s with paused := KMap.set s.paused false k (quanta != 0#16) }
      else s
  else turnedAway s

/-- Messages that were last sent on a port go again on the others of their sets (R307, R312). -/
def moveFlows (s : State) (q : Nat) : State :=
  if q = 0 then s
  else forEach s.flows s fun s e =>
    forEach (e.2.unacked.filter fun m => m.port == q - 1) s fun s m =>
      resendOne s (e.1 / 2 ^ 32) (e.1 % 2 ^ 32) m false

def setMode (s : State) (q v : Nat) : State := s.setFld (portPage q) F.ETH_STATUS_mode v

def laneOf (s : State) (q l : Nat) : Lane := KMap.get s.lanes .init (8 * q + l)

/-- The lanes in service of a port, as a mask. -/
def laneMask (s : State) (q : Nat) : Nat :=
  ((List.range 8).map fun l => if (laneOf s q l).out then 0 else 2 ^ l).sum

/-- The mode a port trains to on its lanes (R307). -/
def trainedMode (s : State) (q : Nat) : Nat :=
  let m := laneMask s q
  if m = 0xFF then 1
  else if s.fld (portPage q) F.ETH_CTL_fallback = 0 then 0
  else if m % 16 = 15 then 2 else if m / 16 = 15 then 3 else 0

/-- A port trains: its mode and its lanes in service. -/
def trainPort (s : State) (q : Nat) : State :=
  (setMode s q (trainedMode s q)).setFld (portPage q) F.ETH_STATUS_lanes (laneMask s q)

/-- A port loses link: it leaves every allowed set and its unacknowledged messages go on the others. -/
def linkDown (s : State) (q : Nat) : State :=
  let s := (setMode s q 0).setFld (portPage q) F.ETH_STATUS_lanes 0
  moveFlows (noteIn s (portPage q) Err.eth_link_down none) q

/-- SP loses link (19_firmware_and_trust.md Table 19.12). -/
def spDown (s : State) : State :=
  noteIn { s with board := { s.board with spDown := true } } Page.sp Err.sp_link_down none

/-- LINK_DOWN; 19 is SP. -/
def execLinkDown (q : BitVec 5) (s : State) : Host.Outcome State Fault Refusal :=
  if q.toNat ≤ 18 ∧ portMode s q.toNat ≠ 0 then effect s fun s => linkDown s q.toNat
  else if q = 19#5 ∧ !s.board.spDown then effect s spDown
  else turnedAway s

/-- LINK_UP: a port that was down has trained on its lanes; 19 is SP. -/
def execLinkUp (q : BitVec 5) (s : State) : Host.Outcome State Fault Refusal :=
  let k := q.toNat
  if k ≤ 18 ∧ portMode s k = 0 ∧ trainedMode s k ≠ 0 ∧ isReady s then effect s fun s => pumpAll (trainPort s k)
  else if k = 19 ∧ s.board.spDown then effect s fun s => { s with board := { s.board with spDown := false } }
  else turnedAway s

/-- Word index and bit of a lane in the repair map (Table 16.6). -/
def laneRec (q l : Nat) : Nat × Nat := (2320 + 2 + (8 * q + l) / 32, (8 * q + l) % 32)

/-- A lane leaves service: a failed probation doubles its hold-off, the third in a row marks it permanently out (R404). -/
def laneLeaves (s : State) (q l : Nat) : State :=
  let x := laneOf s q l
  let fails := if x.probation then x.failures + 1 else x.failures
  let x' : Lane :=
    { out := true, permanent := x.permanent || decide (3 ≤ fails), probation := false, failures := fails
      holdoff := if x.probation then min 3600 (2 * x.holdoff) else x.holdoff }
  let s := { s with lanes := KMap.set s.lanes .init (8 * q + l) x' }
  let s := if x'.permanent && !x.permanent then
      let (w, b) := laneRec q l
      writeRepair s [(w, repairWord s w ||| 2 ^ b)]
    else s
  let s := noteIn s (portPage q) Err.eth_lane_out none
  if portMode s q = 0 then s
  else
    let s := moveFlows (setMode s q 0) q
    let s := pumpAll (trainPort s q)
    if portMode s q = 0 then noteIn s (portPage q) Err.eth_link_down none else s

/-- Do the corrected symbols of a window exceed the lane's threshold: 1 × 10^−4, or 1 × 10^−5 on probation? -/
def laneBad (x : Lane) (corrected symbols : Nat) : Bool :=
  decide (symbols < corrected * (if x.probation then 100000 else 10000))

/-- LANE_FEC_WINDOW: the end of a 1 s window of a lane: symbols corrected and carried, codewords corrected and lost. -/
def execLaneFecWindow (q : BitVec 5) (lane : BitVec 3) (corrected symbols : BitVec 48) (codewords lost : W32) (s : State) :
    Host.Outcome State Fault Refusal :=
  let k := q.toNat
  let x := laneOf s k lane.toNat
  if k ≤ 18 ∧ portMode s k ≠ 0 ∧ !x.out then
    effect s fun s =>
      let pg := portPage k
      let s := s.setReg64 (pg + 0x70) ((s.reg64 (pg + 0x70) + codewords.toNat) % 2 ^ 64)
      let s := count s pg 0x06 { n := codewords.toNat, priv := 30, master := some 5 }
      let s := if lost = 0#32 then s else noteIn (s.satFld pg F.ETH_FEC_UNCORR_count lost.toNat) pg Err.eth_fec_uncorrectable none
      if laneBad x corrected.toNat symbols.toNat then laneLeaves s k lane.toNat else s
  else turnedAway s

/-- LANE_SIGNAL_LOSS. -/
def execLaneSignalLoss (q : BitVec 5) (lane : BitVec 3) (s : State) : Host.Outcome State Fault Refusal :=
  if q.toNat ≤ 18 ∧ !(laneOf s q.toNat lane.toNat).out then effect s fun s => laneLeaves s q.toNat lane.toNat
  else turnedAway s

/-- LANE_RETRY: after its hold-off a lane that is not permanently out rejoins its port on probation. -/
def execLaneRetry (q : BitVec 5) (lane : BitVec 3) (s : State) : Host.Outcome State Fault Refusal :=
  let k := q.toNat
  let x := laneOf s k lane.toNat
  if k ≤ 18 ∧ x.out ∧ !x.permanent then
    effect s fun s =>
      let s := { s with lanes := KMap.set s.lanes .init (8 * k + lane.toNat) { x with out := false, probation := true } }
      if portMode s k = 0 then s else pumpAll (trainPort s k)
  else turnedAway s

/-- LANE_PROBATION_END: 60 s without leaving; the count of failures starts again. -/
def execLaneProbationEnd (q : BitVec 5) (lane : BitVec 3) (s : State) : Host.Outcome State Fault Refusal :=
  let k := q.toNat
  let x := laneOf s k lane.toNat
  if k ≤ 18 ∧ x.probation then
    effect s fun s =>
      { s with lanes := KMap.set s.lanes .init (8 * k + lane.toNat) { x with probation := false, failures := 0, holdoff := 10 } }
  else turnedAway s

end Sys2Proof.Machine
end

