-- ==== Sys2Proof/Machine/Stacks.lean ====
section
/-! DEFINITION. Stacks: the range table, check failures, strikes, scrubbing, retirement of channels and stacks, relocation
and return (11_stacks_and_tiles.md R258, R263 to R270; 12_caddie.md R302, R303; 16_fault_containment.md R403, R405). -/

namespace Sys2Proof.Machine

/-! ## The range table (R263) -/

/-- The write of STK_RANGE_SEL loads the staging registers. -/
def rangeSelect (s : State) (n v : Nat) : State × Nat :=
  let p := Page.stk n
  let r := KMap.get (s.stack n).ranges .none (v % 64)
  let s := s.setFld p F.STK_RANGE_SEL_entry v
  let s := s.setFld p F.STK_RANGE_BASE_valid r.valid.toNat
  let s := s.setFld p F.STK_RANGE_BASE_tier r.deep.toNat
  let s := s.setFld p F.STK_RANGE_BASE_base_tile r.base
  let s := s.setFld p F.STK_RANGE_TILES_tiles r.tiles
  (s.setFld p F.STK_RANGE_TAG_tag r.tag.toNat, RegStatus.ok)

def execStkRangeSelect (h : RegHdr) (stack : BitVec 5) (v : W32) (s : State) : Host.Outcome State Fault Refusal :=
  regCommand s h (Page.stk stack.toNat + 0x50) fun s => rangeSelect s stack.toNat v.toNat

/-- The staging registers as an entry. -/
def stagedRange (s : State) (n : Nat) : Range :=
  let p := Page.stk n
  ⟨s.fld p F.STK_RANGE_BASE_valid == 1, s.fld p F.STK_RANGE_BASE_tier == 1, s.fld p F.STK_RANGE_BASE_base_tile,
    s.fld p F.STK_RANGE_TILES_tiles, BitVec.ofNat 12 (s.fld p F.STK_RANGE_TAG_tag)⟩

/-- Do two ranges share a tile? -/
def overlaps (a b : Range) : Bool :=
  a.valid && b.valid && a.deep == b.deep && decide (a.base < b.base + b.tiles) && decide (b.base < a.base + a.tiles)

/-- The write of STK_RANGE_CTL. (DESIGN CHOICE, notes/assumptions/101.md) -/
def rangeApply (s : State) (n v : Nat) : State × Nat :=
  if !bit v 0 then (s, RegStatus.ok)
  else
    let e := s.fld (Page.stk n) F.STK_RANGE_SEL_entry
    let r := stagedRange s n
    let others := (s.stack n).ranges.filter fun x => x.1 != e
    if r.valid && (decide (tierTiles r.deep < r.base + r.tiles) || others.any fun x => overlaps r x.2) then
      (stkNote s (Page.stk n) Err.stk_range_table none, RegStatus.denied)
    else (s.updStack n fun x => { x with ranges := KMap.set x.ranges .none e r }, RegStatus.ok)

def execStkRangeApply (h : RegHdr) (stack : BitVec 5) (s : State) : Host.Outcome State Fault Refusal :=
  regCommand s h (Page.stk stack.toNat + 0x60) fun s => rangeApply s stack.toNat 1

/-! ## Channels -/

/-- The channels of a tier as STK_STRIKES numbers them, its spare last. -/
def tierChannels (deep : Bool) : List Nat := if deep then (List.range 9).map (17 + ·) else List.range 17

/-- The indices of a tier. -/
def tierIndices (deep : Bool) : List Nat := if deep then (List.range 8).map (17 + ·) else List.range 16

def retiredMask (s : State) (n : Nat) (deep : Bool) : Nat :=
  if deep then s.fld (Page.stk n) F.STK_DEEP_RETIRED_retired else s.fld (Page.stk n) F.STK_NEAR_RETIRED_retired

/-- A channel's bit within its tier's mask. -/
def channelBit (ch : Nat) : Nat := if 17 ≤ ch then ch - 17 else ch

def channelGone (s : State) (n ch : Nat) : Bool := bit (retiredMask s n (decide (17 ≤ ch))) (channelBit ch)

/-- The channel that serves an index. -/
def serving (s : State) (n i : Nat) : Nat := KMap.get (s.stack n).serve i i

/-- The tier's channel that stands by: not retired and serving no index. (DESIGN CHOICE, notes/assumptions/99.md) -/
def standby (s : State) (n : Nat) (deep : Bool) : Option Nat :=
  (tierChannels deep).find? fun ch => !channelGone s n ch && !((tierIndices deep).any fun i => serving s n i == ch)

def setRetiredMask (s : State) (n : Nat) (deep : Bool) (m : Nat) : State :=
  if deep then s.setFld (Page.stk n) F.STK_DEEP_RETIRED_retired m else s.setFld (Page.stk n) F.STK_NEAR_RETIRED_retired m

/-- STK_SPARE_MAP and PAGE_STATUS show the index NS and DS serve. -/
def showSpares (s : State) (n : Nat) : State :=
  let p := Page.stk n
  let near := (tierIndices false).find? fun i => serving s n i == 16
  let deep := (tierIndices true).find? fun i => serving s n i == 25
  let s := s.setFld p F.STK_SPARE_MAP_near_used near.isSome.toNat
  let s := s.setFld p F.STK_SPARE_MAP_near_index (near.getD 0)
  let s := s.setFld p F.STK_SPARE_MAP_deep_used deep.isSome.toNat
  let s := s.setFld p F.STK_SPARE_MAP_deep_index (deep.getD 17 - 17)
  let s := s.setFld p F.STK_STATUS_near_spare_used near.isSome.toNat
  s.setFld p F.STK_STATUS_deep_spare_used deep.isSome.toNat

/-- The stack's words of the repair map (Table 16.6). -/
def saveStack (s : State) (n : Nat) : State :=
  let p := Page.stk n
  let k := stackRec n
  let w3 := repairWord s (k + 3)
  writeRepair s
    [(k, (s.reg (p + 0x40)).toNat), (k + 1, (s.reg (p + 0x44)).toNat), (k + 2, (s.reg (p + 0x48)).toNat),
      (k + 3, (w3 % 2 ^ 31) + (if s.pageRetired p then 2 ^ 31 else 0))]

/-! ## Relocation (R303) -/

/-- A page's descriptor with its areas elsewhere. -/
def movedDesc (b : List Byte) (near deep : Nat) : List Byte :=
  overlay b 16 (wordBytes [near % 2 ^ 32, near / 2 ^ 32, deep % 2 ^ 32, deep / 2 ^ 32])

/-- Tiles of a page's near and deep areas. -/
def nearTiles (b : List Byte) : Nat := 1 + (pgD b + 1) * pgSlotTiles b
def deepTiles (s : State) (n : Nat) (b : List Byte) : Nat := if receivesHigh s n b then 0 else 2 * pgCopyTiles b

/-- Enter a relocated page in the target's table at the first index beyond its pages. -/
def enterPage (s : State) (t : Nat) (b : List Byte) : State × Nat :=
  let x := ((caddie s t).pages.map fun e => e.1 + 1).foldl max 0
  let base := s.fld48 (Page.caddie t) F.CADDIE_PT_BASE_LO_base F.CADDIE_PT_BASE_HI_base
  let s := (writeSpan s whoCaddie (base + 64 * x) b 0).1
  let s := s.maxFld (Page.caddie t) F.CADDIE_PT_COUNT_entries (x + 1)
  (updCaddie s t fun c => { c with pages := c.pages ++ [(x, newPage b)] }, x)

/-- Move one page of a retired stack into the target's reserve, near and deep tiles from the reserve's offset on. -/
def relocatePage (n t : Nat) (acc : State × Nat × Nat) (e : Nat × CPage) : State × Nat × Nat :=
  let (s, near, deep) := acc
  let b := e.2.desc
  let room := caddieFld s t F.CADDIE_RELOC_TILES_tiles
  let off := offOf (s.fld48 (Page.caddie t) F.CADDIE_RELOC_BASE_LO_base F.CADDIE_RELOC_BASE_HI_base)
  if room < near + nearTiles b ∨ room < deep + deepTiles s n b then
    (dropPage (caddieErr s n (some (pgCourt b)) e.1 Err.caddie_state_lost) n e.1, near, deep)
  else
    let b' := movedDesc b (tierBase t false + off + near * tileBytes) (tierBase t true + off + deep * tileBytes)
    let (s, x) := enterPage s t b'
    let s := updPage s n e.1 fun p => { p with desc := b' }
    let s := updCaddie s n fun c => { c with moved := KMap.set c.moved 0 e.1 (x + 1) }
    (s, near + nearTiles b, deep + deepTiles s n b)

/-- The pages of a retired stack's Caddie move to the relocation Caddie and are rebuilt there; without CADDIE_RELOC or a
source they are lost. (DESIGN CHOICE, notes/assumptions/84.md) -/
def relocate (s : State) (n : Nat) : State :=
  let t := caddieFld s n F.CADDIE_RELOC_target
  let pages := (caddie s n).pages
  if pages = [] then s
  else if caddieFld s n F.CADDIE_RELOC_valid = 0 ∨ t = n ∨ s.pageRetired (Page.stk t) then
    let s := forEach pages s fun s e => caddieErr s n (some (pgCourt e.2.desc)) e.1 Err.caddie_state_lost
    updCaddie s n fun x => { x with pages := [] }
  else
    let (s, _, _) := pages.foldl (relocatePage n t) (s, 0, 0)
    let s := s.setFld (Page.caddie t) F.CADDIE_STATUS_relocated 1
    let s := updCaddie s n fun x => { x with rebuilding := true, deltasFrom := [] }
    rebuildLost s n ((caddie s n).pages.map fun e => (e.1, e.2.desc, ⟨0, 0, 0⟩)) fun _ => true

/-! ## Retirement (R265 to R268) -/

/-- The whole stack retires: its pages read retired, its tiles are gone, its Caddie's pages move. -/
def retireStack (s : State) (n : Nat) : State :=
  let s := if (caddie s n).window.isSome then
      reportFailure (caddieErr s n none 0 Err.caddie_window_broken) n else s
  let s := s.setPageMode (Page.stk n) 5
  let s := s.setPageMode (Page.caddie n) 5
  let s := stkNote s (Page.stk n) Err.stk_stack_retired none
  let s := loseTiles s fun a => stackOf a == n
  relocate (saveStack s n) n

/-- A channel retires (R266, R268): the channel standing by takes its index, whose tiles are lost but for those the Caddie
rebuilds; without one, or where it is itself the one standing by, the stack retires. -/
def retireChannel (s : State) (n ch : Nat) : State :=
  let deep := decide (17 ≤ ch)
  let by_ := standby s n deep
  let s := setRetiredMask s n deep (retiredMask s n deep ||| 2 ^ channelBit ch)
  match by_, (tierIndices deep).find? fun i => serving s n i == ch with
  | some k, some i =>
    if k = ch then retireStack s n
    else
      let places := pagePlaces s n
      let gone (a : Nat) : Bool := stackOf a == n && deepOf a == deep && channelOf a == i
      let s := s.updStack n fun x =>
        { x with serve := KMap.set x.serve i i k, strikes := KMap.set x.strikes 0 ch 0, probation := KMap.set x.probation false ch false }
      let s := loseTiles (showSpares s n) gone
      let s := saveStack (stkNote s (Page.stk n) Err.stk_channel_retired none) n
      let s := if (caddie s n).window.isSome then
          reportFailure (caddieErr s n none 0 Err.caddie_window_broken) n else s
      rebuildLost s n places gone
  | _, _ => retireStack s n

/-- STK_STRIKES: the strikes in the window, the channel with the most and its count; the lowest where several have it. -/
def showStrikes (s : State) (n : Nat) : State :=
  let m := (s.stack n).strikes
  let worst := m.foldl (fun (acc : Nat × Nat) e => if acc.2 < e.2 then e else acc) (0, 0)
  let p := Page.stk n
  let s := s.setFld p F.STK_STRIKES_total (min (m.map (·.2)).sum 0xFFFF)
  let s := s.setFld p F.STK_STRIKES_worst_channel worst.1
  s.setFld p F.STK_STRIKES_worst_count (min worst.2 0xFF)

/-- A strike on a channel: on probation one retires it, else the limit does (R265, R403). -/
def strike (s : State) (n ch : Nat) : State :=
  let s := showStrikes (s.updStack n fun x => { x with strikes := KMap.upd x.strikes 0 ch (· + 1) }) n
  let x := s.stack n
  let limit := s.fld (Page.stk n) F.STK_RETIRE_CTL_strike_limit
  if KMap.get x.probation false 26 then retireStack s n
  else if KMap.get x.probation false ch || (limit != 0 && decide (limit ≤ KMap.get x.strikes 0 ch)) then
    showStrikes (retireChannel s n ch) n
  else s

/-- STRIKE_WINDOW_EXPIRY: a strike leaves the rolling window. -/
def execStrikeWindowExpiry (stack : BitVec 5) (channel : BitVec 5) (s : State) : Host.Outcome State Fault Refusal :=
  let n := stack.toNat
  let ch := channel.toNat
  if KMap.get (s.stack n).strikes 0 ch = 0 then turnedAway s
  else effect s fun s => showStrikes (s.updStack n fun x => { x with strikes := KMap.upd x.strikes 0 ch (· - 1) }) n

/-- The channel a command names: an index within its tier, 16 the spare; none where it does not exist or is retired. -/
def namedChannel (s : State) (n : Nat) (deep : Bool) (c : Nat) : Option Nat :=
  let ch := if deep then (if c = 16 then 25 else 17 + c) else c
  if (tierChannels deep).contains ch && !channelGone s n ch && (!deep || decide (c < 8) || c == 16) then some ch else none

/-- The write of STK_RETIRE_CMD. -/
def retireCmd (s : State) (n v : Nat) : State × Nat :=
  if !bit v 31 then (s, RegStatus.ok)
  else match namedChannel s n (bit v 8) (bits v 4 0) with
    | some ch => (retireChannel s n ch, RegStatus.ok)
    | none => (s, RegStatus.range)

def execStkRetireCmd (h : RegHdr) (stack : BitVec 5) (deep : Bool) (channel : BitVec 5) (s : State) :
    Host.Outcome State Fault Refusal :=
  regCommand s h (Page.stk stack.toNat + 0x84) fun s =>
    retireCmd s stack.toNat (2 ^ 31 + deep.toNat * 2 ^ 8 + channel.toNat)

/-- CHANNEL_RETIRE: a channel's PHY or training fails; 16 names the spare. -/
def execChannelRetire (stack : BitVec 5) (deep : Bool) (channel : BitVec 5) (s : State) :
    Host.Outcome State Fault Refusal :=
  let n := stack.toNat
  if s.pageRetired (Page.stk n) then turnedAway s
  else match namedChannel s n deep channel.toNat with
    | some ch => effect s fun s => retireChannel s n ch
    | none => turnedAway s

/-! ## Check failures and scrubbing (R258, R264) -/

/-- Set poison in a stored trailer; the generation stays. -/
def poisonStored (s : State) (a : Nat) : State := s.setTrailer (a / tileBytes) { trailerAt s a with poison := true }

/-- How the second copy of a tile that failed its check came out (Table 11.3 steps 3 and 4). -/
def retryOutcome (s : State) (w : Who) (a : Nat) (outcome : Nat) : State :=
  let n := stackOf a
  let p := Page.stk n
  let gen := (trailerAt s a).gen.toNat
  match outcome with
  | 0 => lastFail s w a 1 gen
  | 1 => strike (poisonStored (lastFail s w a 2 gen) a) n (servingChannel s a)
  | _ =>
    let s := { s with pathBad := KMap.set s.pathBad false (a / tileBytes) true }
    stkNote (lastFail s w a 3 gen) p Err.stk_path_fault none

/-- TILE_RETRY: a read of a tile failed its check, and its data is held back; its second copy passed (0), its stored tile is
bad (1), or the path is (2). The read that waits, which is the command that follows, then takes the tile, poisoned in the
last two cases, and does step 5. (DEDUCED, notes/assumptions/100.md) -/
def execTileRetry (a : Addr48) (court : Option (BitVec 4)) (reader master : BitVec 3) (outcome : BitVec 2) (s : State) :
    Host.Outcome State Fault Refusal :=
  let w : Who := ⟨court.map BitVec.toNat, reader.toNat, master.toNat⟩
  let t := a.toNat / tileBytes * tileBytes
  if (admits s w t).isSome || (trailerAt s t).state != .written then turnedAway s
  else effect s fun s =>
    let p := Page.stk (stackOf t)
    let s := count (stkNote s p Err.stk_check_retry w.court) p 0x08 (tileCnt w t false)
    retryOutcome s w t outcome.toNat

/-- Address of the tile a scrub pass reads next: the near tier's, then the deep tier's. -/
def scrubAddr (n k : Nat) : Nat :=
  if k < tierTiles false then tierBase n false + k * tileBytes else tierBase n true + (k - tierTiles false) * tileBytes

/-- A full pass ends: counted, and the probation of what served through it ends (R403). -/
def scrubPassEnd (s : State) (n : Nat) : State :=
  let p := Page.stk n
  let s := s.setFld p F.STK_SCRUB_STAT_passes ((s.fld p F.STK_SCRUB_STAT_passes + 1) % 2 ^ 32)
  let s := if s.pageMode p = 4 then (s.setPageMode p 0).setPageMode (Page.caddie n) 0 else s
  (s.updStack n fun x => { x with scrubNext := 0, probation := [] }).setFld p F.STK_STATUS_scrub_active 0

/-- SCRUB_TILE: the next tile of the pass is read and checked; `bad` says it failed twice, `changed` that its generation
moved meanwhile. -/
def execScrubTile (stack : BitVec 5) (bad changed : Bool) (s : State) : Host.Outcome State Fault Refusal :=
  let n := stack.toNat
  let p := Page.stk n
  if s.fld p F.STK_SCRUB_CTL_enable = 0 ∨ s.pageRetired p then turnedAway s
  else effect s fun s =>
    let k := (s.stack n).scrubNext
    let a := scrubAddr n k
    let w : Who := .device 7 6
    let s := count s p 0x0C (tileCnt w a false)
    let s := s.setFld p F.STK_STATUS_scrub_active 1
    let s := s.updStack n fun x => { x with scrubNext := k + 1 }
    let s := if bad && !changed && (trailerAt s a).state == .written && !(trailerAt s a).poison then
        let s := poisonStored (lastFail s w a 4 (trailerAt s a).gen.toNat) a
        let s := count (stkNote s p Err.stk_scrub_poison none) p 0x09 (tileCnt w a false)
        strike s n (servingChannel s a)
      else s
    if k + 1 = tierTiles false + tierTiles true then scrubPassEnd s n else s

/-! ## Return (R270) -/

/-- The write of PKG_RETURN: the named channel or stack is marked return-pending in the repair map. -/
def pkgReturn (s : State) (v : Nat) : State × Nat :=
  let n := bits v 20 16
  let c := bits v 4 0
  let k := stackRec n
  let gone := s.pageRetired (Page.stk n)
  if !bit v 31 then (s, RegStatus.ok)
  else match bits v 25 24 with
  | 2 => if gone then (writeRepair s [(k + 3, repairWord s (k + 3) ||| 2 ^ 29)], RegStatus.ok) else (s, RegStatus.range)
  | 0 => if !gone && decide (c ≤ 16) && bit (retiredMask s n false) c then
      (writeRepair s [(k + 6, repairWord s (k + 6) ||| 2 ^ c)], RegStatus.ok) else (s, RegStatus.range)
  | 1 =>
    let b := if c = 16 then 8 else c
    if !gone && (decide (c < 8) || c == 16) && bit (retiredMask s n true) b then
      (writeRepair s [(k + 7, repairWord s (k + 7) ||| 2 ^ b)], RegStatus.ok) else (s, RegStatus.range)
  | _ => (s, RegStatus.range)

def execPkgReturn (h : RegHdr) (kind : BitVec 2) (stack channel : BitVec 5) (s : State) : Host.Outcome State Fault Refusal :=
  regCommand s h (Page.pkg + 0x74) fun s =>
    pkgReturn s (2 ^ 31 + kind.toNat * 2 ^ 24 + stack.toNat * 2 ^ 16 + channel.toNat)

end Sys2Proof.Machine
end

