-- ==== Sys2Proof/Machine/Umpire.lean ====
section
/-! DEFINITION. The Umpires: votes, strikes, full shadow, localisation and substitutes, retirement and takeover, probation,
engine rows, and permanent faults (16_fault_containment.md R387 to R395, R402; 04_tensor_units.md R103 to R106). -/

namespace Sys2Proof.Machine

def umpOf (s : State) (r : Nat) : Ump := KMap.get s.umps .init r
def setUmp (s : State) (r : Nat) (u : Ump) : State := { s with umps := KMap.set s.umps .init r u }
def updUmp (s : State) (r : Nat) (f : Ump → Ump) : State := setUmp s r (f (umpOf s r))

/-- The error of a region's Umpire with the action of its severity, counted (Table 16.9 selector 0x08). -/
def umpErr (s : State) (r bit : Nat) : State :=
  count (raise s (Page.ump r) bit) (Page.ump r) 0x08 { court := s.courtOf r }

/-! ## Clusters of a region -/

/-- The physical clusters that serve logical ones. -/
def workingOf (s : State) (r : Nat) : List Nat := (List.range 16).filterMap (s.physOf r)

/-- The region's spare in standby: index 16, or a cluster that passed probation (R392, R402). -/
def spareOf (s : State) (r : Nat) : Option Nat :=
  (List.range 17).reverse.find? fun p => s.pageMode (Page.tu (clusterOf r p)) == 6

/-- Is any unit of a cluster, or the cluster, in full shadow? -/
def inShadow (u : Ump) (p : Nat) : Bool :=
  u.shadow.any fun i => i == 68 + p || (decide (i < 68) && i / 4 == p)

/-- PAGE_STATUS of a UMP page: shadowing, spare in use, working clusters (Table 16.7a). -/
def showUmp (s : State) (r : Nat) : State :=
  let p := Page.ump r
  let s := s.setFld p F.UMP_STATUS_shadowing (decide ((umpOf s r).shadow ≠ [])).toNat
  let s := s.setFld p F.UMP_STATUS_spare_used ((workingOf s r).contains 16).toNat
  s.setFld p F.UMP_STATUS_working (workingOf s r).length

/-- The state field of a unit's state byte (Table 4.8): 0 in service, 1 probation, 2 retired. -/
def unitState (s : State) (r p u : Nat) : Nat := bits (s.reg (Page.tu (clusterOf r p) + 0x48)).toNat (8 * u + 7) (8 * u + 6)

/-- Put bits of a unit's state byte. -/
def setUnitByte (s : State) (r p u hi lo v : Nat) : State :=
  let o := Page.tu (clusterOf r p) + 0x48
  let x := (s.reg o).toNat
  s.setReg o (BitVec.ofNat 32 (x - bits x (8 * u + hi) (8 * u + lo) * 2 ^ (8 * u + lo) + v * 2 ^ (8 * u + lo)))

/-- TU_STATUS.units_in_service: the units of a cluster not retired. -/
def showUnits (s : State) (r p : Nat) : State :=
  s.setFld (Page.tu (clusterOf r p)) F.TU_STATUS_units_in_service
    ((List.range 4).filter fun u => unitState s r p u != 2).length

/-- Substitute rows of a unit in use. -/
def subsUsed (s : State) (r p u : Nat) : Nat :=
  s.fld (Page.tu (clusterOf r p)) F.TU_SUBST_MAP_sub0_used u + s.fld (Page.tu (clusterOf r p)) F.TU_SUBST_MAP_sub1_used u

/-- The record of a region in the repair map from the registers that mirror it (Table 16.6), in a new version. -/
def saveRegion (s : State) (r : Nat) : State :=
  let k := regionRec r
  let p := Page.ump r
  let unitBits (v : Nat) : Nat := (List.range 68).foldl (fun acc i => acc + (if unitState s r (i / 4) (i % 4) = v then 2 ^ i else 0)) 0
  let tail := unitBits 2 + unitBits 1 * 2 ^ 72
  let subst (i : Nat) : Nat := (s.reg (Page.tu (clusterOf r (i / 4)) + 0x50 + 4 * (i % 4))).toNat % 2 ^ 16
  writeRepair s
    ([(k, (s.pageRetired (Page.rg r)).toNat * 2 ^ 31 + ((workingOf s r).contains 16).toNat * 2 ^ 30
        + (workingOf s r).length * 2 ^ 16),
      (k + 1, s.fld p F.UMP_RETIRED_clusters),
      (k + 6, s.fld p F.UMP_RE_ROWS_LO_rows), (k + 7, s.fld p F.UMP_RE_ROWS_HI_rows)]
    ++ ((List.range 4).map fun i => (k + 2 + i, s.fld p F.UMP_LMAP_map i))
    ++ ((List.range 34).map fun i => (k + 8 + i, subst (2 * i) + subst (2 * i + 1) * 2 ^ 16))
    ++ ((List.range 5).map fun i => (k + 42 + i, tail / 2 ^ (32 * i) % 2 ^ 32)))

/-- The four pages of a cluster. -/
def clusterPages (c : Nat) : List Nat := [Page.tu c, Page.acc c, Page.ve c, Page.st c]

def setClusterMode (s : State) (c m : Nat) : State := forEach (clusterPages c) s fun s p => s.setPageMode p m

/-! ## Retirement of a region (R394) -/

/-- The region's pages read retired, and the court holding it receives region-retired. The UMP page stays. (DESIGN CHOICE, notes/assumptions/114.md) -/
def retireRegion (s : State) (r : Nat) : State :=
  if s.pageRetired (Page.rg r) then s
  else
    let s := (s.setPageMode (Page.rg r) 5).setPageMode (Page.re r) 5
    let s := forEach (clustersOf r) s fun s c => setClusterMode s c 5
    let s := updUmp s r fun u => { u with retiring := [], shadow := [], subs := [] }
    umpErr (showUmp (saveRegion s r) r) r Err.ump_region_retired

/-! ## Strikes and full shadow (R389) -/

/-- A cluster is to retire: full shadow until its takeover (R392). -/
def decideRetire (s : State) (r p : Nat) : State :=
  if bit (s.fld (Page.ump r) F.UMP_RETIRED_clusters) p || (umpOf s r).retiring.contains p then s
  else showUmp (updUmp s r fun u =>
    { u with
      retiring := u.retiring ++ [p]
      shadow := if u.shadow.contains (68 + p) then u.shadow else u.shadow ++ [68 + p] }) r

/-- A strike on a unit or cluster; the third live one starts full shadow, and retires a cluster struck as such (Table
16.3). -/
def strikeUmp (s : State) (r i : Nat) : State :=
  let n := KMap.get (umpOf s r).live 0 i + 1
  let s := updUmp s r fun u => { u with live := KMap.set u.live 0 i n }
  let s := umpErr (s.satFld (Page.ump r) F.UMP_STRIKES_total 1) r Err.ump_vote_lost
  if 3 ≤ n ∧ !(umpOf s r).shadow.contains i then
    let s := showUmp (updUmp s r fun u => { u with shadow := u.shadow ++ [i] }) r
    let s := umpErr s r Err.ump_full_shadow
    if 68 ≤ i then decideRetire s r (i - 68) else s
  else s

/-! ## Engine rows (R387) -/

def engineKey : EngineUnit → Nat
  | .root r => r.toNat
  | .caddie n => 32 + n.toNat
  | .solver => 64

def enginePage : EngineUnit → Nat
  | .root r => Page.re r.toNat
  | .caddie n => Page.caddie n.toNat
  | .solver => Page.se

/-- The repair map's word of an engine's retired rows 0 to 31; the next one holds rows 32 to 63. -/
def engineWord : EngineUnit → Nat
  | .root r => regionRec r.toNat + 6
  | .caddie n => stackRec n.toNat + 4
  | .solver => 2320

def engineRows (s : State) (e : EngineUnit) : Nat :=
  repairWord s (engineWord e) + repairWord s (engineWord e + 1) * 2 ^ 32

/-- The solver retires: its page reads retired and its jobs end as on a deadline miss. -/
def retireSolver (s : State) : State :=
  let s := s.setPageMode Page.se 5
  forEach (List.range 64) s fun s _ => endJob s 0 1 0x0B

/-- An engine retires as a whole. -/
def retireEngine (s : State) : EngineUnit → State
  | .root r => retireRegion s r.toNat
  | .caddie n => retireStack s n.toNat
  | .solver => retireSolver s

/-- A row of an engine's array retires; the ninth retires the engine. -/
def retireRow (s : State) (e : EngineUnit) (row : Nat) : State :=
  let rows := engineRows s e ||| 2 ^ row
  let s := match e with
    | .root r => (s.setFld (Page.ump r.toNat) F.UMP_RE_ROWS_LO_rows rows).setFld (Page.ump r.toNat) F.UMP_RE_ROWS_HI_rows
        (rows / 2 ^ 32)
    | _ => s
  let s := writeRepair s [(engineWord e, rows % 2 ^ 32), (engineWord e + 1, rows / 2 ^ 32)]
  let s := { s with rowStrikes := KMap.set s.rowStrikes 0 (64 * engineKey e + row) 0 }
  let s := noteDevice s 0xF002 2 { page := enginePage e, court := pageCourt s (enginePage e) }
  if 9 ≤ (maskBits 64 rows).length then retireEngine s e else s

/-- The row that lost a recomputation takes a strike; the third live one retires it. (DESIGN CHOICE, notes/assumptions/116.md) -/
def strikeRow (s : State) (e : EngineUnit) (row : Nat) : State :=
  let k := 64 * engineKey e + row
  let n := KMap.get s.rowStrikes 0 k + 1
  if 3 ≤ n then retireRow s e row else { s with rowStrikes := KMap.set s.rowStrikes 0 k n }

/-! ## Votes (R388, R391) -/

/-- The cluster of a re-execution: the spare in standby, else the next working cluster after `p` in physical order that is
not in full shadow; never one of `skip`. (DEDUCED, notes/assumptions/111.md) -/
def pickRerun (s : State) (r p : Nat) (skip : List Nat) : Option Nat :=
  match (spareOf s r).filter fun q => !skip.contains q with
  | some q => some q
  | none => ((List.range 16).map fun k => (p + 1 + k) % 17).find? fun q =>
      (workingOf s r).contains q && !skip.contains q && !inShadow (umpOf s r) q

/-- How a vote ends (R388): 1 the original stood, 2 the rerun won, 3 undecided; who takes the strike (0 none, 1 the origin,
2 x); whether a third run was made. -/
def voteOutcome (same ok0 ok1 : Bool) (third : Nat) (x y : Bool) : Nat × Nat × Bool :=
  if !x then (3, 0, false)
  else if same then (1, if ok0 then 0 else 1, false)
  else if ok0 && !ok1 then (1, 2, false)
  else if ok1 && !ok0 then (2, 1, false)
  else if !y then (3, 0, false)
  else if third = 1 then (2, 1, true)
  else if third = 2 then (1, 2, true)
  else (3, 0, true)

/-- The capture of a sampled mismatch (Table 16.2). -/
def voteCapture (s : State) (o : VoteOp) : List Byte :=
  let r := o.region.toNat
  let b := (unitOf (s.cluster (clusterOf r o.origin.toNat)) o.unit.toNat).active
  let c := o.capture
  (c.feed.take 128 ++ List.replicate (128 - c.feed.length) 0#8)
    ++ leBytes 6 b.load.addr ++ leBytes 2 b.fmt
    ++ leBytes 6 c.step.toNat ++ leBytes 2 ((s.courtOf r).getD 0)
    ++ [BitVec.ofNat 8 (r / 8), BitVec.ofNat 8 (r % 8), BitVec.ofNat 8 o.origin.toNat, BitVec.ofNat 8 o.unit.toNat]
    ++ leBytes 4 o.addr.toNat ++ leBytes 2 c.column.toNat ++ leBytes 1 o.tile.toNat ++ leBytes 1 c.row.toNat
    ++ leBytes 5 c.original.toNat ++ leBytes 5 c.winning.toNat ++ leBytes 2 c.differing.toNat ++ List.replicate 24 0#8

/-- The index a strike on a cluster falls on: the unit for TU paths, the cluster otherwise. -/
def strikeIndex (o : VoteOp) (p : Nat) : Nat := if o.path = 0#2 then 4 * p + o.unit.toNat else 68 + p

/-- UMP_LAST_VOTE (Table 16.8). -/
def voteWord (o : VoteOp) (outcome x y : Nat) : Nat :=
  outcome * 2 ^ 30 + o.path.toNat * 2 ^ 28 + o.sampled.toNat * 2 ^ 27 + o.origin.toNat * 2 ^ 22
    + (if o.path = 0#2 then o.unit.toNat else 0) * 2 ^ 20 + x * 2 ^ 15 + y * 2 ^ 10 + o.tile.toNat * 2 ^ 5

/-- The rerun clusters, and how the vote ends. -/
def voteRuns (s : State) (o : VoteOp) : Option Nat × Option Nat × Nat × Nat × Bool :=
  let r := o.region.toNat
  let p := o.origin.toNat
  let x := pickRerun s r p [p]
  let y := match x with
    | some q => pickRerun s r q [p, q]
    | none => none
  (x, y, voteOutcome o.same (o.ok0 || o.sampled) o.ok1 o.third.toNat x.isSome y.isSome)

/-- Settle a vote. (DESIGN CHOICE, notes/assumptions/137.md) -/
def settleVote (s : State) (o : VoteOp) : State :=
  let r := o.region.toNat
  let p := o.origin.toNat
  let pg := Page.ump r
  let (x, y, outcome, loser, third) := voteRuns s o
  let c : Cnt := { court := s.courtOf r, addr := none }
  let s := s.setReg (pg + 0x48) (BitVec.ofNat 32 (voteWord o outcome (x.getD 0x1F) (if third then y.getD 0x1F else 0x1F)))
  let s := s.setReg (pg + 0x4C) o.addr
  let s := fixedCount (count s pg 0x01 c) pg 0 1
  let s := if outcome = 2 then count s pg 0x02 c else s
  let s := if (umpOf s r).shadow.contains (strikeIndex o p) then count s pg 0x06 c else s
  let s := if o.sampled then fixedCount (count s pg 0x03 c) pg 1 1 else s
  let s := if o.sampled && !o.same then
      let e : Ev := { page := pg, court := s.courtOf r, mag := o.capture.differing.toNat, capture := voteCapture s o }
      count (count (noteEv s Err.ump_sample_mismatch e) pg 0x04 c) pg 0x08 c
    else s
  if outcome = 3 then umpErr s r Err.ump_umpire_undecided
  else if loser = 1 then strikeUmp s r (strikeIndex o p)
  else if loser = 2 then strikeUmp s r (strikeIndex o (x.getD 0))
  else s

/-- May the operation be put to a vote: its region serves a court, its origin works, and a sampled one only while sampling
is on and its residue check passed (R391)? (DESIGN CHOICE, notes/assumptions/112.md) -/
def voteStands (s : State) (o : VoteOp) : Bool :=
  let r := o.region.toNat
  (s.courtOf r).isSome && !s.pageRetired (Page.rg r) && (workingOf s r).contains o.origin.toNat
    && (!o.sampled || (s.fld (Page.ump r) F.UMP_SAMPLE_k != 0x1F && o.path == 0#2 && o.ok0))

/-- A disagreement is settled: the winner is what the operation's own command delivered. -/
def execUmpireVote (v : Vote) (s : State) : Host.Outcome State Fault Refusal :=
  match v with
  | .umpire o => if voteStands s o then effect s fun s => settleVote s o else turnedAway s
  | .engine e row =>
    if s.pageRetired (enginePage e) || bit (engineRows s e) row.toNat then turnedAway s
    else effect s fun s => strikeRow s e row.toNat

/-- A strike leaves its window (R389, R387). Full shadow stays. -/
def execStrikeExpiry (k : StrikeSite) (s : State) : Host.Outcome State Fault Refusal :=
  match k with
  | .umpire r i =>
    let n := KMap.get (umpOf s r.toNat).live 0 i.toNat
    if n = 0 then turnedAway s
    else effect s fun s => updUmp s r.toNat fun u => { u with live := KMap.set u.live 0 i.toNat (n - 1) }
  | .engineRow e row =>
    let k := 64 * engineKey e + row.toNat
    let n := KMap.get s.rowStrikes 0 k
    if n = 0 then turnedAway s else effect s fun s => { s with rowStrikes := KMap.set s.rowStrikes 0 k (n - 1) }

/-! ## Localisation and substitutes (R104 to R106, R390) -/

/-- Clusters whose offset a first substitute in cluster p alters: those after it, where it has no repair stage yet. -/
def altered (s : State) (r p : Nat) : List Nat :=
  if s.fld (Page.tu (clusterOf r p)) F.TU_SKEW_OFFSET_repair_stage = 1 then []
  else (List.range 17).filter fun q => decide (p < q)

/-- A quiet point for a change in cluster p (R105). -/
def quietFor (s : State) (r p : Nat) : Bool :=
  (s.region r).stream.isNone && (altered s r p).all fun q =>
    (List.range 4).all fun u => (unitOf (s.cluster (clusterOf r q)) u).groups == []

/-- Substitutes wait for their switch-in: repair_pending. -/
def showRepair (s : State) (r p : Nat) : State :=
  s.setFld (Page.tu (clusterOf r p)) F.TU_STATUS_repair_pending ((umpOf s r).subs.any fun e => e.1 / 4 == p).toNat

/-- A unit leaves service, and its cluster with it (Table 16.3). -/
def retireUnit (s : State) (r i : Nat) : State :=
  let s := showUnits (setUnitByte s r (i / 4) (i % 4) 7 6 2) r (i / 4)
  decideRetire s r (i / 4)

/-- Strikes cleared and full shadow ended. -/
def endShadow (s : State) (r i : Nat) : State :=
  showUmp (updUmp s r fun u => { u with live := KMap.set u.live 0 i 0, shadow := u.shadow.filter (· != i) }) r

/-- What the test rows of a unit found: faulty cell rows, and whether anything else. (DESIGN CHOICE, notes/assumptions/113.md) -/
def localise (s : State) (r i : Nat) (rows : List Nat) (elsewhere : Bool) : State :=
  let pending := ((umpOf s r).subs.filter fun e => e.1 == i).length
  if rows ≠ [] ∧ !elsewhere ∧ subsUsed s r (i / 4) (i % 4) + pending + rows.length ≤ 2 then
    let s := updUmp s r fun u => { u with subs := u.subs ++ rows.map fun row => (i, row) }
    showRepair (umpErr (endShadow s r i) r Err.ump_substitute) r (i / 4)
  else retireUnit s r i

def execUmpireLocalise (region : BitVec 5) (index : BitVec 7) (rows : List (BitVec 6)) (elsewhere : Bool) (s : State) :
    Host.Outcome State Fault Refusal :=
  let r := region.toNat
  let i := index.toNat
  if i < 68 ∧ (umpOf s r).shadow.contains i ∧ !(umpOf s r).retiring.contains (i / 4) ∧ quietFor s r (i / 4)
      ∧ !bit (s.fld (Page.ump r) F.UMP_RETIRED_clusters) (i / 4) then
    effect s fun s => localise s r i (rows.map (·.toNat)).eraseDups elsewhere
  else turnedAway s

/-- Both weight banks of a unit loaded again from their last loads. -/
def reloadUnit (s : State) (r p u : Nat) : State :=
  let c := clusterOf r p
  let t := unitOf (s.cluster c) u
  let s := reloadBank s (s.courtOf r) c u true t.active.fmt t.active.load
  reloadBank s (s.courtOf r) c u false t.shadow.fmt t.shadow.load

/-- One substitute is switched in (R105 steps 1 to 3). -/
def switchIn (s : State) (r : Nat) (e : Nat × Nat) : State :=
  let p := e.1 / 4
  let u := e.1 % 4
  let pg := Page.tu (clusterOf r p)
  let moved := altered s r p
  let first := s.fld pg F.TU_SUBST_MAP_sub0_used u = 0
  let s := if first then (s.setFld pg F.TU_SUBST_MAP_sub0_used 1 u).setFld pg F.TU_SUBST_MAP_sub0_row e.2 u
    else (s.setFld pg F.TU_SUBST_MAP_sub1_used 1 u).setFld pg F.TU_SUBST_MAP_sub1_row e.2 u
  let s := setUnitByte s r p u 5 4 (subsUsed s r p u)
  let s := s.setFld pg F.TU_SKEW_OFFSET_repair_stage 1
  forEach moved s fun s q =>
    let g := Page.tu (clusterOf r q)
    let s := s.setFld g F.TU_SKEW_OFFSET_offset (s.fld g F.TU_SKEW_OFFSET_offset + 1)
    let s := s.setFld g F.TU_SKEW_OFFSET_skew_gen (s.fld g F.TU_SKEW_OFFSET_skew_gen + 1)
    note s g Err.tu_skew_changed

/-- The pending substitutes of a cluster are switched in at a quiet point (R105). -/
def execSubstituteSwitchIn (region : BitVec 5) (cluster : BitVec 5) (s : State) : Host.Outcome State Fault Refusal :=
  let r := region.toNat
  let p := cluster.toNat
  let mine := (umpOf s r).subs.filter fun e => e.1 / 4 == p
  if mine ≠ [] ∧ p < 17 ∧ quietFor s r p then
    effect s fun s =>
      let s := forEach mine s fun s e => switchIn s r e
      let s := updUmp s r fun u => { u with subs := u.subs.filter fun e => e.1 / 4 != p }
      let s := saveRegion (showRepair s r p) r
      forEach ((mine.map (·.1)).eraseDups) s fun s i => reloadUnit s r p (i % 4)
  else turnedAway s

/-! ## Takeover (R392, R393) -/

/-- Tiles an entry of the map moves: those of the open group at its base with all its slots, or its width. -/
def entrySpan (t : TUnit) (e : MapEntry) : Nat :=
  match t.groups.find? fun g => g.base == e.tile with
  | some g => g.width * (g.depth + 1)
  | none => e.width

/-- Where every row of a unit goes from offset `d` to offset `d'`: (tile, row) to (tile, row). A row carried outside the map
goes nowhere. -/
def rowMoves (t : TUnit) (m : List MapEntry) (d d' : Nat) : List ((Nat × Nat) × Nat × Nat) :=
  let covered := m.flatMap fun e => (List.range (entrySpan t e)).map (e.tile + ·)
  let plain := ((List.range 32).filter fun a => !covered.contains a).flatMap fun a =>
    (List.range 64).map fun i => ((a, i), a, i)
  plain ++ m.flatMap fun e => (List.range e.len).flatMap fun i =>
    match m.find? fun f => decide (f.start + d ≤ e.start + i + d') && decide (e.start + i + d' < f.start + f.len + d) with
    | none => []
    | some f => (List.range (entrySpan t e)).filterMap fun k =>
        if f.tile + k < 32 then some ((e.tile + k, i), f.tile + k, e.start + i + d' - (f.start + d)) else none

/-- The spare's units and accumulators after the copy of step 2. -/
def takeRows (old new : Cluster) (m : List MapEntry) (d d' : Nat) : Cluster :=
  forEach (List.range 4) { new with acc := [] } fun x u =>
    let t := unitOf old u
    let moves := rowMoves t m d d'
    let x := forEach moves x fun x e => setAccRow x u e.2.1 e.2.2 (accRow old u e.1.1 e.1.2)
    let counts := forEach moves ([] : KMap Nat) fun c e =>
      KMap.set c 0 (e.2.1 * 64 + e.2.2) (KMap.get t.counts 0 (e.1.1 * 64 + e.1.2))
    setUnit x u { unitOf x u with groups := t.groups, counts := counts, closed := t.closed }

/-- The region's current stream map: that of its main program, else of its bench task. -/
def currentMap (x : Region) : List MapEntry :=
  match x.main.map with
  | some m => m
  | none => x.task.map.getD []

/-- Steps 1 to 3: store, VE state, accumulators, and the banks loaded again. -/
def takeState (s : State) (r p q : Nat) : State :=
  let cp := clusterOf r p
  let cq := clusterOf r q
  let old := s.cluster cp
  let x := { takeRows old .init (currentMap (s.region r)) (offsetOf s r p) (offsetOf s r q) with
    store := old.store, lineFmt := old.lineFmt, vregs := old.vregs, masks := old.masks, gens := old.gens }
  let x := forEach (List.range 4) x fun x u => setUnit x u { unitOf x u with sel := (unitOf old u).sel }
  let s := s.setCluster cq x
  let s := forEach [0x40, 0x4C] s fun s o => s.setReg (Page.ve cq + o) (s.reg (Page.ve cp + o))
  let s := forEach (List.range 4) s fun s u =>
    let t := unitOf old u
    let s := reloadBank s (s.courtOf r) cq u true t.active.fmt t.active.load
    reloadBank s (s.courtOf r) cq u false t.shadow.fmt t.shadow.load
  showGroups (showBanks s cq) cq

/-- Put the logical map: UMP_LMAP (Table 16.8). -/
def setLmap (s : State) (r : Nat) (m : List Nat) : State :=
  forEach (List.range 4) s fun s i =>
    s.setFld (Page.ump r) F.UMP_LMAP_map
      ((List.range 4).foldl (fun v b => v + (m.getD (4 * i + b) 0xFF) * 256 ^ b) 0) i

def lmapOf (s : State) (r : Nat) : List Nat := (List.range 16).map fun c => (s.physOf r c).getD 0xFF

/-- The retiring cluster leaves service: pages retired, strikes and shadow gone, its slot pairs discarded (R171). -/
def leaveService (s : State) (r p : Nat) : State :=
  let s := discardTapCluster s (clusterOf r p)
  let s := setClusterMode s (clusterOf r p) 5
  let s := updUmp s r fun u =>
    { u with
      retiring := u.retiring.filter (· != p), subs := u.subs.filter fun e => e.1 / 4 != p
      shadow := u.shadow.filter fun i => !(i == 68 + p || (decide (i < 68) && i / 4 == p))
      live := u.live.filter fun e => !(e.1 == 68 + p || (decide (e.1 < 68) && e.1 / 4 == p)) }
  let k := s.fld (Page.ump r) F.UMP_RETIRED_clusters
  s.setFld (Page.ump r) F.UMP_RETIRED_clusters (k ||| 2 ^ p)

/-- A cluster is replaced by the spare, or the region goes on with one cluster less. -/
def takeover (s : State) (r p : Nat) : State :=
  let m := lmapOf s r
  let spare := (spareOf s r).filter (· != p)
  match spare with
  | some q =>
    if m.contains p then
      let s := leaveService (takeState s r p q) r p
      let s := setClusterMode s (clusterOf r q) 0
      let s := setLmap s r (m.map fun x => if x = p then q else x)
      let g := Page.tu (clusterOf r q)
      let s := s.setFld g F.TU_SKEW_OFFSET_skew_gen (s.fld g F.TU_SKEW_OFFSET_skew_gen + 1)
      let s := note s g Err.tu_skew_changed
      umpErr (showUmp (saveRegion s r) r) r Err.ump_cluster_retired
    else umpErr (showUmp (saveRegion (leaveService s r p) r) r) r Err.ump_cluster_retired
  | none =>
    let s := leaveService s r p
    if m.contains p then
      let work := m.filter fun x => x != p && x != 0xFF
      let s := setLmap s r work
      let s := umpErr (showUmp (saveRegion s r) r) r Err.ump_cluster_short
      if work.length < s.fld (Page.ump r) F.UMP_CTL_min_clusters then retireRegion s r else s
    else umpErr (showUmp (saveRegion s r) r) r Err.ump_cluster_retired

/-- The first retiring cluster of a region at a moment with no stream in flight. -/
def execClusterTakeover (region : BitVec 5) (s : State) : Host.Outcome State Fault Refusal :=
  let r := region.toNat
  match (umpOf s r).retiring with
  | [] => turnedAway s
  | p :: _ => if (s.region r).stream.isSome then turnedAway s else effect s fun s => takeover s r p

/-! ## UMP_CMD and probation (R402, R59) -/

def inProbation (s : State) (r : Nat) : Option Nat :=
  let p := s.fld (Page.ump r) F.UMP_PROBATION_cluster
  if p = 0x1F then none else some p

def setRetiredBit (s : State) (r p : Nat) (v : Bool) : State :=
  let k := s.fld (Page.ump r) F.UMP_RETIRED_clusters
  s.setFld (Page.ump r) F.UMP_RETIRED_clusters (k - (if bit k p then 2 ^ p else 0) + (if v then 2 ^ p else 0))

/-- All units of a cluster in one state. -/
def setUnits (s : State) (r p v : Nat) : State :=
  showUnits (forEach (List.range 4) s fun s u => setUnitByte s r p u 7 6 v) r p

/-- A retired cluster moves to probation, its block registers at their reset values; its hop, repair stage and substitutes
stay (R59, R103, R402). (DESIGN CHOICE, notes/assumptions/115.md) -/
def enterProbation (s : State) (r p : Nat) : State :=
  let c := clusterOf r p
  let s := s.setCluster c .init
  let s := resetRegs s (Page.tu c) 0x44 0x4F []
  let s := resetRegs s (Page.tu c) 0x60 0xFFC []
  let s := forEach [Page.acc c, Page.ve c, Page.st c] s fun s pg => resetRegs s pg 0x40 0xFFC []
  let s := setClusterMode s c 4
  let s := forEach (List.range 4) s fun s u => setUnitByte s r p u 5 4 (subsUsed s r p u)
  let s := setRetiredBit (setUnits s r p 1) r p false
  let s := s.setFld (Page.ump r) F.UMP_PROBATION_cluster p
  saveRegion (s.setFld (Page.ump r) F.UMP_PROBATION_jobs_done 0) r

/-- Probation ends: on a pass standby, else retired and not to return before a package reset. -/
def leaveProbation (s : State) (r p : Nat) (passed : Bool) : State :=
  let s := s.setFld (Page.ump r) F.UMP_PROBATION_cluster 0x1F
  if passed then
    let s := setClusterMode (setUnits s r p 0) (clusterOf r p) 6
    umpErr (showUmp (saveRegion s r) r) r Err.ump_probation_passed
  else
    let s := setRetiredBit (setClusterMode (setUnits s r p 2) (clusterOf r p) 5) r p true
    let s := updUmp s r fun u => { u with barred := u.barred ++ [p] }
    umpErr (showUmp (saveRegion s r) r) r Err.ump_probation_failed

/-- A write of UMP_CMD (Table 16.8). -/
def umpCmd (s : State) (r v : Nat) : State × Nat :=
  let p := bits v 4 0
  if !bit v 31 then (s, RegStatus.ok)
  else if 16 < p then (s, RegStatus.range)
  else if bits v 18 16 = 1 then
    if bit (s.fld (Page.ump r) F.UMP_RETIRED_clusters) p && (inProbation s r).isNone && !(umpOf s r).barred.contains p
        && !s.pageRetired (Page.rg r) then
      (enterProbation s r p, RegStatus.ok)
    else (s, RegStatus.denied)
  else if bits v 18 16 = 2 then
    if inProbation s r = some p then (leaveProbation s r p false, RegStatus.ok) else (decideRetire s r p, RegStatus.ok)
  else (s, RegStatus.range)

def execUmpReturnProbation (h : RegHdr) (region : BitVec 5) (cluster : BitVec 5) (s : State) :
    Host.Outcome State Fault Refusal :=
  regCommand s h (Page.ump region.toNat + 0x58) fun s => umpCmd s region.toNat (2 ^ 31 + 1 * 2 ^ 16 + cluster.toNat)

def execUmpRetire (h : RegHdr) (region : BitVec 5) (cluster : BitVec 5) (s : State) : Host.Outcome State Fault Refusal :=
  regCommand s h (Page.ump region.toNat + 0x58) fun s => umpCmd s region.toNat (2 ^ 31 + 2 * 2 ^ 16 + cluster.toNat)

/-- A probation job ends after some rows compared, with a mismatch or without. -/
def execProbationJobEnd (region : BitVec 5) (rows : BitVec 32) (mismatch : Bool) (s : State) :
    Host.Outcome State Fault Refusal :=
  let r := region.toNat
  match inProbation s r with
  | none => turnedAway s
  | some p =>
    if (s.courtOf r).isNone then turnedAway s
    else effect s fun s =>
      let s := count s (Page.ump r) 0x07 { n := rows.toNat, court := s.courtOf r }
      if mismatch then leaveProbation s r p false
      else
        let s := s.satFld (Page.ump r) F.UMP_PROBATION_jobs_done 1
        if s.fld (Page.ump r) F.UMP_CTL_probation_jobs ≤ s.fld (Page.ump r) F.UMP_PROBATION_jobs_done then
          leaveProbation s r p true
        else s

/-! ## Permanent faults of blocks and links (R394, R395) -/

/-- The sequencer, region switch or move engine of a region fails for good. -/
def execRegionBlockFailure (region : BitVec 5) (s : State) : Host.Outcome State Fault Refusal :=
  if s.pageRetired (Page.rg region.toNat) then turnedAway s else effect s fun s => retireRegion s region.toNat

/-- A ring edge or hub link (the PKG page), or the management core (the MC page), fails for good. -/
def execLinkFatal (core : Bool) (s : State) : Host.Outcome State Fault Refusal :=
  effect s fun s => raiseDevice s 0xF004 { page := if core then Page.mc else Page.pkg, court := none }

end Sys2Proof.Machine
end

