-- ==== Sys2Proof/Machine/Image.lean ====
section
/-! DEFINITION. Image slots and their verification, the settings blob, the flash copy, and the layouts of the three records
(19_firmware_and_trust.md R444 to R447, R458, R460, R462, R492). -/

namespace Sys2Proof.Machine

/-! ## Slots and images -/

/-- Bytes of a chunk of FLASH_WIN, and chunks of a sector. -/
def chunkBytes : Nat := 2048
def sectorChunks : Nat := 32

/-- A chunk of a slot; an erased one reads as ones. -/
def imageChunk (x : Slot) (i : Nat) : List Byte :=
  match KMap.get x.chunks [] i with
  | [] => List.replicate chunkBytes 0xFF#8
  | bs => bs

def imageBytes (x : Slot) (i n : Nat) : List Byte := (List.range n).flatMap fun k => imageChunk x (i + k)

/-- The first 4,096 bytes of a slot. -/
def slotHeader (x : Slot) : List Byte := imageBytes x 0 2

/-! Fields of Table 19.3. -/
def imgVersion (h : List Byte) : Nat := wordAt h 1
def imgSecurity (h : List Byte) : Nat := bits (wordAt h 1) 15 0
def imgBodyLen (h : List Byte) : Nat := wordAt h 3
/-- Layout of a record: 0 settings, 1 repair map, 2 Scorecard save. -/
def imgLayout (h : List Byte) (k : Nat) : Nat := wordAt h 4 / 2 ^ (24 - 8 * k) % 256

/-- Sectors an image takes (R458). -/
def imgSectors (h : List Byte) : Nat := (4096 + imgBodyLen h + 65535) / 65536

/-- The checks of Table 19.4 in order; 0 where every one passes. The image of manufacture passes its signatures and
digest. -/
def imageReason (s : State) (x : Slot) : Nat :=
  let h := slotHeader x
  let w := wordAt h
  let len := imgBodyLen h
  let key := sm2Key (h.drop 128)
  let signer := bits (w 5) 4 0
  if w 0 ≠ 0x1A6E0101 ∨ bits (w 2) 0 0 ≠ 1 ∨ len % 4096 ≠ 0 ∨ 33550336 < len then 1
  else if !x.factory && !sm2Verify Config.rootKey ((h.drop 128).take 68) ((h.drop 200).take 64) then 2
  else if s.fuses.revoked.getLsbD signer || bits (w 48) 4 0 != signer then 3
  else if !x.factory && !sm2Verify key (h.take 320) ((h.drop 320).take 64) then 4
  else if !x.factory && sm3 (imageBytes x 2 (len / chunkBytes)) != (h.drop 24).take 32 then 5
  else if imgSecurity h < s.fuses.counter then 6
  else 0

/-- Does the active header differ from the confirmed one (R460)? -/
def headerUnconfirmed (s : State) : Bool :=
  match s.flash.confirmed with
  | none => !s.flash.active.factory
  | some d => sm3 (slotHeader s.flash.active) != d

def setFlash (s : State) (f : Flash → Flash) : State := { s with flash := f s.flash }

/-! ## The copy (R458) -/

def showJournal (s : State) : State :=
  (s.setFld Page.flash F.FLASH_JOURNAL_total s.flash.total).setFld Page.flash F.FLASH_JOURNAL_done s.flash.copied

/-- A copy is armed in the directory. -/
def armCopy (s : State) : State :=
  showJournal (setFlash s fun f => { f with total := imgSectors (slotHeader f.staging), copied := 0 })

/-- Has the journal sectors left to copy (R455, R458)? (DESIGN CHOICE, notes/assumptions/123.md) -/
def copyPending (s : State) : Bool := decide (s.flash.copied < s.flash.total)

/-- One sector: erased, programmed from staging, and entered in the journal. -/
def copySector (f : Flash) : Flash :=
  let i := f.copied
  let mine := (List.range sectorChunks).map (sectorChunks * i + ·)
  { f with
    copied := i + 1
    active := ⟨false, forEach mine f.active.chunks fun m k => KMap.set m [] k (KMap.get f.staging.chunks [] k)⟩ }

/-- Sectors go on while there are any; after the last, the state is installed. -/
def copyRun : Nat → State → State
  | 0, s => s
  | n + 1, s => if copyPending s then copyRun n (setFlash s copySector) else s

def copySome (s : State) (n : Nat) : State :=
  let s := showJournal (copyRun n s)
  if copyPending s then s else s.setFld Page.flash F.FLASH_XFER_STAT_state 5

/-! ## The settings blob (Table 19.2, R492) -/

/-- The blob a part leaves manufacture with. -/
def factoryBlob (s : State) : List Byte :=
  let lo := s.fuses.serial.toNat % 2 ^ 32
  let hi := s.fuses.serial.toNat / 2 ^ 32
  let tail := wordBytes ([0, 1, 0xFE800000, 0, hi, lo, 0, 0, 0, 0, 0, 0, 0, 0, 0, 0xFE800000, 0, hi, lo, 0, 0, 0, 0, 0x13, 0])
  wordBytes [0x5E770100, 1, 116, crc32c tail] ++ tail

/-- The newest blob. -/
def settingsBlob (s : State) : List Byte := s.flash.settings.headD (factoryBlob s)

def recordLayout (b : List Byte) : Nat := bits (wordAt b 0) 15 8

/-- A record with another layout in its first word. -/
def withLayout (b : List Byte) (k : Nat) : List Byte :=
  overlay b 0 (wordBytes [wordAt b 0 / 65536 * 65536 + k * 256 + wordAt b 0 % 256])

/-- Write a blob over the older copy with the next sequence number (R445). -/
def writeSettings (s : State) (b : List Byte) : State :=
  let old := settingsBlob s
  let b := overlay b 4 (wordBytes [wordAt old 1 + 1])
  setFlash s fun f => { f with settings := [b, old] }

/-- Do mark, layout, length and CRC of a received blob hold (R449)? -/
def blobOk (b : List Byte) : Bool :=
  let n := wordAt b 2
  wordAt b 0 / 256 == 0x5E7701 && decide (116 ≤ n) && decide (n ≤ 65536) && decide (n ≤ b.length)
    && crc32c ((b.take n).drop 16) == wordAt b 3

def setWords (s : State) (off : Nat) (b : List Byte) (i n mask : Nat) : State :=
  forEach (List.range n) s fun s k => s.setReg (off + 4 * k) (BitVec.ofNat 32 (wordAt b (i + k) &&& mask))

def allOnes : Nat := 2 ^ 32 - 1

/-- SP's registers from a blob. -/
def applySp (s : State) (b : List Byte) : State :=
  let s := setWords s (Page.sp + 0x40) b 5 1 0x0FFF0009
  let s := setWords s (Page.sp + 0x44) b 6 4 allOnes
  let s := setWords s (Page.sp + 0x54) b 10 4 allOnes
  let s := setWords s (Page.sp + 0x64) b 14 4 allOnes
  setWords s (Page.sp + 0x74) b 18 1 0xFF

/-- The package's identity and update lock from a blob. -/
def applyPkg (s : State) (b : List Byte) : State :=
  let s := s.setFld Page.pkg F.PKG_DEVICE_ID_device_id (bits (wordAt b 4) 15 0)
  s.setFld Page.pkg F.PKG_FW_CTL_update_lock (bits (wordAt b 4) 16 16)

/-- Port H's registers from a blob. -/
def applyH (s : State) (b : List Byte) : State :=
  let s := setWords s (Page.h + 0x40) b 27 1 0x1F
  let s := setWords s (Page.h + 0x44) b 28 1 0x7FFFF
  let s := setWords s (Page.h + 0x48) b 19 4 allOnes
  setWords s (Page.h + 0x58) b 23 4 allOnes

/-! ## Migration (R460, R462) -/

/-- What a record's layout asks for, from the image's layout, the record's, and the retained copy's. -/
inductive Migration where
  | same | convert | revert | stuck
  deriving DecidableEq, Repr

def migration (image record : Nat) (retained : Option Nat) : Migration :=
  if record = image then .same
  else if record < image then .convert
  else if retained = some image then .revert
  else .stuck

def imageLayout (s : State) (k : Nat) : Nat := imgLayout (slotHeader s.flash.active) k

/-- The settings blob at step 6; none where the device enters recovery. (DESIGN CHOICE, notes/assumptions/128.md) -/
def migrateSettings (s : State) : Option State :=
  let b := settingsBlob s
  let k := imageLayout s 0
  match migration k (recordLayout b) (s.flash.retained.settings.map recordLayout) with
  | .same => some s
  | .convert =>
    let keep := s.flash.retained.settings.getD b
    some (writeSettings (setFlash s fun f => { f with retained := { f.retained with settings := some keep } }) (withLayout b k))
  | .revert =>
    let old := s.flash.retained.settings.getD b
    some (setFlash s fun f => { f with settings := [old, old], retained := { f.retained with settings := none } })
  | .stuck => none

def repairLayout (m : KMap Nat) : Nat := bits (KMap.get m (repairDefault 0) 0) 15 8

/-- The repair map at step 9. -/
def migrateRepair (s : State) : Option State :=
  let k := imageLayout s 1
  match migration k (repairLayout s.flash.repair) (s.flash.retained.repair.map repairLayout) with
  | .same => some s
  | .convert =>
    let keep := s.flash.retained.repair.getD s.flash.repair
    let s := setFlash s fun f => { f with retained := { f.retained with repair := some keep } }
    some (setRepairWord s 0 (0x4E9A0000 + k * 256))
  | .revert =>
    let old := s.flash.retained.repair.getD []
    some (setFlash s fun f => { f with repair := old, retained := { f.retained with repair := none } })
  | .stuck => none

/-- The Scorecard save at step 11, where there is one. -/
def migrateScore (s : State) : Option State :=
  let b := s.flash.scoreNew
  let k := imageLayout s 2
  if b = [] then some s
  else match migration k (recordLayout b) (s.flash.retained.score.map recordLayout) with
  | .same => some s
  | .convert =>
    let keep := s.flash.retained.score.getD b
    some (storeScImage (setFlash s fun f => { f with retained := { f.retained with score := some keep } }) (withLayout b k))
  | .revert =>
    let old := s.flash.retained.score.getD b
    some (setFlash s fun f => { f with scoreNew := old, scoreOld := old, retained := { f.retained with score := none } })
  | .stuck => none

/-! ## Loading a Scorecard save (R409, R418) -/

/-- An extreme entry from its 64 bytes and its capture slot. -/
def extremeFrom (b cap : List Byte) : Extreme :=
  let w := wordAt b
  ⟨w 0, bits (w 1) 23 0, w 2 + w 3 * 2 ^ 32, w 4, (List.range 8).map fun i => w (8 + i), if bit (w 1) 31 then cap else []⟩

/-- A record from its 640 bytes (Table 17.2). -/
def recordFrom (b : List Byte) : ScRec :=
  let w := wordAt b
  if !bit (w 0) 0 then .free
  else
    let at_ (i n : Nat) := (b.drop i).take n
    { valid := true, code := bits (w 0) 31 16, courtValid := bit (w 0) 11, court := bits (w 0) 15 12
      severity := bits (w 0) 10 8, count := w 1 + w 2 * 2 ^ 32, suppressed := w 3, seq := w 4, firstUptime := w 5
      lastUptime := w 6, firstHuddle := w 7 + w 8 * 2 ^ 32, lastHuddle := w 9 + w 10 * 2 ^ 32
      hist := forEach (List.range 32) [] fun m i => KMap.set m 0 i (beNat (at_ (64 + 2 * i) 2).reverse)
      min := extremeFrom (at_ 128 64) (at_ 256 192), max := extremeFrom (at_ 192 64) (at_ 448 192) }

/-- The newest save becomes the store. -/
def loadScore (s : State) : State :=
  let b := s.flash.scoreNew
  if b = [] then s
  else
    let s := s.setFld Page.sc F.SC_SEQ_seq (wordAt b 1)
    { s with score := forEach (List.range 512) [] fun m i => KMap.set m .free i (recordFrom ((b.drop (64 + 640 * i)).take 640)) }

end Sys2Proof.Machine
end

