-- ==== Sys2Proof/Machine/Power.lean ====
section
/-! DEFINITION. Array modes, pacing, the power controller, droop and temperature (18_power_and_speed.md R428 to R441;
20_package_and_pins.md R470). Rates themselves are timing and leave no trace here. -/

namespace Sys2Proof.Machine

/-- A SNS event with the action of its severity. -/
def snsErr (s : State) (bit : Nat) : State := raise s Page.sns bit

def setPower (s : State) (f : Power → Power) : State := { s with power := f s.power }

/-- Highest ceiling and lowest set point, in mV (R429, R434). (DESIGN CHOICE, notes/assumptions/117.md) -/
def topMv : Nat := 850
def floorMv : Nat := 600

/-- The set point of an array mode (R429). -/
def modeMv (m : Nat) : Nat :=
  match m with
  | 0 => 750 | 1 => 850 | 2 => 650 | _ => 600

def ceilingOf (s : State) (d : Nat) : Nat := KMap.get s.power.ceiling topMv d
def thermCeilingOf (s : State) (d : Nat) : Nat := KMap.get s.power.thermCeiling topMv d
def throttleOf (s : State) (r : Nat) : Nat := KMap.get s.power.ctlThrottle 0 r

/-- The effective set point: the lowest of mode, controller ceiling and thermal ceiling; 0.60 V after a thermal trip
(R429, R439). -/
def effectiveMv (s : State) (d : Nat) : Nat :=
  if s.power.tripped then floorMv
  else min (modeMv (s.fld Page.sns F.SNS_VCORE_mode d)) (min (ceilingOf s d) (thermCeilingOf s d))

/-- Report a die's effective set point; a change starts a ramp from the old one (R429, R436). -/
def showMv (s : State) (d : Nat) : State :=
  let old := s.fld Page.sns F.SNS_VCORE_effective_mv d
  let new := effectiveMv s d
  if old = new then s
  else
    let s := s.setFld Page.sns F.SNS_VCORE_effective_mv new d
    setPower s fun p => { p with ramps := KMap.set p.ramps 0 d (if KMap.get p.ramps 0 d = 0 then old else min old (KMap.get p.ramps 0 d)) }

/-- The four throttles of a region in the order mode, controller, droop, thermal (R430). -/
def throttles (s : State) (r : Nat) : List Nat :=
  [s.fld Page.sns F.SNS_REGION_pace_mode r, throttleOf s r,
    if bit (s.fld Page.sns F.SNS_DROOP_STAT_regions) r then s.fld Page.sns F.SNS_DROOP_CTL_droop_t else 0,
    if KMap.get s.power.hot false (r / 8) then 4 else 0]

/-- pace_now and the sources at it (Table 18.7). -/
def showPace (s : State) (r : Nat) : State :=
  let ts := throttles s r
  let now := ts.foldl max 0
  let src := (List.range 4).foldl (fun v i => v + (if now ≠ 0 ∧ ts.getD i 0 = now then 2 ^ i else 0)) 0
  (s.setFld Page.sns F.SNS_REGION_pace_now now r).setFld Page.sns F.SNS_REGION_sources src r

/-- Everything the SNS page reports of set points, throttles and skips. -/
def showPower (s : State) : State :=
  let s := forEach (List.range 4) s showMv
  let s := forEach (List.range 32) s showPace
  let hot (n : Nat) : Bool := KMap.get s.power.hotStacks false n || KMap.get s.power.droopStacks false n
  let s := s.setFld Page.sns F.SNS_STK_DROOP_stacks ((List.range 32).foldl (fun v n => v + (if hot n then 2 ^ n else 0)) 0)
  let s := s.setFld Page.sns F.SNS_STATUS_capping
    ((List.range 4).any (fun d => decide (ceilingOf s d < topMv)) || (List.range 32).any fun r => throttleOf s r != 0).toNat
  s.setFld Page.sns F.SNS_STATUS_thermal_paced
    ((List.range 4).any fun d => decide (thermCeilingOf s d < topMv) || KMap.get s.power.hot false d).toNat

/-! ## Modes (R429, R430, R433) -/

/-- A write of SNS_VCOREn: the mode governs at once. -/
def vcoreWrite (s : State) (d v : Nat) : State × Nat :=
  (showPower (s.setFld Page.sns F.SNS_VCORE_mode v d), RegStatus.ok)

def execVcoreModeWrite (h : RegHdr) (die : BitVec 2) (mode : BitVec 2) (s : State) : Host.Outcome State Fault Refusal :=
  regCommand s h (Page.sns + 0x70 + 4 * die.toNat) fun s => vcoreWrite s die.toNat mode.toNat

/-- A write of SNS_REGIONr. -/
def paceWrite (s : State) (r v : Nat) : State × Nat :=
  (showPower (s.setFld Page.sns F.SNS_REGION_pace_mode (bits v 26 24) r), RegStatus.ok)

def execPaceModeWrite (h : RegHdr) (region : BitVec 5) (mode : BitVec 3) (s : State) :
    Host.Outcome State Fault Refusal :=
  regCommand s h (Page.sns + 0x200 + 4 * region.toNat) fun s => paceWrite s region.toNat (mode.toNat * 2 ^ 24)

/-- A regulator reaches its effective set point: the ramp is over. -/
def execVcoreRampEnd (die : BitVec 2) (s : State) : Host.Outcome State Fault Refusal :=
  if KMap.get s.power.ramps 0 die.toNat = 0 then turnedAway s
  else effect s fun s => setPower s fun p => { p with ramps := KMap.set p.ramps 0 die.toNat 0 }

/-! ## The power controller (R434, R435) -/

/-- The cap in force. -/
def capW (s : State) : Nat :=
  let c := s.fld Page.sns F.SNS_CAP_cap_w
  if c = 0 ∨ 4400 < c then 4400 else c

def dies : List Nat := List.range 4

/-- Every die at the floor and every region at controller throttle 7. -/
def nothingLeft (s : State) : Bool :=
  dies.all (fun d => decide (ceilingOf s d ≤ floorMv)) && (List.range 32).all fun r => throttleOf s r == 7

def setThrottles (s : State) (f : Nat → Nat) : State :=
  setPower s fun p => { p with ctlThrottle := forEach (List.range 32) p.ctlThrottle fun m r => KMap.upd m 0 r f }

/-- The first action of R434 that applies to a mean input power. -/
def capAction (s : State) (p : Nat) : State :=
  let cap := capW s
  let low := decide (p + 10 * s.fld Page.sns F.SNS_CAP_hyst < cap)
  if cap < p ∧ dies.any (fun d => decide (floorMv < ceilingOf s d)) then
    setPower s fun q =>
      { q with
        ceiling := forEach dies q.ceiling fun m d => KMap.upd m topMv d fun c => if floorMv < c then c - 5 else c }
  else if cap < p then setThrottles s fun t => min 7 (t + 1)
  else if low && (List.range 32).any (fun r => throttleOf s r != 0) then setThrottles s (· - 1)
  else if low then
    setPower s fun q => { q with ceiling := forEach dies q.ceiling fun m d => KMap.upd m topMv d fun c => min topMv (c + 5) }
  else s

/-- A period of the controller: input, compute, stack, hub and loss power in W. -/
def controlPeriod (s : State) (input compute stackW hub loss : Nat) : State :=
  let s := s.setFld Page.sns F.SNS_POWER_input_w input
  let s := s.maxFld Page.sns F.SNS_POWER_peak_w input
  let s := s.setFld Page.sns F.SNS_PWR_CD_compute_w compute
  let s := s.setFld Page.sns F.SNS_PWR_CD_stacks_w stackW
  let s := s.setFld Page.sns F.SNS_PWR_HUB_hub_w hub
  let s := s.setFld Page.sns F.SNS_PWR_HUB_loss_w loss
  let stuck := decide (capW s < input) && nothingLeft s
  let s := showPower (capAction s input)
  let n := if stuck then s.power.beyond + 1 else 0
  let s := setPower s fun p => { p with beyond := min n 101 }
  if n = 100 then snsErr s Err.sns_cap_unmet else s

def execPowerControlPeriod (input compute stackW hub loss : BitVec 16) (s : State) : Host.Outcome State Fault Refusal :=
  effect s fun s => controlPeriod s input.toNat compute.toNat stackW.toNat hub.toNat loss.toNat

/-! ## Droop (R436, R437) -/

def setDroop (s : State) (r : Nat) (v : Bool) : State :=
  let m := s.fld Page.sns F.SNS_DROOP_STAT_regions
  showPower (s.setFld Page.sns F.SNS_DROOP_STAT_regions
    (m - (if bit m r then 2 ^ r else 0) + (if v then 2 ^ r else 0)))

def drooping (s : State) (r : Nat) : Bool := bit (s.fld Page.sns F.SNS_DROOP_STAT_regions) r

def execDroopEngage (region : BitVec 5) (s : State) : Host.Outcome State Fault Refusal :=
  if drooping s region.toNat then turnedAway s
  else effect s fun s => setDroop (s.satFld Page.sns F.SNS_REGION_droop_events 1 region.toNat) region.toNat true

def execDroopRelease (region : BitVec 5) (s : State) : Host.Outcome State Fault Refusal :=
  if drooping s region.toNat then effect s fun s => setDroop s region.toNat false else turnedAway s

/-- Droop pacing has stayed engaged for 1 ms. -/
def execDroopSustained (region : BitVec 5) (s : State) : Host.Outcome State Fault Refusal :=
  if drooping s region.toNat then effect s fun s => snsErr s Err.sns_droop_sustained else turnedAway s

/-- A stack's base-die droop engages or releases. -/
def execStackDroop (stack : BitVec 5) (engage : Bool) (s : State) : Host.Outcome State Fault Refusal :=
  if KMap.get s.power.droopStacks false stack.toNat = engage then turnedAway s
  else effect s fun s =>
    showPower (setPower s fun p => { p with droopStacks := KMap.set p.droopStacks false stack.toNat engage })

/-! ## Temperature (R438, R439) -/

def tjOf (s : State) (i : Nat) : Nat := s.fld Page.sns F.SNS_TEMP_tj i

/-- The highest reading of a die. -/
def dieTj (s : State) (d : Nat) : Nat := ((List.range 8).map fun k => tjOf s (8 * d + k)).foldl max 0

/-- SNS_TEMP_MAX: the lowest index among the hottest sensors. -/
def showHottest (s : State) : State :=
  let (i, t) := (List.range 68).foldl (fun (acc : Nat × Nat) i => if acc.2 < tjOf s i then (i, tjOf s i) else acc) (0, 0)
  (s.setFld Page.sns F.SNS_TEMP_MAX_sensor i).setFld Page.sns F.SNS_TEMP_MAX_tj t

/-- A hot state with its release 3 °C below: raises thermal-hot when it sets. `old` is the state so far. -/
def hotNext (s : State) (tj : Nat) (old : Bool) : Bool :=
  let lim := s.fld Page.sns F.SNS_THERM_CTL_hot_c
  if 16 * lim ≤ tj then true else if tj + 48 < 16 * lim then false else old

/-- The thresholds of a compute die. -/
def dieThermal (s : State) (d : Nat) : State :=
  let tj := dieTj s d
  let warm := decide (16 * s.fld Page.sns F.SNS_THERM_CTL_warn_c ≤ tj)
  let fresh := warm && !KMap.get s.power.warm false d
  let s := setPower s fun p => { p with warm := KMap.set p.warm false d warm }
  let s := if fresh then snsErr s Err.sns_thermal_warn else s
  let old := KMap.get s.power.hot false d
  let new := hotNext s tj old
  let s := setPower s fun p => { p with hot := KMap.set p.hot false d new }
  if new && !old then snsErr s Err.sns_thermal_hot else s

/-- The threshold of a stack. -/
def stackThermal (s : State) (n : Nat) : State :=
  let old := KMap.get s.power.hotStacks false n
  let new := hotNext s (tjOf s (36 + n)) old
  let s := setPower s fun p => { p with hotStacks := KMap.set p.hotStacks false n new }
  if new && !old then snsErr s Err.sns_thermal_hot else s

/-- The thermal trip: the pin, the gates and set points, then the device-fatal sequence. (DESIGN CHOICE, notes/assumptions/118.md) -/
def thermalTrip (s : State) : State :=
  let s := showPower (setPower s fun p => { p with tripped := true, gates := true })
  snsErr s Err.sns_thermal_trip

/-- A reading of a sensor in units of 0.0625 °C. -/
def sample (s : State) (i tj : Nat) : State :=
  let s := s.setFld Page.sns F.SNS_TEMP_tj tj i
  let s := showHottest (s.maxFld Page.sns F.SNS_TEMP_max tj i)
  let s := if i < 32 then dieThermal s (i / 8) else if 36 ≤ i then stackThermal s (i - 36) else s
  let s := showPower s
  if !s.power.tripped && decide (16 * min 115 (s.fld Page.sns F.SNS_THERM_CTL_trip_c) ≤ tj) then thermalTrip s else s

def execThermalSample (sensor : BitVec 7) (tj : BitVec 16) (s : State) : Host.Outcome State Fault Refusal :=
  if sensor.toNat < 68 then effect s fun s => sample s sensor.toNat tj.toNat else turnedAway s

/-- The ceiling of a die falls while its reading is at or above warn_c, and recovers once it is below warn_c − 3 °C. -/
def ceilingTick (s : State) (d : Nat) : State :=
  let w := 16 * s.fld Page.sns F.SNS_THERM_CTL_warn_c
  let tj := dieTj s d
  setPower s fun p =>
    { p with
      thermCeiling := KMap.upd p.thermCeiling topMv d fun c =>
        if w ≤ tj then max floorMv (c - 5) else if tj + 48 < w then min topMv (c + 5) else c }

def execThermalCeilingTick (s : State) : Host.Outcome State Fault Refusal :=
  effect s fun s => showPower (forEach dies s ceilingTick)

/-! ## Rails (R440, R470) -/

/-- A rail stays outside its tolerance for more than 1 ms: rails 0 to 3 are the core rails with their measured voltage. -/
def execRailFault (rail : BitVec 3) (mv : BitVec 16) (s : State) : Host.Outcome State Fault Refusal :=
  effect s fun s =>
    let s := if rail.toNat < 4 then s.setFld Page.sns F.SNS_VMEAS_mv mv.toNat rail.toNat else s
    snsErr s Err.sns_rail_fault

end Sys2Proof.Machine
end

