-- ==== Sys2Proof/Machine/Boot.lean ====
section
/-! DEFINITION. Power and resets, the start of Table 19.5 with its recovery, the repair map's application and the start tests
(19_firmware_and_trust.md R450 to R453, R499; 20_package_and_pins.md R472 to R481; 11_stacks_and_tiles.md R267, R270;
12_caddie.md R295). -/

namespace Sys2Proof.Machine

def setBoard (s : State) (f : Board → Board) : State := { s with board := f s.board }

def bootPhase (s : State) : Nat := s.fld Page.pkg F.PKG_BOOT_boot_phase
def setBootPhase (s : State) (p : Nat) : State := s.setFld Page.pkg F.PKG_BOOT_boot_phase p

/-! ## Resets and power -/

/-- Registers of a kept list, the others at their reset values. -/
def keepRegs (s : State) (p : Nat → Bool) : KMap W32 := s.regs.filter fun e => p e.1

/-- Registers that a package reset keeps: the Scorecard's sequence and its counts with the store (R450), and the state of a
transfer that is not in progress. (DESIGN CHOICE, notes/assumptions/126.md) -/
def resetKeeps (s : State) (off : Nat) : Bool :=
  off == Page.sc + 0x4C || off == Page.sc + 0x64 || off == Page.sc + 0x68
    || (off == Page.flash + 0x4C || off == Page.flash + 0x50) && (s.xfer.isNone || decide (3 ≤ s.fld Page.flash F.FLASH_XFER_STAT_state))
    || off == Page.pkg + 0x70 || off == Page.dbg + 0x44

/-- A Caddie restarts: with a commit record it completes its step, else its pending state is discarded (R295). -/
def restartCaddie (s : State) (n : Nat) : State :=
  match (caddie s n).window with
  | none => s
  | some step =>
    if s.fld (Page.caddie n) F.CADDIE_COMMIT_STAT_state = 4 then commitCaddie s n step
    else discardCaddie s n none

/-- Lanes marked permanently out serve again after a package reset (R404). -/
def clearLanes (s : State) : State := writeRepair s ((List.range 5).map fun i => (2322 + i, 0))

/-- What the management island holds through any loss of the other rails, over the state after reset. -/
def islandOf (s : State) : State :=
  { State.reset with
    pending := s.pending, outbox := s.outbox, freeCount := s.freeCount, flash := s.flash, fuses := s.fuses
    board := s.board, score := s.score, power := { Power.init with tripped := s.power.tripped } }

/-- A package reset with its reason (R450): the stacks keep their contents while their rails stand (R267). -/
def pkgReset (s : State) (reason : Nat) : State :=
  let s := forEach (s.caddies.map (·.1)) s restartCaddie
  let s := clearLanes s
  let s := setFlash s fun f => { f with act := s.fld Page.pkg F.PKG_ACT_STAT_outcome }
  let t := { islandOf s with mem := s.mem, trailers := s.trailers, regs := keepRegs s (resetKeeps s) }
  let t := setBoard t fun b => { b with starting := none, atStep3 := false }
  t.setFld Page.pkg F.PKG_BOOT_reason reason

def execResetNAssert (s : State) : Host.Outcome State Fault Refusal :=
  if s.board.aux then effectReset s fun s => pkgReset s 2 else turnedAway s

def execWatchdogReset (s : State) : Host.Outcome State Fault Refusal :=
  if s.board.aux then effectReset s fun s => pkgReset s 5 else turnedAway s

/-- Pages served from the management island and its sensors: they outlast the rails of Table 20.3. (DESIGN CHOICE, notes/assumptions/127.md) -/
def islandPage (off : Nat) : Bool :=
  match pageAt off with
  | some (.pkg, _) => true | some (.mc, _) => true | some (.flash, _) => true | some (.sm, _) => true
  | some (.sns, _) => true | some (.sb, _) => true | some (.sc, _) => true | some (.dbg, _) => true
  | some (.sp, _) => true
  | _ => false

/-- The rails of Table 20.3 turn off: everything outside the island is lost, the stacks' contents with it. -/
def railsOff (s : State) : State :=
  let t := islandOf s
  let t :=
    { t with
      regs := keepRegs s islandPage, rates := s.rates, spent := s.spent, saving := s.saving, xfer := s.xfer
      attest := s.attest, report := s.report, fatal := s.fatal }
  let t := setPower (setBoard t fun b => { b with dies := false }) fun p => { p with gates := true }
  let t := t.setFld Page.pkg F.PKG_HUB_trained 0
  let t := t.setFld Page.sns F.SNS_DROOP_STAT_regions 0
  let t := showPower t
  if bootPhase t = 0 ∨ bootPhase t = 4 then t else setBootPhase t 1

/-- Every region gate closes at once (Table 20.5 step 2). -/
def closeGates (s : State) : State := setPower s fun p => { p with gates := true }

/-- PWRGOOD deasserts: before the rails stand it stops the start there; after that Table 20.5 runs. -/
def execPwrgoodDeassert (s : State) : Host.Outcome State Fault Refusal :=
  if !s.board.pwrgood then turnedAway s
  else if !s.board.dies then effect s fun s => setBoard s fun b => { b with pwrgood := false }
  else effectReset s fun s =>
    let s := setBoard s fun b => { b with pwrgood := false }
    railsOff (raiseDevice (closeGates s) 0xF007 { page := Page.pkg, court := none })

/-- VIN12 falls below 11.4 V while PWRGOOD stands (R474). -/
def execVin12Undervoltage (s : State) : Host.Outcome State Fault Refusal :=
  if s.board.pwrgood then effectReset s fun s => railsOff (snsErr (closeGates s) Err.sns_rail_fault) else turnedAway s

/-- V3P3_AUX comes within tolerance: step 1 of Table 19.5. -/
def execAuxPowerOn (s : State) : Host.Outcome State Fault Refusal :=
  if s.board.aux then turnedAway s
  else effect s fun s => (setBoard s fun b => { b with aux := true }).setFld Page.pkg F.PKG_BOOT_reason 1

/-- V3P3_AUX is removed: only the flash and the fuses stay (R475). -/
def execV3p3AuxRemoved (s : State) : Host.Outcome State Fault Refusal :=
  if s.board.aux then
    effectReset s fun s =>
      let s := setFlash s fun f => { f with act := s.fld Page.pkg F.PKG_ACT_STAT_outcome }
      { State.reset with
        pending := s.pending, outbox := s.outbox, freeCount := s.freeCount, flash := s.flash, fuses := s.fuses
        board := { Board.init with aux := false } }
  else turnedAway s

/-! ## Recovery (R452) -/

/-- The device enters recovery: SP takes the newest valid blob's addresses, or the factory's; the compute dies and stacks
stay in reset. -/
def enterRecovery (s : State) (settingsOk : Bool) : State :=
  let s := setBoard s fun b => { b with starting := none, atStep3 := false }
  let s := applySp s (if settingsOk then settingsBlob s else factoryBlob s)
  raise (setBootPhase s 4) Page.pkg Err.pkg_recovery

def flashError (s : State) : State := note s Page.flash Err.flash_flash_error

/-! ## The repair map's application (R453, step 9) -/

/-- A region's registers from its record (Table 16.6). -/
def loadCluster (s : State) (r p : Nat) : State :=
  let k := regionRec r
  let pg := Page.tu (clusterOf r p)
  let tail := (List.range 5).foldl (fun v i => v + repairWord s (k + 42 + i) * 2 ^ (32 * i)) 0
  let subst (u : Nat) : Nat := repairWord s (k + 8 + (4 * p + u) / 2) / 2 ^ (16 * ((4 * p + u) % 2)) % 2 ^ 16
  let stage (q : Nat) : Bool := (List.range 4).any fun u =>
    bit (repairWord s (k + 8 + (4 * q + u) / 2)) (16 * ((4 * q + u) % 2) + 7)
  let probation := (List.range 4).any fun u => bit tail (72 + 4 * p + u)
  let retired := bit (repairWord s (k + 1)) p
  let s := forEach (List.range 4) s fun s u =>
    let s := s.setReg (pg + 0x50 + 4 * u) (BitVec.ofNat 32 (subst u))
    let st := if bit tail (4 * p + u) then 2 else if bit tail (72 + 4 * p + u) then 1 else 0
    setUnitByte (setUnitByte s r p u 7 6 st) r p u 5 4 (subsUsed s r p u)
  let s := s.setFld pg F.TU_SKEW_OFFSET_repair_stage (stage p).toNat
  let s := s.setFld pg F.TU_SKEW_OFFSET_offset (p + ((List.range p).filter stage).length)
  let m := if retired then 5 else if probation then 4 else if (workingOf s r).contains p then 0 else 6
  let s := if probation && !retired then s.setFld (Page.ump r) F.UMP_PROBATION_cluster p else s
  setClusterMode (showUnits s r p) (clusterOf r p) m

def loadRegion (s : State) (r : Nat) : State :=
  let k := regionRec r
  let w (i : Nat) := repairWord s (k + i)
  let p := Page.ump r
  let s := forEach (List.range 4) s fun s i => s.setFld p F.UMP_LMAP_map (w (2 + i)) i
  let s := s.setFld p F.UMP_RETIRED_clusters (w 1)
  let s := (s.setFld p F.UMP_RE_ROWS_LO_rows (w 6)).setFld p F.UMP_RE_ROWS_HI_rows (w 7)
  let s := forEach (List.range 17) s fun s c => loadCluster s r c
  let s := if bit (w 0) 31 then
      forEach (clustersOf r) ((s.setPageMode (Page.rg r) 5).setPageMode (Page.re r) 5) fun s c => setClusterMode s c 5
    else s
  showUmp s r

/-- The channel that serves an index: its own unless retired; else the spare where it serves this index; else the channel
that came back and stands in the spare's place (R266, R270). -/
def servedBy (s : State) (n i : Nat) : Nat :=
  let deep := decide (17 ≤ i)
  let p := Page.stk n
  let spare := if deep then 25 else 16
  let used := (if deep then s.fld p F.STK_SPARE_MAP_deep_used else s.fld p F.STK_SPARE_MAP_near_used) = 1
  let idx := if deep then 17 + s.fld p F.STK_SPARE_MAP_deep_index else s.fld p F.STK_SPARE_MAP_near_index
  if used ∧ i = idx then spare
  else if !channelGone s n i then i
  else if used ∧ !channelGone s n idx then idx
  else if !used ∧ !channelGone s n spare then spare
  else i

/-- A stack's registers from its words. -/
def loadStack (s : State) (n : Nat) : State :=
  let k := stackRec n
  let p := Page.stk n
  let s := forEach (List.range 3) s fun s i => s.setReg (p + 0x40 + 4 * i) (BitVec.ofNat 32 (repairWord s (k + i)))
  let s := s.updStack n fun x =>
    { x with
      serve := forEach (tierIndices false ++ tierIndices true) [] fun m i =>
        if servedBy s n i = i then m else KMap.set m i i (servedBy s n i) }
  let s := s.setFld p F.STK_STATUS_near_spare_used (s.fld p F.STK_SPARE_MAP_near_used)
  let s := s.setFld p F.STK_STATUS_deep_spare_used (s.fld p F.STK_SPARE_MAP_deep_used)
  let w := repairWord s (k + 3)
  let s := if bit w 31 then s.setPageMode p 5 else s
  if bit w 31 || bit w 30 then s.setPageMode (Page.caddie n) 5 else s

/-- A lane's state. -/
def loadLane (s : State) (q l : Nat) : State :=
  let (w, b) := laneRec q l
  if bit (repairWord s w) b then
    { s with lanes := KMap.set s.lanes .init (8 * q + l) { Lane.init with out := true, permanent := true } }
  else s

/-- Step 9. -/
def applyRepair (s : State) : State :=
  let s := forEach (List.range 32) s loadRegion
  let s := forEach (List.range 32) s loadStack
  let s := forEach (List.range 19) s fun s q => forEach (List.range 8) s fun s l => loadLane s q l
  if 9 ≤ (maskBits 64 (engineRows s .solver)).length then s.setPageMode Page.se 5 else s

/-! ## Return of channels and stacks (R269, R270, R403) -/

/-- Did the trainings and tests find fault with a channel, or with a whole stack? -/
def channelFails (fs : List StartFault) (n : Nat) (deep : Bool) (b : Nat) : Bool :=
  fs.any fun f => match f with
    | .channel st d c => st.toNat == n && d == deep && (if c.toNat = 16 then (if deep then 8 else 16) else c.toNat) == b
    | _ => false

def stackFails (fs : List StartFault) (n : Nat) : Bool :=
  fs.any fun f => match f with
    | .stack st => st.toNat == n
    | _ => false

/-- A return-pending channel: trained and tested, it stands by on probation, or stays retired; its mark clears. -/
def returnChannel (fs : List StartFault) (n : Nat) (deep : Bool) (s : State) (b : Nat) : State :=
  let k := stackRec n + (if deep then 7 else 6)
  let s := writeRepair s [(k, repairWord s k - 2 ^ b)]
  if channelFails fs n deep b then s
  else
    let s := setRetiredMask s n deep (retiredMask s n deep - 2 ^ b)
    let ch := if deep then 17 + b else b
    saveStack (s.updStack n fun x => { x with probation := KMap.set x.probation false ch true }) n

/-- A return-pending stack: on a pass its channels serve again and its pages are in probation. -/
def returnStack (fs : List StartFault) (s : State) (n : Nat) : State :=
  let k := stackRec n
  let w := repairWord s (k + 3)
  if !bit w 29 then s
  else
    let s := writeRepair s [(k + 3, w - 2 ^ 29)]
    if stackFails fs n then s
    else
      let s := writeRepair s [(k, 0), (k + 1, 0), (k + 2, 0), (k + 3, 0), (k + 6, 0), (k + 7, 0)]
      let s := loadStack s n
      let s := (s.setPageMode (Page.stk n) 4).setPageMode (Page.caddie n) 4
      s.updStack n fun x => { x with probation := KMap.set x.probation false 26 true }

def returns (fs : List StartFault) (s : State) (n : Nat) : State :=
  let s := returnStack fs s n
  let k := stackRec n
  let s := forEach (maskBits 17 (repairWord s (k + 6))) s (returnChannel fs n false)
  forEach (maskBits 9 (repairWord s (k + 7))) s (returnChannel fs n true)

/-! ## Start tests (step 10) -/

/-- Clusters that are to retire do so: nothing streams yet. -/
def takeovers (s : State) (r : Nat) : State := forEach (umpOf s r).retiring s fun s p => takeover s r p

/-- A fault found assigns a substitute, brings in a spare or retires the resource (R453). What is out already is left. -/
def startFault (s : State) : StartFault → State
  | .unitRows region index rows =>
    let r := region.toNat
    let i := index.toNat
    if 68 ≤ i ∨ bit (s.fld (Page.ump r) F.UMP_RETIRED_clusters) (i / 4) then s
    else
      let s := localise s r i (rows.map BitVec.toNat) false
      let mine := (umpOf s r).subs
      let s := forEach mine s fun s e => switchIn s r e
      let s := saveRegion (showRepair (updUmp s r fun u => { u with subs := [] }) r (i / 4)) r
      takeovers s r
  | .unit region index =>
    let r := region.toNat
    let i := index.toNat
    if 68 ≤ i ∨ bit (s.fld (Page.ump r) F.UMP_RETIRED_clusters) (i / 4) then s else takeovers (retireUnit s r i) r
  | .cluster region c => if 17 ≤ c.toNat then s else takeovers (decideRetire s region.toNat c.toNat) region.toNat
  | .engineRow e row => if bit (engineRows s e) row.toNat then s else retireRow s e row.toNat
  | .region region => retireRegion s region.toNat
  | .channel st deep c =>
    match namedChannel s st.toNat deep c.toNat with
    | some ch => if s.pageRetired (Page.stk st.toNat) then s else retireChannel s st.toNat ch
    | none => s
  | .stack st => if s.pageRetired (Page.stk st.toNat) then s else retireStack s st.toNat
  | .lane q l => if 18 < q.toNat ∨ (laneOf s q.toNat l.toNat).out then s else laneLeaves s q.toNat l.toNat

/-- Step 10: returns, faults, and the ports that train. -/
def startTests (s : State) (t : StartTests) : State :=
  let s := forEach (List.range 32) s (returns t.faults)
  let s := forEach t.faults s startFault
  forEach (List.range 19) s fun s q => if t.ports.getLsbD q then trainPort s q else setMode s q 0

/-- lock_at_ready (Table 19.2). -/
def lockAtReady (s : State) : State :=
  if bits (wordAt (settingsBlob s) 4) 17 17 = 1 then
    forEach [Page.pkg, Page.flash, Page.sm, Page.sp] s fun s p => s.setReg (p + 0x24) 1#32
  else s

/-- Step 11: the map, the Scorecard save where the store was lost, and lock_at_ready. -/
def startRecords (s : State) (changed : Bool) : Option State :=
  let s := if changed then note (setRepairWord s 2 (deviceId s)) Page.pkg Err.pkg_start_repair else s
  match migrateScore s with
  | none => none
  | some s =>
    let s := if s.board.scoreLost then setBoard (loadScore s) fun b => { b with scoreLost := false } else s
    some (lockAtReady s)

/-- Steps 8 to 12, the rails being in tolerance. (DESIGN CHOICE, notes/assumptions/122.md) -/
def startDies (s : State) (t : StartTests) : State :=
  let s := setPower (setBoard s fun b => { b with dies := true }) fun p => { p with gates := p.tripped }
  let s := showPower (s.setFld Page.pkg F.PKG_HUB_trained t.hub.toNat)
  if t.hub ≠ 0xF#4 then raiseDevice s 0xF004 { page := Page.pkg, court := none }
  else
    let s := applyH (setBootPhase s 2) (settingsBlob s)
    let s := if t.repairOk then s else setFlash s fun f => { f with repair := [] }
    match migrateRepair s with
    | none => enterRecovery (railsOff s) true
    | some s =>
      let before := s.flash.repair
      let s := startTests (applyRepair s) t
      let s := if t.repairOk then s else setRepairWord s 1 1
      match startRecords s (s.flash.repair != before || !t.repairOk) with
      | none => enterRecovery (railsOff s) true
      | some s => setBootPhase s 3

/-! ## Steps 2 to 6 -/

/-- Step 2: fuses and strap. -/
def startFuses (s : State) (i : StartInput) : State :=
  let s := s.setFld Page.pkg F.PKG_SERIAL_LO_serial s.fuses.serial.toNat
  let s := s.setFld Page.pkg F.PKG_SERIAL_HI_serial (s.fuses.serial.toNat / 2 ^ 32)
  let s := s.setFld Page.pkg F.PKG_FW_CTL_fuse_counter s.fuses.counter
  let s := s.setFld Page.sb F.SB_ADDR_strap i.strap.toNat
  s.setFld Page.sb F.SB_ADDR_address (0x58 + i.strap.toNat)

/-- confirm_pending at a start (R460). -/
def startConfirm (s : State) : State :=
  if headerUnconfirmed s then note (s.setFld Page.pkg F.PKG_FW_CTL_confirm_pending 1) Page.pkg Err.pkg_confirm_pending
  else s.setFld Page.pkg F.PKG_FW_CTL_confirm_pending 0

/-- Steps 5 and 6, and on to ready where power-good stands. -/
def startVerify (s : State) (i : StartInput) : State :=
  let s := s.setFld Page.pkg F.PKG_BOOT_image_reason (imageReason s s.flash.active)
  if imageReason s s.flash.active ≠ 0 then enterRecovery s i.settingsOk
  else if !i.settingsOk then enterRecovery s false
  else match migrateSettings s with
    | none => enterRecovery s true
    | some s =>
      let b := settingsBlob s
      let s := startConfirm (applyPkg (applySp s b) b)
      let s := setBootPhase (setBoard s fun x => { x with starting := none }) 1
      if s.board.pwrgood then startDies s i.tests else s

/-- Step 4: a pending copy goes on while HOLDUP_OK stands; a sector that fails twice raises flash-error. -/
def startCopy (s : State) (i : StartInput) (n : Nat) : State :=
  if s.fld Page.pkg F.PKG_HOLDUP_holdup_ok = 0 then s
  else match i.badSector with
    | some b =>
      if s.flash.copied ≤ b.toNat ∧ b.toNat < s.flash.total ∧ b.toNat < s.flash.copied + n then
        enterRecovery (flashError (copySome s (b.toNat - s.flash.copied))) i.settingsOk
      else
        let s := copySome s n
        if copyPending s then s.setFld Page.pkg F.PKG_HOLDUP_holdup_ok 0 else startVerify s i
    | none =>
      let s := copySome s n
      if copyPending s then s.setFld Page.pkg F.PKG_HOLDUP_holdup_ok 0 else startVerify s i

/-- Step 3 on: the flash and its directory. -/
def startFlash (s : State) (i : StartInput) : State :=
  let s := setBoard s fun b => { b with atStep3 := false }
  if !i.flashOk then enterRecovery (flashError s) i.settingsOk
  else
    let s := setFlash s fun f => { f with bootCount := (f.bootCount + 1) % 65536 }
    let s := s.setFld Page.pkg F.PKG_BOOT_boot_count s.flash.bootCount
    let s := s.setFld Page.pkg F.PKG_ACT_STAT_outcome s.flash.act
    let s := showJournal (s.setFld Page.flash F.FLASH_CFG_mode 1)
    if copyPending s then startCopy (note s Page.flash Err.flash_copy_resumed) i i.sectors.toNat
    else startVerify s i

/-- PACKAGE_START: steps 2 to 6, which wait at step 3 for V1P8 and at step 4 for HOLDUP_OK. (PRESUMED, notes/assumptions/119.md) -/
def execPackageStart (i : StartInput) (s : State) : Host.Outcome State Fault Refusal :=
  if s.board.aux && bootPhase s == 0 && s.board.starting.isNone then
    effect s fun s =>
      let s := startFuses (setBoard s fun b => { b with starting := some i }) i
      if s.board.v1p8 then startFlash s i else setBoard s fun b => { b with atStep3 := true }
  else turnedAway s

/-- V1P8 reaches tolerance. -/
def execV1p8InTolerance (s : State) : Host.Outcome State Fault Refusal :=
  if !s.board.aux || s.board.v1p8 then turnedAway s
  else effect s fun s =>
    let s := setBoard s fun b => { b with v1p8 := true }
    match s.board.starting with
    | some i => if s.board.atStep3 then startFlash s i else s
    | none => s

/-- HOLDUP_OK changes; a waiting copy resumes when it asserts, to its end or to the sector that fails. -/
def execHoldupOkChange (level : Bool) (s : State) : Host.Outcome State Fault Refusal :=
  if !s.board.aux || s.fld Page.pkg F.PKG_HOLDUP_holdup_ok == level.toNat then turnedAway s
  else effect s fun s =>
    let s := s.setFld Page.pkg F.PKG_HOLDUP_holdup_ok level.toNat
    match s.board.starting with
    | some i => if level && !s.board.atStep3 && copyPending s then startCopy s i 1024 else s
    | none => s

/-- PWRGOOD asserts: steps 7 to 12 where step 6 is done; else the start goes on to them later. -/
def execPwrgoodAssert (t : StartTests) (s : State) : Host.Outcome State Fault Refusal :=
  if !s.board.aux || s.board.pwrgood then turnedAway s
  else effect s fun s =>
    let s := setBoard s fun b => { b with pwrgood := true }
    if bootPhase s = 1 then startDies s t else s

/-- PWRGOOD asserts and an on-package rail misses its limit: the regulators turn off again (R472). -/
def execRegulatorStartTimeout (s : State) : Host.Outcome State Fault Refusal :=
  if s.board.aux && !s.board.pwrgood && bootPhase s == 1 then
    effect s fun s => snsErr (setBoard s fun b => { b with pwrgood := true }) Err.sns_rail_fault
  else turnedAway s

/-- A reference clock is lost: 0 to 3 REFCLK_ETHn, 4 REFCLK_SYS (R481). -/
def clockPorts (c : Nat) : List Nat :=
  match c with
  | 0 => List.range 7
  | 1 => (List.range 6).map (7 + ·)
  | 2 => (List.range 6).map (13 + ·)
  | _ => []

def execRefclkLoss (clock : BitVec 3) (s : State) : Host.Outcome State Fault Refusal :=
  match clock.toNat with
  | 3 => if s.board.aux && !s.board.spDown then effect s spDown else turnedAway s
  | 4 => if s.board.pwrgood then effect s fun s => raiseDevice (s.setFld Page.pkg F.PKG_HUB_trained 0) 0xF004 { page := Page.pkg, court := none }
    else turnedAway s
  | c => effect s fun s => forEach (clockPorts c) s fun s q => if portMode s q = 0 then s else linkDown s q

end Sys2Proof.Machine
end

