-- ==== Sys2Proof/Machine/Firmware.lean ====
section
/-! DEFINITION. Transfers over FLASH, confirm and install, activation, and attestation (19_firmware_and_trust.md R449,
R454 to R457, R461, R464). -/

namespace Sys2Proof.Machine

/-! ## Transfers (R449) -/

def xferState (s : State) : Nat := s.fld Page.flash F.FLASH_XFER_STAT_state
def setXferState (s : State) (v reason : Nat) : State :=
  (s.setFld Page.flash F.FLASH_XFER_STAT_state v).setFld Page.flash F.FLASH_XFER_STAT_reason reason

def updateLocked (s : State) : Bool := s.fld Page.pkg F.PKG_FW_CTL_update_lock == 1
def actArmed (s : State) : Bool := s.fld Page.pkg F.PKG_ACT_ARM_armed == 1

/-- The staged image counts as absent. -/
def unstage (s : State) : State := s.setReg (Page.flash + 0x50) 0#32

def xferBegin (s : State) (settings : Bool) : State × Nat :=
  if !settings && (updateLocked s || actArmed s) then (s, RegStatus.denied)
  else
    let s := if actArmed s then actDrop s 3 else s
    let s := if settings then s else unstage s
    (setXferState { s with xfer := some ⟨settings, 0, [], 0⟩ } 1 0, RegStatus.ok)

/-- Bytes that a transfer may hold. -/
def xferRoom (x : Xfer) : Nat := if x.settings then 65536 else 2 ^ 25

def winBytes (s : State) : List Byte :=
  wordBytes ((List.range 512).map fun i => s.fld Page.flash F.FLASH_WIN_data i)

/-- cmd 3: a chunk at the next offset. -/
def xferChunk (s : State) : State × Nat :=
  match s.xfer with
  | none => (s, RegStatus.denied)
  | some x =>
    let off := s.fld Page.flash F.FLASH_XFER_OFF_offset
    if xferState s ≠ 1 then (s, RegStatus.denied)
    else if off ≠ x.next ∨ xferRoom x ≤ off then (s, RegStatus.range)
    else (setXferState { s with xfer := some { x with doing := 3 } } 2 0, RegStatus.ok)

/-- cmd 4: verification of what was received. -/
def xferVerify (s : State) : State × Nat :=
  match s.xfer with
  | none => (s, RegStatus.denied)
  | some x => (setXferState { s with xfer := some { x with doing := 4 } } 2 0, RegStatus.ok)

def xferAbandon (s : State) : State × Nat :=
  (setXferState (unstage { s with xfer := none }) 0 0, RegStatus.ok)

/-- The write of FLASH_XFER_CTL. -/
def xferCtl (s : State) (v : Nat) : State × Nat :=
  if !bit v 31 then (s, RegStatus.ok)
  else if xferState s = 2 then (s, RegStatus.denied)
  else match bits v 18 16 with
  | 1 => xferBegin s false
  | 2 => xferBegin s true
  | 3 => xferChunk s
  | 4 => xferVerify s
  | 5 => xferAbandon s
  | _ => (s, RegStatus.range)

def xferCtlOff : Nat := Page.flash + 0x44
/-- A write of FLASH_XFER_CTL with go and a command (R445) (DESIGN CHOICE, notes/assumptions/124.md). -/
def xferCmd (h : RegHdr) (k : Nat) (s : State) : Host.Outcome State Fault Refusal :=
  regCommand s h xferCtlOff fun s => xferCtl s (2 ^ 31 + k * 2 ^ 16)

def execFlashBeginFirmware (h : RegHdr) (s : State) : Host.Outcome State Fault Refusal := xferCmd h 1 s
def execFlashBeginSettings (h : RegHdr) (s : State) : Host.Outcome State Fault Refusal := xferCmd h 2 s
def execFlashChunk (h : RegHdr) (s : State) : Host.Outcome State Fault Refusal := xferCmd h 3 s
def execFlashVerify (h : RegHdr) (s : State) : Host.Outcome State Fault Refusal := xferCmd h 4 s
def execFlashAbandon (h : RegHdr) (s : State) : Host.Outcome State Fault Refusal := xferCmd h 5 s

/-- A chunk of the staging slot programs; the first one of a sector erases it. -/
def stageChunk (s : State) (k : Nat) : State :=
  setFlash s fun f =>
    let cs := if k % sectorChunks = 0 then f.staging.chunks.filter fun e => e.1 / sectorChunks != k / sectorChunks
      else f.staging.chunks
    { f with staging := ⟨false, KMap.set cs [] k (winBytes s)⟩ }

/-- A chunk is in its place. -/
def chunkDone (s : State) (x : Xfer) : State :=
  let s := if x.settings then s else stageChunk s (x.next / chunkBytes)
  let buf := if x.settings then x.buffer ++ winBytes s else []
  setXferState { s with xfer := some { x with next := x.next + chunkBytes, buffer := buf, doing := 0 } } 1 0

/-- A verification ends: a blob that passes is written, an image that passes may be activated. -/
def verifyDone (s : State) (x : Xfer) : State :=
  let s := { s with xfer := some { x with doing := 0 } }
  let reject (s : State) (r : Nat) : State := note (setXferState s 4 r) Page.flash Err.flash_image_rejected
  if x.settings then
    if blobOk x.buffer then
      setXferState { (writeSettings s (x.buffer.take (wordAt x.buffer 2))) with xfer := none } 5 0
    else reject s 1
  else
    let s := s.setReg (Page.flash + 0x50) (BitVec.ofNat 32 (imgVersion (slotHeader s.flash.staging)))
    match imageReason s s.flash.staging with
    | 0 => setXferState s 3 0
    | r => reject s r

def execFlashXferDone (s : State) : Host.Outcome State Fault Refusal :=
  match s.xfer with
  | some x =>
    if xferState s ≠ 2 then turnedAway s
    else if x.doing = 3 then effect s fun s => chunkDone s x
    else if x.doing = 4 then effect s fun s => verifyDone s x
    else turnedAway s
  | none => turnedAway s

/-! ## PKG_FW_CMD (R450, R452, R455, R461) -/

/-- cmd 1: the fuse counter rises, the active header is confirmed, and the retained area is erased. -/
def fwConfirm (s : State) : State × Nat :=
  if s.fld Page.pkg F.PKG_FW_CTL_confirm_pending = 0 then (s, RegStatus.denied)
  else
    let h := slotHeader s.flash.active
    let s := { s with fuses := { s.fuses with counter := max s.fuses.counter (min (imgSecurity h) 255) } }
    let s := setFlash s fun f => { f with confirmed := some (sm3 h), retained := ⟨none, none, none⟩ }
    ((s.setFld Page.pkg F.PKG_FW_CTL_fuse_counter s.fuses.counter).setFld Page.pkg F.PKG_FW_CTL_confirm_pending 0, RegStatus.ok)

/-- cmd 2: in recovery, the copy of a verified image and then a package reset; none where it is refused. A copy that lasts
into a loss of HOLDUP_OK goes on at the start. -/
def fwInstall (s : State) : Option State :=
  if bootPhase s = 4 ∧ s.fld Page.pkg F.PKG_HOLDUP_holdup_ok = 1 ∧ !updateLocked s ∧ xferState s = 3 then
    some (pkgReset (copySome (armCopy s) 1024) 3)
  else none

/-- cmd 4: an unfired arm is cancelled. -/
def fwCancel (s : State) : State × Nat := (if actArmed s then actDrop s 6 else s, RegStatus.ok)

/-- Those writes of PKG_FW_CMD that reset the package: the state after the reset, or none where the write is another. -/
def fwReset (s : State) (v : Nat) : Option State :=
  if !bit v 31 then none
  else match bits v 18 16 with
  | 2 => fwInstall s
  | 3 => some (pkgReset s 3)
  | _ => none

/-- The other writes of PKG_FW_CMD. -/
def fwCmd (s : State) (v : Nat) : State × Nat :=
  if !bit v 31 then (s, RegStatus.ok)
  else match bits v 18 16 with
  | 1 => fwConfirm s
  | 2 => (s, RegStatus.denied)
  | 4 => fwCancel s
  | _ => (s, RegStatus.range)

def fwCmdOff : Nat := Page.pkg + 0x5C

def execFwConfirm (h : RegHdr) (s : State) : Host.Outcome State Fault Refusal :=
  regCommand s h fwCmdOff fun s => fwCmd s (2 ^ 31 + 1 * 2 ^ 16)

def execFwCancelArm (h : RegHdr) (s : State) : Host.Outcome State Fault Refusal :=
  regCommand s h fwCmdOff fun s => fwCmd s (2 ^ 31 + 4 * 2 ^ 16)

def execFwInstall (h : RegHdr) (s : State) : Host.Outcome State Fault Refusal :=
  resetCommand s h fwCmdOff fun s => fwReset s (2 ^ 31 + 2 * 2 ^ 16)

def execFwReset (h : RegHdr) (s : State) : Host.Outcome State Fault Refusal :=
  resetCommand s h fwCmdOff fun s => fwReset s (2 ^ 31 + 3 * 2 ^ 16)

/-! ## Activation (R454 to R457) -/

/-- Is the armed number at or below the group's last decision? -/
def actDecided (s : State) (group : Nat) : Bool :=
  match groupIndex s group with
  | some i => numDecided (Sys2Proof.Machine.group s i) (actNum s)
  | none => false

/-- The cause of a refusal in PKG_ACT_STAT.refusal, and its status; 0 where the arm stands. -/
def armRefusal (s : State) (group : Nat) : Nat :=
  if updateLocked s then 1
  else if anyWindow s then 2
  else if s.fld Page.pkg F.PKG_HOLDUP_holdup_ok = 0 then 3
  else if xferState s ≠ 3 then 4
  else if actDecided s group then 5
  else 0

/-- The write of PKG_ACT_ARM: with armed 1 it arms at (group, h); with armed 0 it withdraws an unfired arm. (DESIGN CHOICE, notes/assumptions/125.md) -/
def actArm (s : State) (v : Nat) : State × Nat :=
  let g := bits v 15 0
  if !bit v 31 then ((if actArmed s then actDrop s 6 else s).setFld Page.pkg F.PKG_ACT_ARM_group g, RegStatus.ok)
  else
    let r := armRefusal s g
    let s := s.setFld Page.pkg F.PKG_ACT_STAT_refusal r
    if r = 5 then (s, RegStatus.range)
    else if r ≠ 0 then (s, RegStatus.denied)
    else
      let s := s.setFld Page.pkg F.PKG_ACT_ARM_group g
      ((s.setFld Page.pkg F.PKG_ACT_ARM_armed 1).setFld Page.pkg F.PKG_ACT_STAT_outcome 1, RegStatus.ok)

def execActivationArm (h : RegHdr) (group : BitVec 16) (s : State) : Host.Outcome State Fault Refusal :=
  regCommand s h (Page.pkg + 0x60) fun s => actArm s (2 ^ 31 + group.toNat)

/-- The write of PKG_FW_CTL: update_lock set to 1 drops an unfired arm. -/
def fwCtl (s : State) (v : Nat) : State × Nat :=
  let s := s.setFld Page.pkg F.PKG_FW_CTL_update_lock (v % 2)
  (if v % 2 = 1 ∧ actArmed s then actDrop s 3 else s, RegStatus.ok)

/-- Steps 3 to 6 of R456. -/
def activate (s : State) : State :=
  let s := forEach (List.range 16) s fun s n =>
    if s.courtCreated n then
      let s := noteIn (abortCourt s n 2 0x0111) (Page.court n) Err.court_court_aborted (some n)
      notice s (some n) 2 [0x0111, 0]
    else s
  let s := note s Page.pkg Err.pkg_act_restart
  let s := storeScImage s (scImage s)
  let s := armCopy (s.setFld Page.pkg F.PKG_ACT_STAT_outcome 2)
  pkgReset s 4

/-- ACTIVATION_RESTART: the package drains and every window is closed. -/
def execActivationRestart (s : State) : Host.Outcome State Fault Refusal :=
  if s.draining && !anyWindow s then effectReset s activate else turnedAway s

/-- ACTIVATION_WINDOW_TIMEOUT: windows open 10 s into the drain are discarded. -/
def execActivationWindowTimeout (s : State) : Host.Outcome State Fault Refusal :=
  if s.draining && anyWindow s then
    effect s fun s => forEach (s.caddies.map (·.1)) s fun s n =>
      if (caddie s n).window.isSome then discardCaddie s n none else s
  else turnedAway s

/-! ## Attestation (R464) -/

/-- The signed bytes of a report (Table 19.7). (DESIGN CHOICE, notes/assumptions/129.md) -/
def reportBody (s : State) : List Byte :=
  let h := slotHeader s.flash.active
  let locks := ([Page.pkg, Page.flash, Page.sm, Page.sp].zip (List.range 4)).foldl (fun v e =>
    v + (s.reg (e.1 + 0x24)).toNat % 2 * 2 ^ e.2) 0
  let blob := settingsBlob s
  let be (v : Nat) : List Byte := beBytes 4 v
  be 0xA77E0100
    ++ be (deviceId s * 65536 + 0xA1 * 256 + wordAt h 1 / 2 ^ 24)
    ++ be (bits (wordAt h 1) 23 16 * 2 ^ 24 + imgSecurity h)
    ++ be (s.fld Page.pkg F.PKG_FW_CTL_confirm_pending * 2 ^ 31 + s.fld Page.pkg F.PKG_FW_CTL_update_lock * 2 ^ 30
        + s.fuses.counter * 65536 + locks)
    ++ beBytes 8 s.fuses.serial.toNat
    ++ be (s.fld Page.pkg F.PKG_BOOT_boot_count)
    ++ be ((s.fld Page.mc F.MC_ATTEST_STAT_seq + 1) % 65536)
    ++ (List.range 8).flatMap (fun i => be (s.fld Page.mc F.MC_NONCE_nonce i))
    ++ sm3 h ++ sm3 (blob.take (wordAt blob 2))
    ++ be (repairWord s 1) ++ beBytes 8 s.lastHuddle ++ List.replicate 52 0#8

/-- The write of MC_ATTEST: with go, a report over the nonce is being signed. -/
def attestGo (s : State) (v : Nat) : State × Nat :=
  if bit v 31 then (({ s with attest := some (reportBody s) } : State).setFld Page.mc F.MC_ATTEST_STAT_state 1, RegStatus.ok)
  else (s, RegStatus.ok)

def execAttest (h : RegHdr) (s : State) : Host.Outcome State Fault Refusal :=
  regCommand s h (Page.mc + 0x70) fun s => attestGo s (2 ^ 31)

/-- ATTEST_DONE: the report with its signature, whose 64 bytes are the engine's own. -/
def execAttestDone (s : State) : Host.Outcome State Fault Refusal :=
  match s.attest with
  | none => turnedAway s
  | some b => effect s fun s =>
      let sig := (List.range 64).map (Config.freeByte s.freeCount)
      let s := { s with attest := none, report := b ++ sig, freeCount := s.freeCount + 1 }
      let s := s.setFld Page.mc F.MC_ATTEST_STAT_seq (s.fld Page.mc F.MC_ATTEST_STAT_seq + 1)
      s.setFld Page.mc F.MC_ATTEST_STAT_state 2

/-! ## Test access (20_package_and_pins.md R485) -/

/-- The TAP's current instruction; it leaves Test-Logic-Reset. -/
def tapShift (s : State) (i : TapInstr) : State :=
  (setBoard s fun b => { b with tap := i }).setFld Page.dbg F.DBG_STAT_tap_active 1

/-- Is the TAP out of reset? -/
def tapUp (s : State) : Bool := s.board.aux && s.fld Page.dbg F.DBG_STAT_trst == 0

/-- An instruction that disturbs nothing. -/
def tapPlain (s : State) (i : TapInstr) : Host.Outcome State Fault Refusal :=
  if tapUp s then effect s fun s => tapShift s i else turnedAway s

/-- An instruction that the TAP does not permit now runs as BYPASS. -/
def tapRefuse (s : State) : State := note (tapShift s .bypass) Page.dbg Err.dbg_tap_refused

/-- An instruction that takes effect only while PWRGOOD is deasserted. -/
def tapDisrupt (s : State) (i : TapInstr) : Host.Outcome State Fault Refusal :=
  if !tapUp s then turnedAway s
  else if s.board.pwrgood then effect s tapRefuse
  else effect s fun s => tapShift s i

def execBypass (s : State) : Host.Outcome State Fault Refusal := tapPlain s .bypass
def execIdcode (s : State) : Host.Outcome State Fault Refusal :=
  if tapUp s then effect s fun s => (tapShift s .idcode).send ⟨.tap, 0x100, [0x15A32593], []⟩ else turnedAway s
def execSamplePreload (s : State) : Host.Outcome State Fault Refusal := tapPlain s .sample
def execExtest (s : State) : Host.Outcome State Fault Refusal := tapDisrupt s .extest
def execExtestPulse (s : State) : Host.Outcome State Fault Refusal := tapDisrupt s .extestPulse
def execExtestTrain (s : State) : Host.Outcome State Fault Refusal := tapDisrupt s .extestTrain
def execClamp (s : State) : Host.Outcome State Fault Refusal := tapDisrupt s .clamp
def execHighz (s : State) : Host.Outcome State Fault Refusal := tapDisrupt s .highz

/-- TRST_N changes; asserted, it holds the TAP in Test-Logic-Reset. (DESIGN CHOICE, notes/assumptions/130.md) -/
def execTrstNChange (asserted : Bool) (s : State) : Host.Outcome State Fault Refusal :=
  if !s.board.aux || s.fld Page.dbg F.DBG_STAT_trst == asserted.toNat then turnedAway s
  else effect s fun s =>
    let s := s.setFld Page.dbg F.DBG_STAT_trst asserted.toNat
    if asserted then (setBoard s fun b => { b with tap := .idcode }).setFld Page.dbg F.DBG_STAT_tap_active 0 else s

end Sys2Proof.Machine
end

