-- ==== Sys2Proof/Machine/Illegal.lean ====
section
/-! DEFINITION. The reason an instruction word is illegal, from its 128 bits, and an illegal word at issue
(09_ablos_encoding.md R197 to R216, Tables 9.1 to 9.14). -/

namespace Sys2Proof.Machine

/-- Is a word zero outside the header and bits [hi:lo]? -/
def onlyBits (w hi lo : Nat) : Bool := bits w 23 19 == 0 && (w / 2 ^ 24 * 2 ^ 24 == bits w hi lo * 2 ^ lo)

/-- Is a word zero outside the header? -/
def bareWord (w : Nat) : Bool := bits w 23 19 == 0 && w / 2 ^ 24 == 0

def fieldOf (n w lo : Nat) : BitVec n := BitVec.ofNat n (w / 2 ^ lo)

/-- The header's fields. -/
def wordHdr (region : BitVec 5) (task : Bool) (w : Nat) : Hdr := ⟨region, task, bit w 8, fieldOf 3 w 9, fieldOf 7 w 12⟩

/-- The common vector fields (Table 9.9). -/
def wordVec (w : Nat) : VecOp :=
  ⟨fieldOf 5 w 24, fieldOf 5 w 29, fieldOf 5 w 34, fieldOf 5 w 39, fieldOf 3 w 44, bit w 47, fieldOf 2 w 48, bit w 50⟩

/-- Reason 0x03 where bits beyond the op's fields are set. -/
def reserved3 (ok : Bool) (other : Nat) : Nat := if ok then other else 3

/-! Reasons by class, 0 where the word is legal; the class's ops beyond its tables give 0x02. -/

/-- Control (Table 9.4). -/
def controlReason (s : State) (h : Hdr) (w op : Nat) : Nat :=
  let target := if badTarget s h (bits w 63 32) then 7 else 0
  match op with
  | 0 => reserved3 (bareWord w) 0
  | 1 => reserved3 (bits w 23 19 == 0 && bits w 31 28 == 0 && bits w 127 80 == 0) 0
  | 2 => reserved3 (bits w 23 19 == 0 && bits w 31 28 == 0 && bits w 127 64 == 0) 0
  | 3 => reserved3 (bits w 23 19 == 0 && bits w 31 28 == 0 && bits w 127 64 == 0) (if bits w 27 26 = 0 then 0 else 6)
  | 4 => reserved3 (bits w 23 19 == 0 && bits w 31 28 == 0 && bits w 127 64 == 0) (if bits w 27 26 = 0 then target else 6)
  | 5 => reserved3 (bits w 31 19 == 0 && bits w 127 64 == 0) target
  | 6 => reserved3 (bareWord w) (if h.task then 9 else 0)
  | 7 => reserved3 (bareWord w) (if h.task then 9 else 0)
  | 8 => reserved3 (bareWord w) (if h.task then 0 else 9)
  | _ => 2

/-- Matrix (Table 9.5). -/
def matrixWordReason (s : State) (h : Hdr) (w op : Nat) : Nat :=
  if op ≠ 0 then 2
  else reserved3 (bits w 23 19 == 0) <| matrixReason s h
    { start := bit w 24, drain := bit w 25, swap := bit w 26, tap := bit w 27, tapIndex := fieldOf 3 w 28
      opens := bit w 31, closes := bit w 32, depth := fieldOf 4 w 33, tile := fieldOf 5 w 37, lenM1 := fieldOf 6 w 42
      wfmt := fieldOf 4 w 48, afmt := fieldOf 4 w 52, srcPb := bit w 56, src := ⟨fieldOf 4 w 57, fieldOf 32 w 61⟩
      scaleAreg := fieldOf 4 w 93, rowBase := fieldOf 31 w 97 }

/-- Rows of a closed result at the places of Tables 9.7, 9.8 and 9.12. -/
def wordRows (w : Nat) : RowsOp := ⟨fieldOf 4 w 24, bit w 28, fieldOf 6 w 29, fieldOf 12 w 35, fieldOf 12 w 47⟩

def joinReason (s : State) (h : Hdr) (w at_ : Nat) : Nat :=
  if rowsReason (wordRows w) ≠ 0 then 3 else if pbBeyond s h (fieldOf 8 w at_) then 8 else 0

/-- Accumulate and egress (Tables 9.6 to 9.8). -/
def accReason (s : State) (h : Hdr) (w op : Nat) : Nat :=
  match op with
  | 0 => reserved3 (onlyBits w 110 24) <| preloadReason
      { tile := fieldOf 5 w 24, wlog2 := fieldOf 2 w 29, units := fieldOf 4 w 31, offExplicit := bit w 35
        offset := fieldOf 6 w 36, opens := bit w 42, depth := fieldOf 4 w 43, posBase := fieldOf 12 w 47
        rowsM1 := fieldOf 12 w 59, srcFmt := fieldOf 4 w 71, src := ⟨fieldOf 4 w 75, fieldOf 32 w 79⟩ }
  | 1 => reserved3 (onlyBits w 66 24) (joinReason s h w 59)
  | 2 =>
    let o : RowsOp := ⟨fieldOf 4 w 24, bit w 28, fieldOf 6 w 29, fieldOf 12 w 36, fieldOf 12 w 48⟩
    reserved3 (onlyBits w 125 24) <| egressReason s h o
      { dstPb := bit w 35, tfmt := fieldOf 4 w 60, rnd := fieldOf 2 w 64, sat := bit w 66, fop := fieldOf 2 w 67
        fshape := fieldOf 2 w 69, ffmt := fieldOf 4 w 71, fcs := fieldOf 15 w 75, dst := ⟨fieldOf 4 w 90, fieldOf 32 w 94⟩ }
  | _ => 2

/-- Highest func code of a vector op (Table 9.10). -/
def topFunc (op : Nat) : Nat :=
  match op with
  | 0 => 4 | 2 => 2 | 3 => 4 | 4 => 5 | 5 => 3 | 10 => 2 | 11 => 2 | _ => 0

/-- The reason of a vector word whose func is defined. -/
def vecOpReason (w op func : Nat) : Nat :=
  let o := wordVec w
  let tail (hi : Nat) (other : Nat) : Nat := reserved3 (onlyBits w hi 24) other
  let packed := isPacked (fieldOf 4 w 55)
  match op with
  | 0 => tail 54 (veReason o true true true false 0)
  | 1 => tail 54 (veReason o true true true true 0)
  | 2 => tail 54 (veReason o true true false false 0)
  | 3 => tail 54 (veReason o true true (func == 0) false 0)
  | 4 => tail 57 (veReason o false true true false 0)
  | 5 => tail 63 (veReason o false false false false (if func = 3 ∧ bits w 63 61 ≠ 0 then 3 else 0))
  | 6 => tail 58 (veReason o true true packed false (if 2 ≤ bits w 58 55 ∧ bits w 58 55 ≤ 13 then 0 else 5))
  | 7 =>
    let other := tileReadReason ⟨fieldOf 12 w 55, bit w 67, fieldOf 2 w 68, fieldOf 3 w 70, bit w 73, fieldOf 6 w 74⟩
    tail 79 (if other = 3 then 3 else veReason o true false false false other)
  | 8 =>
    let m : VecMem := ⟨fieldOf 21 w 55, fieldOf 4 w 76, fieldOf 4 w 80, fieldOf 21 w 84⟩
    tail 104 (veReason o true false (isPacked m.fmt) false (memReason m))
  | 9 =>
    let m : VecMem := ⟨fieldOf 21 w 55, fieldOf 4 w 76, fieldOf 4 w 80, fieldOf 21 w 84⟩
    tail 104 (veReason o false true (isPacked m.fmt) false (memReason m))
  | 10 => tail 57 (veReason o true true false false (if bits w 57 55 = 0 then 6 else 0))
  | 11 => if func = 2 then tail 121 (veReason o true true false false 0) else tail 54 (veReason o true false false false 0)
  | 12 => tail 118 (veReason o false false false false 0)
  | 13 => tail 86 (veReason o true false false false 0)
  | _ => 2

/-- Vector: an undefined func is a value out of range, after the reserved bits and formats. -/
def vectorReason (w op : Nat) : Nat :=
  let func := bits w 54 51
  if 14 ≤ op then 2
  else
    let r := vecOpReason w op (min func (topFunc op))
    if topFunc op < func then (if r = 0 ∨ 6 < r then 6 else r) else r

/-- Tap (Table 9.11). -/
def tapReason (w op : Nat) : Nat :=
  match op with
  | 0 => reserved3 (onlyBits w 62 24) 0
  | 1 => reserved3 (onlyBits w 26 24) 0
  | _ => 2

/-- Moves (Table 9.12). -/
def moveReason (s : State) (h : Hdr) (w op : Nat) : Nat :=
  let pbMove : PbMoveOp :=
    ⟨fieldOf 8 w 24, bit w 32, fieldOf 16 w 33, fieldOf 21 w 49, ⟨fieldOf 4 w 70, fieldOf 32 w 74⟩, fieldOf 4 w 106⟩
  match op with
  | 0 => reserved3 (onlyBits w 99 24) <| loadReason
      { wfmt := fieldOf 4 w 24, mask := fieldOf 16 w 28, stride := fieldOf 8 w 44, roundAware := bit w 52
        version := fieldOf 2 w 53, lag := fieldOf 8 w 55, narrow := bit w 99 }
  | 1 => reserved3 (bits w 23 19 == 0) 0
  | 2 => reserved3 (bits w 23 19 == 0) 0
  | 3 => reserved3 (onlyBits w 66 24) (joinReason s h w 59)
  | 4 => reserved3 (onlyBits w 109 24) (pbMoveReason s h pbMove)
  | 5 => reserved3 (onlyBits w 109 24) (pbMoveReason s h pbMove)
  | 6 => reserved3 (onlyBits w 111 24) 0
  | 7 => reserved3 (onlyBits w 119 24) 0
  | _ => 2

/-- Valve, bench and huddle (Table 9.13). -/
def sideReason (s : State) (h : Hdr) (w cls op : Nat) : Nat :=
  match cls, op with
  | 7, 0 => reserved3 (onlyBits w 96 24) 0
  | 7, 1 => reserved3 (onlyBits w 95 24) 0
  | 7, 2 => reserved3 (onlyBits w 95 24) 0
  | 8, 0 => reserved3 (onlyBits w 71 24) (if badTarget s h (bits w 55 24) then 7 else if h.task then 9 else 0)
  | 8, 1 => reserved3 (bareWord w) (if h.task then 9 else 0)
  | 9, 0 => reserved3 (onlyBits w 76 24) 0
  | 9, 1 => reserved3 (onlyBits w 76 24) 0
  | 9, 2 => reserved3 (onlyBits w 76 24) 0
  | _, _ => 2

/-- The lowest reason the word's own fields give. -/
def fieldReason (s : State) (h : Hdr) (w : Nat) : Nat :=
  let op := bits w 7 4
  match bits w 3 0 with
  | 0 => controlReason s h w op
  | 1 => matrixWordReason s h w op
  | 2 => accReason s h w op
  | 3 => vectorReason w op
  | 4 => tapReason w op
  | 5 => if op = 0 then reserved3 (onlyBits w 59 24) 0 else 2
  | 6 => moveReason s h w op
  | 7 => sideReason s h w 7 op
  | 8 => sideReason s h w 8 op
  | 9 => sideReason s h w 9 op
  | _ => 1

/-- Does the next word follow this one: every word but jump, halt and task_end? -/
def fallsThrough (w : Nat) : Bool := !(bits w 3 0 == 0 && (bits w 7 4 == 5 || bits w 7 4 == 7 || bits w 7 4 == 8))

/-- The lowest reason of Table 9.14 of the next word of a program; 0 where it is legal. (DESIGN CHOICE, notes/assumptions/42.md) -/
def wordReason (s : State) (h : Hdr) (w : Nat) : Nat :=
  let r := fieldReason s h w
  if r ≠ 0 ∧ r < 7 then r
  else if fallsThrough w ∧ (s.region h.region.toNat).codeCount ≤ (s.prog h).pc + 1 then 7 else r

/-- ILLEGAL_INSTRUCTION: the next word of a region's program is illegal and reaches issue; a legal word is no such
command. -/
def execIllegalInstruction (region : BitVec 5) (task : Bool) (word : BitVec 128) (s : State) :
    Host.Outcome State Fault Refusal :=
  let h := wordHdr region task word.toNat
  let r := wordReason s h word.toNat
  if r = 0 then turnedAway s else issue s h r false .yes id

end Sys2Proof.Machine
end

