-- ==== Sys2Proof/Machine/RegView.lean ====
section
/-! DEFINITION. What a register reads as: the stored value, or what the device shows there (02_register_pages.md R44 to R50,
R55, R58; the RO/V registers of the block chapters). -/

namespace Sys2Proof.Machine

/-! ## The header (Tables 2.2 to 2.10) -/

/-- Defined error bits of a page: those of the header and the block's own (Table 2.9 and the block chapters). -/
def Block.errBits : Block → Nat
  | .tu => 0x7F007D | .acc => 0x1FF007D | .ve => 0xF007D | .st => 0x1FF007D | .re => 0xFF007D | .rg => 0x3FF007D
  | .stk => 0x7FF007D | .caddie => 0x7FFF007D | .ce => 0x7FC007D | .chesy => 0x7007D | .eth => 0xF007D | .h => 0x17007D
  | .court => 0x7007D | .se => 0x3FF007D | .ump => 0x3FF007D | .sns => 0x3F007D | .pkg => 0x1F007D | .flash => 0x7007D
  | .sp => 0x3007D | .sb => 0x7007D | .dbg => 0x1007D | .mc => 0x7D | .sm => 0x7D | .sc => 0x7D | .ctr => 0x7D

/-- Does the block of a page hold accepted work that has not completed? -/
def pageWork (s : State) (b : Block) (i off : Nat) : Bool :=
  match pageRegion off with
  | some r => if b = .re then rootQueue s r != [] else if b = .ump then false else regionWork s r || (s.region r).started
  | none =>
    match b with
    | .caddie => (caddie s i).window.isSome || (caddie s i).rebuilding
    | .ce => s.runs != [] || s.groups.any fun e => e.2.out != []
    | .se => s.jobs != []
    | .chesy => s.flows.any fun e => e.2.unacked != [] || e.2.waiting != []
    | .h => s.cmds != []
    | .court => (courtStages s i) != [] || s.cmds.any fun c => c.court == i
    | .sc => s.saving.isSome
    | .ctr => s.snap.isSome
    | .flash => xferState s == 2
    | .mc => s.attest.isSome
    | _ => false

/-- PAGE_STATUS.state (Table 2.8). Compute-die pages read in_reset until the package is ready (19_firmware_and_trust.md
Table 19.5). (DESIGN CHOICE, notes/assumptions/24.md) -/
def pageState (s : State) (b : Block) (i off : Nat) : Nat :=
  let page := off / 0x1000 * 0x1000
  let m := s.pageMode page
  let ctl := (s.reg (page + 0x10)).toNat
  if m = 4 ∨ m = 5 ∨ m = 6 then m
  else if (pageRegion off).isSome && !isReady s then 7
  else
    let quiet := match pageRegion off with
      | some r => if b = .re then !(pageWork s b i off) else !regionWork s r
      | none => !(pageWork s b i off)
    if bit ctl 1 && quiet then 2
    else if !bit ctl 0 && !bit ctl 1 && quiet then 3
    else if pageWork s b i off then 1 else 0

/-- Court state and stages of a COURT page (14_host_port.md Table 14.7). -/
def courtState (s : State) (n : Nat) : Nat :=
  if !s.courtCreated n then 0
  else if s.cmds.any fun c => c.court == n && c.typ == 0x28 then 3
  else if courtQuiesced s n then 4
  else if courtStages s n != [] then 2 else 1

/-- TU PAGE_STATUS.stream_active: a stream is open in the cluster's region (04_tensor_units.md, TU page map). -/
def streamActive (s : State) (c : Nat) : Bool :=
  match (s.region (c / 17)).stream with
  | some t => !t.drained
  | none => false

/-- PAGE_STATUS. -/
def statusView (s : State) (b : Block) (i off : Nat) : Nat :=
  let page := off / 0x1000 * 0x1000
  let hi := match b with
    | .court => courtState s i * 2 ^ 28 + min (courtStages s i).length 31 * 2 ^ 16
    | .sc => bits (s.reg (page + 0x14)).toNat 31 26 * 2 ^ 26 + scUsed s * 2 ^ 16
    | .tu => bits (s.reg (page + 0x14)).toNat 31 16 * 2 ^ 16 + (streamActive s i).toNat * 2 ^ 20
    | _ => bits (s.reg (page + 0x14)).toNat 31 16 * 2 ^ 16
  let court := if b.courtScoped then
      match pageCourt s page with
      | some n => n * 2 ^ 12 + 2 ^ 11
      | none => 0
    else 0
  hi + court + pageState s b i off

/-- PAGE_EVT: pending and the highest severity of the unmasked bits, and the last code. -/
def evtView (s : State) (off : Nat) : Nat :=
  let page := off / 0x1000 * 0x1000
  let err := (s.reg (page + 0x18)).toNat &&& (2 ^ 32 - 1 - (s.reg (page + 0x1C)).toNat)
  let sev := (maskBits 32 err).foldl (fun m k => max m (severityOf (codeOf page k))) 0
  (if err = 0 then 0 else 2 ^ 31) + sev * 2 ^ 28 + (s.reg (page + 0x20)).toNat % 2 ^ 16

/-- fw_minor of the active image, 0 in recovery (19_firmware_and_trust.md R453). -/
def fwMinor (s : State) : Nat :=
  if s.fld Page.pkg F.PKG_BOOT_boot_phase = 4 then 0 else bits (imgVersion (slotHeader s.flash.active)) 23 16

/-! ## Views of block registers -/

/-- D_max of a region's participating clusters; with no stage, of the clusters of its repair map (04_tensor_units.md R101). (DEDUCED, notes/assumptions/30.md) -/
def regionDmax (s : State) (r : Nat) : Nat :=
  if (s.region r).started then dmax s r
  else ((List.range 16).filterMap (s.physOf r)).foldl (fun m p => max m (offsetOf s r p)) 0

/-- The regions of a court that are held or stopped (COURT_STOPPED). -/
def stoppedRegions (s : State) (n : Nat) : Nat :=
  (s.regionsOf n).foldl (fun m r => m + if isHeld s r || (s.region r).stopped then 2 ^ r else 0) 0

def sessionView (s : State) : Nat :=
  let x := s.session (s.fld Page.h F.H_SESSION_SEL_session + 1)
  x.isOpen.toNat * 2 ^ 31 + x.device.toNat * 2 ^ 30 + (if x.device then 0 else x.court * 2 ^ 24) + x.commands

/-- CHESY_FLOW_STAT of the flow CHESY_FLOW_SEL names. (DEDUCED, notes/assumptions/25.md) -/
def flowView (s : State) : Nat :=
  match s.flows.find? fun e => e.1 % 2 ^ 32 == s.fld Page.chesy F.CHESY_FLOW_SEL_flow with
  | none => 0
  | some e => min (e.2.cwnd / 1024) 0xFFFF * 2 ^ 16 + min e.2.srtt 0x7FFF * 2 + e.2.failed.toNat

/-- CE_HUDDLE_LAST of the group CE_HUDDLE_SEL names, low and high word. -/
def huddleView (s : State) (hi : Bool) : Nat :=
  let g := group s (s.fld Page.ce F.CE_HUDDLE_SEL_index)
  let (h, o) := g.last.getD (0, 0)
  if hi then o * 2 ^ 30 + (g.out.any fun n => n.orphan).toNat * 2 ^ 29 + h / 2 ^ 32 % 2 ^ 16 else h % 2 ^ 32

def rateEntry (s : State) : RateEntry := KMap.get s.rates .none (s.fld Page.sc F.SC_RATE_SEL_entry)

/-- Live strikes of the selected unit or cluster, which the two bits show up to 3. -/
def strikeView (s : State) (r : Nat) : Nat :=
  (s.reg (Page.ump r + 0x54)).toNat / 4 * 4 + min (KMap.get (umpOf s r).live 0 (s.fld (Page.ump r) F.UMP_STRIKE_SEL_index)) 3

/-- Word k of bytes, big-endian. -/
def beWord (bs : List Byte) (k : Nat) : Nat := leNat ((bs.drop (4 * k)).take 4).reverse

/-- A register the device shows otherwise than as stored; none where the stored value is what it reads as. -/
def blockView (s : State) (b : Block) (i o : Nat) : Option Nat :=
  match b with
  | .mc => if 0x400 ≤ o ∧ o < 0x500 then some (beWord s.report ((o - 0x400) / 4)) else none
  | .sm =>
    if 0x40 ≤ o ∧ o < 0x80 then some (beWord s.flash.pubkey ((o - 0x40) / 4))
    else if o = 0x80 then some s.flash.cert.length
    else if 0x800 ≤ o then some (wordAt s.flash.cert ((o - 0x800) / 4)) else none
  | .sc =>
    if o = 0x80 then some ((rateEntry s).valid.toNat * 2 ^ 31 + (rateEntry s).code)
    else if o = 0x84 then some ((rateEntry s).perMin * 2 ^ 16 + (rateEntry s).burst) else none
  | .ce =>
    if o = 0x5C then some (huddleView s false) else if o = 0x60 then some (huddleView s true)
    else if o = 0x74 then some (KMap.get s.noise 0 (s.fld Page.ce F.CE_NOISE_SEL_entry)) else none
  | .chesy => if o = 0x50 then some (flowView s) else none
  | .h => if o = 0x98 then some (sessionView s) else if o = 0x9C then some (openSessions s) else none
  | .court =>
    if o = 0x40 then some (s.courtRegions i).toNat else if o = 0x54 then some (stoppedRegions s i) else none
  | .tu => if o = 0x44 then some (regionDmax s (i / 17)) else none
  | .rg => if o = 0x8C then some (pbStat s i) else none
  | .ump => if o = 0x54 then some (strikeView s i) else none
  | _ => none

/-- RG_WAIT: kind of the oldest counted wait, and its age. The clock that ages it is outside the model, so the age is a free
value. (DESIGN CHOICE, notes/assumptions/13.md) -/
def waitView (s : State) (r : Nat) : State × Nat :=
  match (s.region r).waits with
  | [] => (s, 0)
  | w :: _ =>
    let (s, v) := freeWord s
    (s, w.kind % 8 * 2 ^ 29 + v % 2 ^ 29)

/-- The value a permitted read of a mapped register returns. -/
def readReg (s : State) (off : Nat) : State × Nat :=
  match pageAt off with
  | none => (s, 0)
  | some (b, i) =>
    let o := off % 0x1000
    if o = 0x04 then (s, (s.reg off).toNat / 2 ^ 16 * 2 ^ 16 + fwMinor s * 2 ^ 8 + (s.reg off).toNat % 2 ^ 8)
    else if o = 0x14 then (s, statusView s b i off)
    else if o = 0x20 then (s, evtView s off)
    else if o < 0x40 then (s, (s.reg off).toNat)
    else if b = .rg ∧ o = 0x90 then waitView s i
    else (s, (blockView s b i o).getD (s.reg off).toNat)

end Sys2Proof.Machine
end

