-- ==== Sys2Proof/Machine/RegWrite.lean ====
section
/-! DEFINITION. What a permitted write of a register does: access codes, locks, page control, the registers that act
(02_register_pages.md R44, R47 to R52, R57; 00_scope.md Table 0.4; the RW registers of the block chapters). -/

namespace Sys2Proof.Machine

/-! ## Fields and access codes -/

/-- The fields of a block register at an offset of its page, with the bit of the register each copy starts at. -/
def fieldsAt (b : Block) (o : Nat) : List Fld := b.fields.filter fun f => f.covers o

/-- What a field holds after the word v is written over the word old; `locked` freezes RWL fields. -/
def fieldAfter (f : Fld) (locked : Bool) (old v : Nat) : Nat :=
  let h := bits old f.hi f.lo
  let w := bits v f.hi f.lo
  match f.acc with
  | .rw => w
  | .w1c => h - (h &&& w)
  | .w1s => h ||| w
  | .rwl => if locked then h else w
  | .wo => 0
  | .ro => h
  | .rov => h

/-- The word a register holds after a write. -/
def wordAfter (fs : List Fld) (locked : Bool) (old v : Nat) : Nat :=
  fs.foldl (fun acc f => acc - bits acc f.hi f.lo * 2 ^ f.lo + fieldAfter f locked old v * 2 ^ f.lo) old

/-- Does a write carry another value for a locked RWL field (R52)? -/
def lockHit (fs : List Fld) (locked : Bool) (old v : Nat) : Bool :=
  locked && fs.any fun f => f.acc == .rwl && bits old f.hi f.lo != bits v f.hi f.lo

def pageLocked (s : State) (page : Nat) : Bool := bit (s.reg (page + 0x24)).toNat 0

/-- A write of a register that has no behaviour of its own. -/
def plainWrite (s : State) (page o v : Nat) (fs : List Fld) : State × Nat :=
  let old := (s.reg (page + o)).toNat
  let k := pageLocked s page
  let s' := s.setReg (page + o) (BitVec.ofNat 32 (wordAfter fs k old v))
  if lockHit fs k old v then (note s' page Err.lockViolation, RegStatus.locked) else (s', RegStatus.ok)

/-! ## PAGE_CTL, PAGE_ERR, PAGE_ERR_MASK and PAGE_LOCK -/

/-- The pages one write of quiesce or enable acts on (R48). (DEDUCED, notes/assumptions/20.md) -/
def ctlPages (page : Nat) : List Nat :=
  match pageAt page with
  | some (.tu, i) => regionPages (i / 17)
  | some (.acc, i) => regionPages (i / 17)
  | some (.ve, i) => regionPages (i / 17)
  | some (.st, i) => regionPages (i / 17)
  | _ => [page]

/-- A region whose RG page no longer accepts work withdraws its waiting wait_step, as a quiesce command does (R48, R352). (DEDUCED, notes/assumptions/21.md) -/
def settleStop (s : State) (page : Nat) : State :=
  match pageRegion page with
  | some r => if pageAccepts s (Page.rg r) then s else withdrawWait s r
  | none => s

/-- Set a bit of PAGE_CTL on every page it acts on; a retired page only stores it (R58). -/
def setCtlAll (s : State) (page b : Nat) (v : Bool) : State :=
  if s.pageRetired page then setCtl s page b v
  else settleStop (forEach (ctlPages page) s fun s p => setCtl s p b v) page

def pageQuiesce (s : State) (page : Nat) (v : Bool) : State := setCtlAll s page 1 v
def pageEnable (s : State) (page : Nat) (v : Bool) : State := setCtlAll s page 0 v

def pageCtlWrite (s : State) (page v : Nat) : State :=
  pageEnable (pageQuiesce (setCtl s page 2 (bit v 2)) page (bit v 1)) page (bit v 0)

/-- PAGE_LOCK.locked, once set, stays until a package reset; a lock set through the service port says so (R51). -/
def pageLock (s : State) (page : Nat) (service : Bool) : State :=
  if pageLocked s page then s else s.setReg (page + 0x24) (if service then 3#32 else 1#32)

def headerWrite (s : State) (b : Block) (page o v : Nat) (service : Bool) : State :=
  match o with
  | 0x10 => pageCtlWrite s page v
  | 0x18 =>
    let old := (s.reg (page + 0x18)).toNat
    s.setReg (page + 0x18) (BitVec.ofNat 32 (old - (old &&& v)))
  | 0x1C => s.setReg (page + 0x1C) (BitVec.ofNat 32 (v &&& b.errBits))
  | 0x24 => if bit v 0 then pageLock s page service else s
  | _ => s

/-! ## Registers that act -/

/-- SC_RATE_CODE and SC_RATE_LIMIT write the entry SC_RATE_SEL selects (17_scorecard_and_counters.md R415). -/
def rateWrite (s : State) (code : Bool) (v : Nat) : State :=
  let i := s.fld Page.sc F.SC_RATE_SEL_entry
  { s with rates := KMap.upd s.rates .none i fun e =>
      if code then { e with valid := bit v 31, code := v % 2 ^ 16 } else { e with perMin := v / 2 ^ 16 % 2 ^ 16, burst := v % 2 ^ 16 } }

/-- CE_RELAY_ARM: the copy bit restarts step 5, armed arms, and armed 0 withdraws the arm. -/
def relayWrite (s : State) (v : Nat) : State × Nat :=
  if bit v 30 then relayRestart s (v % 2 ^ 16)
  else if bit v 31 then relayArm s (v % 2 ^ 16)
  else
    let s := s.setReg (Page.ce + 0x9C) (BitVec.ofNat 32 (v % 2 ^ 16))
    ({ s with relay := { s.relay with running := false } }, RegStatus.ok)

/-- The action of a register that has one: the state after the write and its status. -/
def actionWrite (s : State) (b : Block) (i o v time : Nat) : Option (State × Nat) :=
  match b with
  | .pkg => match o with
    | 0x58 => some (fwCtl s v) | 0x5C => some (fwCmd s v) | 0x60 => some (actArm s v) | 0x74 => some (pkgReturn s v)
    | _ => none
  | .mc => if o = 0x70 then some (attestGo s v) else none
  | .flash => if o = 0x44 then some (xferCtl s v)
      else if 0x800 ≤ o ∧ xferState s = 2 then some (s, RegStatus.denied) else none
  | .sns => if 0x70 ≤ o ∧ o < 0x80 then some (vcoreWrite s ((o - 0x70) / 4) v)
      else if 0x200 ≤ o ∧ o < 0x280 then some (paceWrite s ((o - 0x200) / 4) v) else none
  | .sc => match o with
    | 0x40 => some (scCursor s v) | 0x80 => some (rateWrite s true v, RegStatus.ok)
    | 0x84 => some (rateWrite s false v, RegStatus.ok)
    | 0x88 => some (if bit v 0 then scSave s else (s, RegStatus.ok))
    | _ => none
  | .ctr => match o with
    | 0x40 => some (ctrCmdWrite s v) | 0x90 => some (ctrArmWrite s v)
    | _ => none
  | .ce => match o with
    | 0x48 => some (hgCountWrite s v) | 0x54 => some (planCountWrite s v) | 0x6C => some (huddleCmd s v)
    | 0x9C => some (relayWrite s v)
    | _ => none
  | .se => match o with
    | 0x40 => some (seSubmit s v time) | 0x58 => some (seCancel s v)
    | _ => none
  | .chesy => if o = 0x54 then some (chesyCmd s v) else none
  | .eth => if o = 0x68 then some (clearDup s i v) else none
  | .court => if o = 0x60 then some (trapRearm s i v) else none
  | .acc => if o = 0x40 then some (accDiscard s i v) else none
  | .ve => match o with
    | 0x50 => some (veTrapInfo s i v) | 0x60 => some (veSeedCtl s i v)
    | _ => none
  | .ump => if o = 0x58 then some (umpCmd s i v) else none
  | .stk => match o with
    | 0x50 => some (rangeSelect s i v) | 0x60 => some (rangeApply s i v) | 0x84 => some (retireCmd s i v)
    | _ => none
  | .caddie => match o with
    | 0x4C => some (ptCountWrite s i v) | 0x68 => some (caddieCmd s i v)
    | _ => none
  | _ => none

/-- Writes refused with DENIED for what the block is doing: the area registers of a region at work
(10_spatial_pipelines.md R234), the configuration of a Caddie in an open window (12_caddie.md R304). (DESIGN CHOICE, notes/assumptions/26.md) -/
def busyDenies (s : State) (b : Block) (i o : Nat) : Bool :=
  match b with
  | .rg => decide (0x60 ≤ o ∧ o ≤ 0x74) && !pageQuiet s i
  | .caddie =>
    (caddie s i).window.isSome && (decide (o = 0x40 ∨ o = 0x44 ∨ o = 0x48) || decide (0x70 ≤ o ∧ o ≤ 0x9C))
  | _ => false

/-- What follows a write that only stores: the power report, the parity check (12_caddie.md R299), the VE status. -/
def afterWrite (s : State) (b : Block) (i o : Nat) : State :=
  match b with
  | .sns => showPower s
  | .caddie =>
    let s := if o = 0x40 then updCaddie s i fun x => { x with whole := caddieFld s i F.CADDIE_CTL_parity_en == 1 } else s
    if o = 0x40 ∨ o = 0x70 ∨ o = 0x74 then parityCheck s i else s
  | .ve =>
    if o = 0x40 then s.setFld (Page.ve i) F.VE_STATUS_sticky (s.fld (Page.ve i) F.VE_STICKY_flags) else s
  | _ => s

/-- Is the offset one of a page's counters or their selections? -/
def counterOff (b : Block) (o : Nat) : Bool :=
  (b.hasCounters && ((decide (0x100 ≤ o) && decide (o < 0x120)) || (decide (0x140 ≤ o) && decide (o < 0x180))))
    || (decide (0x180 ≤ o) && decide (o < 0x180 + 8 * b.fixedCounters))

/-- A permitted write of a block register, but for those that reset the package. -/
def blockWrite (s : State) (b : Block) (i page o v time : Nat) : State × Nat :=
  if busyDenies s b i o then (s, RegStatus.denied)
  else match actionWrite s b i o v time with
  | some r => r
  | none =>
    if counterOff b o then
      (if o < 0x120 then setPcntSel s page ((o - 0x100) / 4) v else s, RegStatus.ok)
    else match fieldsAt b o with
    | [] => (note s page Err.undefinedOffset, RegStatus.ok)
    | fs =>
      let (s, st) := plainWrite s page o v fs
      (afterWrite s b i o, st)

/-- A permitted write of a mapped register. -/
def writeReg (s : State) (p : RegPath) (off v time : Nat) : State × Nat :=
  match pageAt off with
  | none => (s, RegStatus.unmapped)
  | some (b, i) =>
    let page := off / 0x1000 * 0x1000
    let o := off % 0x1000
    let service := match p with
      | .sp _ => true
      | _ => false
    if o < 0x40 then (headerWrite s b page o v service, RegStatus.ok) else blockWrite s b i page o v time

/-- Does the write go to PKG_FW_CMD with a command that resets the package where it is accepted? -/
def resets (off v : Nat) : Bool := off == Page.pkg + 0x5C && bit v 31 && (bits v 18 16 == 2 || bits v 18 16 == 3)

end Sys2Proof.Machine
end

