-- ==== Sys2Proof/Machine/RegPath.lean ====
section
/-! DEFINITION. The commands that carry register accesses: the register request and its bursts, the single writes, the
sideband transactions and the TAP's DBGREG (02_register_pages.md R47, R48, R51, R54 to R57; 13_fabric_and_collectives.md
R317; 20_package_and_pins.md R483, R484, R486). -/

namespace Sys2Proof.Machine

/-! ## One register message -/

/-- One register's write: refused, or performed (R54 to R58). -/
def accessWrite (s : State) (p : RegPath) (off v time : Nat) : State × Nat :=
  match writeCheck s p off with
  | some r => (applyRefusal s p off r, r.1)
  | none => writeReg s p off v time

/-- A refused read returns 0; it sets court_violation, or access_denied where a court-scoped page names no court (R54,
R55). -/
def refuseRead (s : State) (off : Nat) (r : Nat × Nat) : State :=
  let courts : Bool := match pageAt off with
    | some (b, _) => b.courtScoped
    | none => false
  if r.1 = RegStatus.court ∨ (r.1 = RegStatus.denied ∧ courts) then note s (off / 0x1000 * 0x1000) r.2 else s

/-- One register's read: its status and its value. -/
def accessRead (s : State) (p : RegPath) (off : Nat) : State × Nat × Nat :=
  match readRefusal s p off with
  | some r => (refuseRead s off r, r.1, 0)
  | none =>
    let (s, v) := readReg s off
    (s, RegStatus.ok, v)

/-- The status of a message and its page offset: the first that is not OK stands (R56). (DESIGN CHOICE, notes/assumptions/14.md) -/
def firstBad (res : Nat × Nat) (st off : Nat) : Nat × Nat :=
  if res.1 = RegStatus.ok ∧ st ≠ RegStatus.ok then (st, off % 0x1000) else res

/-- What a message leaves: its state, the status and page offset, the data read, and the write of PKG_FW_CMD that resets
the package after the reply. -/
structure Access where
  state : State
  result : Nat × Nat
  data : List Nat
  reset : Option Nat

/-- Does this write reset the package? (DESIGN CHOICE, notes/assumptions/18.md) -/
def resetsNow (s : State) (p : RegPath) (off v : Nat) : Bool :=
  resets off v && (writeCheck s p off).isNone && (fwReset s v).isSome

/-- A burst of writes in ascending order, each a separate access; one that resets the package ends it. (DEDUCED, notes/assumptions/15.md) -/
def burstWrite (p : RegPath) (time : Nat) : List Nat → Nat → State → Nat × Nat → Access
  | [], _, s, res => ⟨s, res, [], none⟩
  | v :: vs, off, s, res =>
    if resetsNow s p off v then ⟨s, res, [], some v⟩
    else
      let (s, st) := accessWrite s p off v time
      burstWrite p time vs (off + 4) s (firstBad res st off)

/-- A burst of reads at one moment. -/
def burstRead (p : RegPath) : Nat → Nat → State → Nat × Nat → List Nat → Access
  | 0, _, s, res, acc => ⟨s, res, acc.reverse, none⟩
  | n + 1, off, s, res, acc =>
    let (s, st, v) := accessRead s p off
    burstRead p n (off + 4) s (firstBad res st off) (v :: acc)

/-- A register message of n registers: a misaligned one is refused whole, as is one that leaves its page, and one to an
unmapped page. -/
def access (s : State) (p : RegPath) (write : Bool) (off n : Nat) (data : List Nat) (time : Nat) : Access :=
  let zeros := if write then [] else List.replicate n 0
  if off % 4 ≠ 0 then ⟨s, (RegStatus.misaligned, off % 0x1000), zeros, none⟩
  else if n = 0 ∨ 16 < n ∨ 0x1000 < off % 0x1000 + 4 * n then ⟨s, (RegStatus.range, off % 0x1000), zeros, none⟩
  else if !mapped s off then ⟨noteUnmapped s p off, (RegStatus.unmapped, off % 0x1000), zeros, none⟩
  else if write then burstWrite p time data off s (RegStatus.ok, 0)
  else burstRead p n off s (RegStatus.ok, 0) []

/-- The end of a message: its reply and, where it resets the package, the reset. -/
def endAccess (s : State) (a : Access) (reply : State → State) : Host.Outcome State Fault Refusal :=
  match a.reset with
  | none => effect s fun _ => reply a.state
  | some v => effectReset s fun _ => (fwReset (reply a.state) v).getD a.state

/-! ## The register request (13_fabric_and_collectives.md R313, R317) -/

/-- Does the request write SE_SUBMIT, which waits for its session's commands (15_solver_engine.md R369)? -/
def writesSubmit (q : RegReq) : Bool :=
  q.write && decide (q.off.toNat ≤ Page.se + 0x40) && decide (Page.se + 0x40 ≤ q.off.toNat + 4 * q.burst.toNat)
    && decide (q.off.toNat % 4 = 0)

/-- A request whose payload does not hold burst_m1 + 1 words of write data, or holds data for a read, is discarded. (DESIGN CHOICE, notes/assumptions/16.md) -/
def requestWellSized (q : RegReq) : Bool := if q.write then q.data.length == q.burst.toNat + 1 else q.data.isEmpty

/-- The message of a request on its path. -/
def requestAccess (s : State) (h : RegHdr) (q : RegReq) : Host.Outcome State Fault Refusal :=
  if !requestWellSized q then effect s badMessage
  else
    let a := access s h.path q.write q.off.toNat (q.burst.toNat + 1) (q.data.map BitVec.toNat) h.time.toNat
    endAccess s a fun s => regReply s h a.result.1 a.result.2 a.data

def execRegisterRequest (h : RegHdr) (q : RegReq) (s : State) : Host.Outcome State Fault Refusal :=
  if !pathUp s h.path || (writesSubmit q && seWaits s h.path) then turnedAway s
  else if !spAdmits s h.path then effect s fun s => note s Page.sp Err.sp_sp_refused
  else requestAccess s h q

/-! ## Single writes -/

/-- A write of one register; where it is a command that resets the package, as that command. -/
def execRegisterWrite (h : RegHdr) (off : BitVec 24) (v : BitVec 32) (s : State) : Host.Outcome State Fault Refusal :=
  if resets off.toNat v.toNat && (fwReset s v.toNat).isSome then
    resetCommand s h off.toNat fun s => fwReset s v.toNat
  else if off.toNat == Page.se + 0x40 && seWaits s h.path then turnedAway s
  else regCommand s h off.toNat fun s => writeReg s h.path off.toNat v.toNat h.time.toNat

/-- The page a 12-bit page number names. -/
def pageOf (page : BitVec 12) : Nat := page.toNat * 0x1000

/-- The other bits of PAGE_CTL keep their values. -/
def execPageQuiesceWrite (h : RegHdr) (page : BitVec 12) (v : Bool) (s : State) : Host.Outcome State Fault Refusal :=
  regCommand s h (pageOf page + 0x10) fun s => (pageQuiesce s (pageOf page) v, RegStatus.ok)

def execPageEnableWrite (h : RegHdr) (page : BitVec 12) (v : Bool) (s : State) : Host.Outcome State Fault Refusal :=
  regCommand s h (pageOf page + 0x10) fun s => (pageEnable s (pageOf page) v, RegStatus.ok)

/-- Is the access the service port's? -/
def viaService : RegPath → Bool
  | .sp _ => true
  | _ => false

def execPageLockSet (h : RegHdr) (page : BitVec 12) (s : State) : Host.Outcome State Fault Refusal :=
  regCommand s h (pageOf page + 0x24) fun s => (pageLock s (pageOf page) (viaService h.path), RegStatus.ok)

def execSbAlertClear (h : RegHdr) (s : State) : Host.Outcome State Fault Refusal :=
  regCommand s h (Page.sb + 0x48) fun s => (s.setFld Page.sb F.SB_ALERT_active 0, RegStatus.ok)

/-! ## The sideband (20_package_and_pins.md R482, R483) -/

/-- SB_LAST and SB_COUNT after a transaction, and the refusal's error bit; SB_LAST names the register that failed first,
else the last one. -/
def sidebandNote (s : State) (off n : Nat) (res : Nat × Nat) : State :=
  let refused := decide (res.1 = RegStatus.denied)
  let last := if res.1 = RegStatus.ok then off + 4 * (n - 1) else off / 0x1000 * 0x1000 + res.2
  let s := s.setReg (Page.sb + 0x4C) (BitVec.ofNat 32 (last % 2 ^ 24 * 2 ^ 8 + res.1))
  let s := s.setFld Page.sb F.SB_COUNT_transactions (s.fld Page.sb F.SB_COUNT_transactions + 1)
  if refused then note s Page.sb Err.sb_sb_denied else s

/-- A transaction of n data words: its PEC is checked where it has one, and asked for where pec_required is 1. (DESIGN CHOICE, notes/assumptions/28.md) -/
def sideband (s : State) (write : Bool) (off n : Nat) (data : List Nat) (wellFormed : Bool) (pec : Option Bool) :
    Host.Outcome State Fault Refusal :=
  if !pathUp s .sideband then turnedAway s
  else if !wellFormed ∨ n = 0 ∨ 16 < n then effect s fun s => note s Page.sb Err.sb_sb_protocol
  else if !pec.getD (s.fld Page.sb F.SB_CTL_pec_required == 0) then effect s fun s => note s Page.sb Err.sb_sb_pec
  else
    let a := access s .sideband write off n data 0
    endAccess s a fun s =>
      let s := sidebandNote s off n a.result
      if write then s else s.send ⟨.sideband, 0x101, a.data, []⟩

def execSidebandWrite (off : BitVec 24) (data : List (BitVec 32)) (wellFormed : Bool) (pec : Option Bool) (s : State) :
    Host.Outcome State Fault Refusal :=
  sideband s true off.toNat data.length (data.map BitVec.toNat) wellFormed pec

def execSidebandRead (off : BitVec 24) (words : BitVec 5) (wellFormed : Bool) (pec : Option Bool) (s : State) :
    Host.Outcome State Fault Refusal :=
  sideband s false off.toNat words.toNat [] wellFormed pec

/-! ## The TAP (20_package_and_pins.md R486) -/

/-- DBGREG: BYPASS while tap_regs is 0; else a register request with the service port's permissions. (DEDUCED, notes/assumptions/29.md) -/
def execDbgreg (tag : BitVec 16) (q : RegReq) (s : State) : Host.Outcome State Fault Refusal :=
  if !tapUp s then turnedAway s
  else if s.fld Page.dbg F.DBG_CTL_tap_regs == 0 then effect s tapRefuse
  else requestAccess (tapShift s .dbgreg) ⟨.tap, tag, 0⟩ q

end Sys2Proof.Machine
end

