-- ==== Sys2Proof/Machine/SaveRestore.lean ====
section
/-! DEFINITION. Save and restore of a region's context (14_host_port.md R353, R354, Tables 14.4 and 14.4a;
05_accumulators.md R133, R134, Tables 5.2 to 5.4; 06_vector_lanes.md R152, Table 6.2). -/

namespace Sys2Proof.Machine

/-- Tiles of a region image (Table 14.4). -/
def imageTiles : Nat := 10454
/-- Tiles of a logical cluster within it, and of a unit within those. -/
def clusterTiles : Nat := 653
def unitTiles : Nat := 162

def padTo (n : Nat) (bs : List Byte) : List Byte := (bs ++ List.replicate (n - bs.length) 0#8).take n

/-! ## The image of a unit (Table 5.2) -/

/-- The state word of a tile: its open group's, or that of its closed result (Table 5.4). -/
def stateWord (t : TUnit) (a : Nat) : Nat :=
  match groupAt t a with
  | some g => 2 ^ 31 + (a == g.base).toNat * 2 ^ 30 + g.overflowed.toNat * 2 ^ 28 + g.depth * 2 ^ 24
      + Nat.log2 g.width * 2 ^ 22 + g.base * 2 ^ 17
  | none => KMap.get t.closed 0 a

/-- Memory tile k of the rows, 0 to 159: five of them hold an accumulator tile. -/
def rowBytes (x : Cluster) (u k : Nat) : List Byte :=
  let all := (List.range 64).flatMap fun r => (accRow x u (k / 5) r).els.flatMap fun e => leBytes 5 e.toNat
  (all.drop (k % 5 * tileBytes)).take tileBytes

/-- The header of a unit's image (Table 5.3); `p` is the physical cluster. -/
def unitHeader (s : State) (r p u : Nat) : List Byte :=
  let pg := Page.tu (clusterOf r p)
  let step := (s.region r).main.step.toNat
  wordBytes [0xACC00100, r / 8 * 2 ^ 24 + r % 8 * 2 ^ 16 + p * 256 + u, ((s.courtOf r).getD 0) * 2 ^ 28,
    s.fld pg F.TU_SKEW_OFFSET_skew_gen * 2 ^ 16 + s.fld pg F.TU_SKEW_OFFSET_offset, step % 2 ^ 32, step / 2 ^ 32,
    s.fld (Page.acc (clusterOf r p)) F.ACC_FLAGS_sticky / 4 ^ u % 4]

/-- Memory tile k of a unit's image. -/
def unitTile (s : State) (r p u k : Nat) : List Byte :=
  let x := s.cluster (clusterOf r p)
  let t := unitOf x u
  if k < 160 then rowBytes x u k
  else if k = 160 then
    padTo 64 (unitHeader s r p u) ++ wordBytes ((List.range 32).map (stateWord t))
      ++ ((List.range 2048).map fun i => (accRow x u (i / 64) (i % 64)).mark.setWidth 8) ++ List.replicate 1856 0#8
  else (List.range 2048).flatMap fun i => leBytes 2 (KMap.get t.counts 0 i)

/-! ## The image of a VE (Table 6.2) -/

def veHeader (s : State) (r p : Nat) : List Byte :=
  let pg := Page.ve (clusterOf r p)
  wordBytes [0x7EC00100, r / 8 * 2 ^ 24 + r % 8 * 2 ^ 16 + p * 256 + ((s.courtOf r).getD 0) * 16,
    s.fld pg F.VE_STICKY_flags, s.fld pg F.VE_FLAG_TRAP_trap_mask]

def veTile (s : State) (r p k : Nat) : List Byte :=
  let x := s.cluster (clusterOf r p)
  if k < 4 then (List.range 8).flatMap fun i => wordBytes ((vReg x (8 * k + i)).map BitVec.toNat)
  else padTo 64 (veHeader s r p) ++ ((List.range 8).flatMap fun m => leBytes 16 (maskReg x m).toNat)
    ++ List.replicate 1856 0#8 ++ ((List.range 128).flatMap fun i => wordBytes ((genOf x i).map BitVec.toNat))

/-- What an absent logical cluster's tiles hold: the marks of images, and nothing else. (DESIGN CHOICE, notes/assumptions/69.md) -/
def absentTile (k : Nat) : List Byte :=
  if k = 652 then padTo tileBytes (wordBytes [0x7EC00100])
  else if k < 648 ∧ k % unitTiles = 160 then padTo tileBytes (wordBytes [0xACC00100])
  else List.replicate tileBytes 0#8

/-- Tile k of logical cluster c. -/
def clusterTile (s : State) (r c k : Nat) : List Byte :=
  match s.physOf r c with
  | none => absentTile k
  | some p => if k < 648 then unitTile s r p (k / unitTiles) (k % unitTiles) else veTile s r p (k - 648)

/-! ## Tiles 0 to 5 (Table 14.4) -/

/-- The stage descriptor address a region in no running stage records: no address of a stack. -/
def noStage : Nat := 2 ^ 48 - 1

/-- Where a restored region goes on: a halted one at its halt again. -/
def savedPc (x : Region) : Nat := if x.halted then x.main.pc - 1 else x.main.pc

def tapAddr (x : Region) (i : Nat) : Nat := ((x.taps.find? fun a => a.tap == i).map (·.addr)).getD 0

def headerTile (s : State) (court r : Nat) : List Byte :=
  let x := s.region r
  let step := x.main.step.toNat
  let desc := if x.started then x.stageDesc else noStage
  let armed := x.taps.foldl (fun m a => m ||| 2 ^ a.tap) 0
  padTo tileBytes (wordBytes ([0x5E6A0100,
      r / 8 * 2 ^ 24 + r % 8 * 2 ^ 16 + court * 2 ^ 12 + s.fld (Page.court court) F.COURT_EPOCH_epoch,
      x.stageId * 2 ^ 16, savedPc x, step % 2 ^ 32, step / 2 ^ 32, desc % 2 ^ 32, desc / 2 ^ 32, x.clusters.toNat, armed]
    ++ (List.range 8).flatMap fun i => [tapAddr x i % 2 ^ 32, tapAddr x i / 2 ^ 32]))

/-- A stream map's 64 entries. -/
def mapBytes (m : Option (List MapEntry)) : List Byte :=
  padTo 512 (wordBytes ((m.getD []).flatMap fun e =>
    [Nat.log2 e.width * 2 ^ 30 + e.tile * 2 ^ 24 + e.len * 2 ^ 16 + e.start % 2 ^ 16, 0]))

/-- The RG registers a save records, in order. -/
def savedRegs : List Nat := [0x40, 0x58, 0x60, 0x64, 0x68, 0x6C, 0x70, 0x74, 0x80, 0x84]

/-- Bank b of a unit and whether it is the active one. -/
def bankOf (t : TUnit) (b : Nat) : Bank × Bool :=
  if (b == 1) == t.sel then (t.active, true) else (t.shadow, false)

/-- The record of a bank (Table 14.4a). -/
def bankRecord (t : TUnit) (b : Nat) : List Byte :=
  let (k, act) := bankOf t b
  let l := k.load
  if k.valid then
    leBytes 6 l.addr ++ leBytes 4 (if l.ring then l.ringOff else 0) ++ leBytes 6 (if l.ring then l.version else 0)
      ++ leBytes 1 k.fmt
      ++ leBytes 1 (1 + act.toNat * 2 + l.ring.toNat * 4 + l.roundAware.toNat * 8 + l.narrow.toNat * 16) ++ leBytes 2 0
  else leBytes 20 (act.toNat * 2 ^ 137)

def stateTile (s : State) (r : Nat) : List Byte :=
  let x := s.region r
  padTo 256 (((List.range 16).flatMap fun i => leBytes 8 (aReg x.main i).toNat)
      ++ wordBytes ((List.range 4).map fun i => (lReg x.main i).toNat))
    ++ mapBytes x.main.map ++ mapBytes x.task.map
    ++ padTo 256 (wordBytes (savedRegs.map fun o => (s.reg (Page.rg r + o)).toNat))
    ++ (List.range 128).flatMap fun i =>
        match s.physOf r (i / 8) with
        | none => List.replicate 20 0#8
        | some p => bankRecord (unitOf (s.cluster (clusterOf r p)) (i / 2 % 4)) (i % 2)

/-- The set table's 1,024 entries, 256 a tile: the address is that of the set's first tile. -/
def setBytes (s : State) (r : Nat) (t : ValveSet) : List Byte :=
  let a := areaTile s r t.deep t.addr 0
  wordBytes [t.id, t.deep.toNat * 2 ^ 31 + t.tiles % 2 ^ 31, a % 2 ^ 32, a / 2 ^ 32]

def setTile (s : State) (r k : Nat) : List Byte :=
  padTo tileBytes ((((s.region r).sets.drop (256 * k)).take 256).flatMap (setBytes s r))

/-- Tile i of a region's image. -/
def imageTile (s : State) (court r i : Nat) : List Byte :=
  if i = 0 then headerTile s court r
  else if i = 1 then stateTile s r
  else if i < 6 then setTile s r (i - 2)
  else clusterTile s r ((i - 6) / clusterTiles) ((i - 6) % clusterTiles)

/-- Its format code: A40 rows are 0xE. -/
def imageFormat (i : Nat) : Nat :=
  if 6 ≤ i ∧ (i - 6) % clusterTiles < 648 ∧ (i - 6) % clusterTiles % unitTiles < 160 then 0xE else 0

/-! ## Save (R353) -/

/-- A save's discards: the tap's sums with its indices closed (R171), the root requests (R194). -/
def saveDiscards (s : State) (r : Nat) : State :=
  let s := discardRoots (discardTap s r) r
  showArmed (s.updRegion r fun x => { x with taps := [] }) r

/-- Does a pass buffer consumed in a region hold entries or spill? -/
def pbHolds (s : State) (r : Nat) : Bool :=
  s.pbufs.any fun b => b.desc.consRegion == r && (b.store != [] || b.spill != [] || b.taking != [])

/-- Write an image, tile 0 last; `now` is the state it records. -/
def writeImage (s now : State) (w : Who) (court r base : Nat) : State :=
  forEach ((List.range (imageTiles - 1)).map (· + 1) ++ [0]) s fun s i =>
    (writeTile s w (base + i * tileBytes) (imageTile now court r i) (imageFormat i)).1

/-- The tiles the images of n regions take. (DESIGN CHOICE, notes/assumptions/68.md) -/
def saveSpan (base n : Nat) : List Nat := (List.range (n * imageTiles)).map fun i => base + i * tileBytes

def saveGo (s : State) (c : HostHdr) (w : Who) (rs : List Nat) (base : Nat) : State :=
  let n := c.court.toNat
  let out := forEach (rs.zip (List.range rs.length)) s fun t e =>
    writeImage t s w n e.1 (base + e.2 * imageTiles * tileBytes)
  let out := forEach rs out saveDiscards
  done (discardCaddies out n) c 0x29 0

/-- SAVE. -/
def execSave (c : HostHdr) (mask : W32) (base : Addr48) (s : State) : Host.Outcome State Fault Refusal :=
  let rs := maskBits 32 mask.toNat
  let a := base.toNat
  if tilesWait s (saveSpan a rs.length) then turnedAway s
  else hostCmd s c 0x29 true fun s =>
    let w := hostWho s c
    if rs = [] then done s c 0x29 0x0C
    else if rs.any fun r => s.courtOf r != some c.court.toNat then done s c 0x29 4
    else if rs.any fun r => !regionQuiesced s r then done s c 0x29 7
    else if rs.any (pbHolds s) then done s c 0x29 8
    else if !aligned a then done (refuseUnaligned s w a) c 0x29 0x0C
    else match (saveSpan a rs.length).findSome? fun t => (admits s w t).map fun why => (t, why) with
      | some (t, why) => done (noteRefused s w t why) c 0x29 0x0C
      | none => saveGo s c w rs a

/-! ## What a restore finds in an image (R354) -/

/-- Read every tile as a consumer in device context: the first refusal, or the tiles that fail their check. -/
def readImage (s : State) (base : Nat) : State × Option Refused × List Nat :=
  (List.range imageTiles).foldl (fun (acc : State × Option Refused × List Nat) i =>
    match acc with
    | (s, some why, bad) => (s, some why, bad)
    | (s, none, bad) =>
      match readTile s (.device 1 2) (base + i * tileBytes) with
      | (s, .refused why) => (s, some why, bad)
      | (s, .data _ t) => (s, none, if t.poison then bad ++ [i] else bad)) (s, none, [])

/-- The payload of tile i of an image. -/
def imgTile (s : State) (base i : Nat) : List Byte := (tileData s (base + i * tileBytes)).1

/-- The part of the image a tile belongs to: the logical cluster and whether it is its VE's; none for tiles 0 to 5. -/
def partOfTile (i : Nat) : Option (Nat × Bool) :=
  if i < 6 then none else some ((i - 6) / clusterTiles, decide (648 ≤ (i - 6) % clusterTiles))

/-- Tiles of units and VEs whose mark or layout is wrong. -/
def badMarks (s : State) (base : Nat) : List Nat :=
  (List.range 16).flatMap fun c =>
    let marks : List (Nat × Nat) :=
      ((List.range 4).map fun u => (6 + clusterTiles * c + unitTiles * u + 160, 0xACC001))
        ++ [(6 + clusterTiles * c + 652, 0x7EC001)]
    (marks.filter fun e => wordAt (imgTile s base e.1) 0 / 256 != e.2).map (·.1)

/-- Raise restore-image for each unit group or VE of the target that an image's bad tiles belong to. (DESIGN CHOICE, notes/assumptions/71.md) -/
def raiseImage (s : State) (r : Nat) (bad : List Nat) : State :=
  forEach ((bad.filterMap partOfTile).eraseDups) s fun s e =>
    match s.physOf r e.1 with
    | none => s
    | some p =>
      let c := clusterOf r p
      if e.2 then raise s (Page.ve c) Err.ve_restore_image else raise s (Page.acc c) Err.acc_restore_image

/-! ## Writing it back -/

/-- Elements of a row from its 320 bytes. -/
def rowOf (bs : List Byte) : List (BitVec 40) := (List.range 64).map fun x => BitVec.ofNat 40 (leAt bs (5 * x) 5)

/-- The open groups that state words describe; the step is the header's. -/
def groupsOf (ws : List Nat) (step : Nat) : List Group :=
  (ws.zip (List.range 32)).filterMap fun e =>
    if bit e.1 31 && bit e.1 30 then
      some ⟨e.2, 2 ^ bits e.1 23 22, bits e.1 27 24, false, false, bit e.1 28, 0, step⟩
    else none

/-- Write a unit's rows, marks, counts and states; `img` gives the tiles of its image. -/
def putUnit (x : Cluster) (u : Nat) (img : Nat → List Byte) : Cluster :=
  let hd := img 160
  let ct := img 161
  let step := wordAt hd 4 + wordAt hd 5 % 2 ^ 16 * 2 ^ 32
  let words := (List.range 32).map fun a => wordAt hd (16 + a)
  let x := forEach (List.range 32) x fun x a =>
    let bs := (List.range 5).flatMap fun k => img (5 * a + k)
    forEach (List.range 64) x fun x r =>
      setAccRow x u a r ⟨BitVec.ofNat 7 (leAt hd (192 + 64 * a + r) 1), rowOf ((bs.drop (320 * r)).take 320)⟩
  setUnit x u
    { unitOf x u with
      groups := groupsOf words step
      counts := forEach (List.range 2048) [] fun m i => KMap.set m 0 i (leAt ct (2 * i) 2)
      closed := forEach (words.zip (List.range 32)) [] fun m e =>
        KMap.set m 0 e.2 (if bit e.1 29 && !bit e.1 31 then e.1 else 0) }

/-- Restore a unit of a cluster (R134). -/
def restoreUnit (s : State) (c u : Nat) (img : Nat → List Byte) : State :=
  let s := s.updCluster c fun x => putUnit x u img
  let pg := Page.acc c
  let f := s.fld pg F.ACC_FLAGS_sticky
  let s := s.setFld pg F.ACC_FLAGS_sticky (f - f / 4 ^ u % 4 * 4 ^ u + wordAt (img 160) 6 % 4 * 4 ^ u)
  let s := fixedCount s pg 0 2048
  if wordAt (img 160) 3 % 64 = s.fld (Page.tu c) F.TU_SKEW_OFFSET_offset then s else raise s pg Err.acc_restore_skew

/-- Restore a cluster's VE (R152). -/
def restoreVe (s : State) (c : Nat) (img : Nat → List Byte) : State :=
  let t := img 4
  let word (bs : List Byte) (i : Nat) : W32 := BitVec.ofNat 32 (wordAt bs i)
  let s := s.updCluster c fun x =>
    let x := forEach (List.range 32) x fun x n => setVReg x n ((List.range 128).map fun i => word (img (n / 8)) (n % 8 * 128 + i))
    let x := forEach (List.range 8) x fun x m => setMask x m (BitVec.ofNat 128 (leAt t (64 + 16 * m) 16))
    { x with gens := forEach (List.range 128) x.gens fun g i =>
        KMap.set g (seedState 0#64 i) i ((List.range 4).map fun k => word t (512 + 4 * i + k)) }
  let pg := Page.ve c
  let s := s.setFld pg F.VE_STICKY_flags (wordAt t 2)
  let s := s.setFld pg F.VE_STATUS_sticky (wordAt t 2)
  s.setFld pg F.VE_FLAG_TRAP_trap_mask (wordAt t 3)

/-- Every logical cluster of the image onto the target's logical cluster (R354). -/
def restoreClusters (s : State) (r : Nat) (img : Nat → List Byte) : State :=
  forEach (List.range 16) s fun s l =>
    match s.physOf r l with
    | none => s
    | some p =>
      let c := clusterOf r p
      let at' (k : Nat) : List Byte := img (6 + clusterTiles * l + k)
      let s := forEach (List.range 4) s fun s u => restoreUnit s c u fun k => at' (unitTiles * u + k)
      showGroups (restoreVe s c fun k => at' (648 + k)) c

/-- The entries of a saved stream map; none where it holds none. -/
def mapFrom (t : List Byte) (off : Nat) : Option (List MapEntry) :=
  let es := (List.range 64).filterMap fun i =>
    let w := leAt t (off + 8 * i) 4
    if bits w 23 16 = 0 then none else some ⟨bits w 15 0, bits w 23 16, bits w 28 24, 2 ^ bits w 31 30, false⟩
  match es.getLast? with
  | none => none
  | some e => some (es.dropLast ++ [{ e with drain := true }])

/-- The sets of a saved set table. -/
def setsFrom (s : State) (r : Nat) (img : Nat → List Byte) : List ValveSet :=
  (List.range 1024).filterMap fun i =>
    let t := img (2 + i / 256)
    let w (k : Nat) : Nat := wordAt t (4 * (i % 256) + k)
    let deep := bit (w 1) 31
    let n := bits (w 1) 30 0
    if n = 0 then none
    else some ⟨bits (w 0) 15 0, deep, n, (w 2 + w 3 % 2 ^ 16 * 2 ^ 32 - areaBase s r deep) / tileBytes⟩

/-- The ring of an area as its sets leave it, oldest first, with freed space between them; the head's offset. -/
def ringFrom (size : Nat) (sets : List ValveSet) : List Alloc × Nat :=
  sets.foldl (fun (acc : List Alloc × Nat) t =>
    let gap := if acc.1 = [] ∨ size = 0 then 0 else (t.addr + size - acc.2) % size
    (acc.1 ++ (if gap = 0 then [] else [⟨acc.2, gap, true⟩]) ++ [⟨t.addr, t.tiles, false⟩],
      if size = 0 then 0 else (t.addr + t.tiles) % size)) ([], 0)

/-- Registers, stream maps and set table of a region (tiles 0 to 5). -/
def restoreRegion (s : State) (r : Nat) (img : Nat → List Byte) : State :=
  let h := img 0
  let t := img 1
  let s := forEach (savedRegs.zip (List.range savedRegs.length)) s fun s e =>
    s.setReg (Page.rg r + e.1) (BitVec.ofNat 32 (leAt t (1280 + 4 * e.2) 4))
  let sets := setsFrom s r img
  let arena := ringFrom (areaTiles s r false) (sets.filter fun x => !x.deep)
  let deep := ringFrom (areaTiles s r true) (sets.filter fun x => x.deep)
  let main : Prog :=
    { Prog.init with
      pc := wordAt h 3
      a := (List.range 16).foldl (fun m i => KMap.set m 0#48 i (BitVec.ofNat 48 (leAt t (8 * i) 6))) []
      l := (List.range 4).foldl (fun m i => KMap.set m 0#32 i (BitVec.ofNat 32 (leAt t (128 + 4 * i) 4))) []
      step := BitVec.ofNat 48 (wordAt h 4 + wordAt h 5 % 2 ^ 16 * 2 ^ 32)
      map := mapFrom t 256 }
  let s := s.setRegion r
    { Region.init with
      stageId := bits (wordAt h 2) 31 16, clusters := BitVec.ofNat 16 (wordAt h 8), main := main
      task := { Prog.init with map := mapFrom t 768 }
      sets := sets, arena := arena.1, arenaHead := arena.2, deep := deep.1, deepHead := deep.2 }
  setCount (showFill (s.setFld (Page.rg r) F.RG_STATUS_held 0) r) r

/-- Reload the banks whose records are valid (Table 14.4a). -/
def restoreBanks (s : State) (court r : Nat) (t : List Byte) : State :=
  forEach (List.range 64) s fun s i =>
    match s.physOf r (i / 4) with
    | none => s
    | some p =>
      let c := clusterOf r p
      let u := i % 4
      let at' (b : Nat) : Nat := 1536 + 20 * (2 * i + b)
      let flag (b k : Nat) : Bool := bit (leAt t (at' b + 17) 1) k
      let live := [0, 1].filter fun b => flag b 0
      let s := match live.find? fun b => flag b 1 with
        | none => s
        | some b => s.updCluster c fun x =>
            let k := unitOf x u
            if k.sel = (b == 1) then x else setUnit x u { k with sel := b == 1, active := k.shadow, shadow := k.active }
      forEach live s fun s b =>
        let l : BankLoad :=
          ⟨flag b 2, leAt t (at' b) 6, leAt t (at' b + 6) 4, leAt t (at' b + 10) 6, flag b 3, flag b 4⟩
        reloadBank s (some court) c u ((unitOf (s.cluster c) u).sel == (b == 1)) (leAt t (at' b + 16) 1) l

/-- Arm a recorded index afresh (R158); a refusal is tap-descriptor. -/
def rearm (s : State) (r tap addr : Nat) : State :=
  let h : Hdr := ⟨BitVec.ofNat 5 r, false, false, 0#3, 0#7⟩
  let fails (s : State) : State := stFault s (lowest s r) Err.st_tap_descriptor
  if addr % 64 ≠ 0 then fails s
  else match tapRead s h addr with
    | (s, none) => fails s
    | (s, some bs) =>
      let step := stepOf s h
      let n := (parts s r).length
      let ts := tapGroup (tapFields bs) step
      if !tapValid bs || (ts.any fun t => decide (2 * n ≤ t.pos))
        || (tapSeats s r ts).any fun e => (pairOf (s.cluster e.2.1) e.2.2).used then fails s
      else armTap s r ⟨tap, bs, addr, step, 0⟩

def restoreTaps (s : State) (r : Nat) (h : List Byte) : State :=
  forEach (maskBits 8 (bits (wordAt h 9) 7 0)) s fun s i =>
    rearm s r i (wordAt h (10 + 2 * i) + wordAt h (11 + 2 * i) % 2 ^ 16 * 2 ^ 32)

/-! ## The stage a restored region rejoins -/

/-- What rejoining a stage needs: its descriptor address and descriptor, its pass buffers with the saved region replaced
by the target, the region's image and code count. -/
structure Rejoin where
  desc : Nat
  stage : StageDesc
  pbs : List PbDesc
  image : Nat
  code : Nat
  deriving DecidableEq, Repr

/-- Read again what the stage start read; the error is a completion status. -/
def rejoinRead (s : State) (w : Who) (court src r desc : Nat) : State × Except Nat (Option Rejoin) :=
  if desc = noStage then (s, .ok none)
  else match startRead s w desc 256 with
  | (s, .error e) => (s, .error e.1)
  | (s, .ok bs) =>
    match parseStage bs with
    | none => (s, .error 0x0D)
    | some d =>
      match d.regions.find? fun e => e.region == src with
      | none => (s, .error 0x0D)
      | some e =>
        match startPbs s w d with
        | (s, .error e) => (s, .error e.1)
        | (s, .ok pbs) =>
          match startRead s w e.image 64 with
          | (s, .error e) => (s, .error e.1)
          | (s, .ok ib) =>
            match parseImage ib court with
            | none => (s, .error 0x0D)
            | some code =>
              let home (k : Nat) : Nat := if k = src then r else k
              (s, .ok (some ⟨desc, d,
                pbs.map fun p => { p with prodRegion := home p.prodRegion, consRegion := home p.consRegion }, e.image, code⟩))

/-- The region joins its stage again, with the buffers' reservations remade (R225). -/
def rejoin (s : State) (court r : Nat) (j : Rejoin) : State :=
  let s := (reserveBufs s j.pbs).getD s
  let s := s.updRegion r fun x =>
    { x with
      started := true, stageId := j.stage.id, stageDesc := j.desc, image := j.image, codeCount := j.code, pbs := j.pbs }
  let mine (t : Stage) : Bool := t.court == court && t.desc == j.desc && t.id == j.stage.id
  let s :=
    if s.stages.any mine then
      { s with stages := s.stages.map fun t => if mine t then { t with regions := t.regions ++ [r] } else t }
    else { s with stages := s.stages ++ [⟨court, j.stage.id, j.desc, [r]⟩] }
  forEach j.pbs s grantCredit

/-- Everything an accepted restore does; `now` is the state whose image is restored. -/
def restoreGo (s : State) (c : HostHdr) (r base : Nat) (j : Option Rejoin) : State :=
  let n := c.court.toNat
  let img (i : Nat) : List Byte := imgTile s base i
  let s' := restoreRegion (restoreClusters s r img) r img
  let s' := match j with
    | none => s'
    | some j => rejoin s' n r j
  let s' := restoreBanks s' n r (img 1)
  let s' := restoreTaps s' r (img 0)
  done (setQuiesce s' r true) c 0x2A 0

/-- The checks of a restore after its tiles are read: a mark or layout, the court, a tile's check, the stage. (DESIGN CHOICE, notes/assumptions/70.md) -/
def restoreCheck (s : State) (c : HostHdr) (r base : Nat) (bad : List Nat) : State :=
  let n := c.court.toNat
  let h := imgTile s base 0
  let bad := bad ++ badMarks s base
  if bad ≠ [] then done (raiseImage s r bad) c 0x2A 0x0D
  else if wordAt h 0 / 256 ≠ 0x5E6A01 ∨ bits (wordAt h 1) 15 12 ≠ n then done s c 0x2A 0x0D
  else
    let src := bits (wordAt h 1) 31 24 * 8 + bits (wordAt h 1) 23 16
    match rejoinRead s ⟨some n, 1, 3⟩ n src r (wordAt h 6 + wordAt h 7 % 2 ^ 16 * 2 ^ 32) with
    | (s, .error st) => done s c 0x2A st
    | (s, .ok none) => restoreGo s c r base none
    | (s, .ok (some j)) => if (reserveBufs s j.pbs).isNone then done s c 0x2A 6 else restoreGo s c r base (some j)

/-- RESTORE. -/
def execRestore (c : HostHdr) (region : BitVec 5) (addr : Addr48) (s : State) : Host.Outcome State Fault Refusal :=
  let r := region.toNat
  let a := addr.toNat
  if tilesWait s (saveSpan a 1) then turnedAway s
  else hostCmd s c 0x2A true fun s =>
    if s.courtOf r ≠ some c.court.toNat ∨ (s.region r).started ∨ !(regionIdle s r || regionQuiesced s r) then done s c 0x2A 4
    else if !aligned a then done (refuseUnaligned s (.device 1 2) a) c 0x2A 0x0C
    else match readImage s a with
      | (s, some _, _) => done s c 0x2A 0x0C
      | (s, none, bad) => restoreCheck s c r a bad

end Sys2Proof.Machine
end

