-- ==== Sys2Proof/Machine/Dispatch.lean ====
section
/-! DEFINITION. The dispatch of a command to its meaning: one arm per row of the opcode table. -/

namespace Sys2Proof.Machine

def exec (i : Instr) (s : State) : Host.Outcome State Fault Refusal :=
  match i with
  | .nop h => Sys2Proof.Machine.execNop h s
  | .setA h reg imm => Sys2Proof.Machine.execSetA h reg imm s
  | .addA h reg imm => Sys2Proof.Machine.execAddA h reg imm s
  | .setCount h reg imm => Sys2Proof.Machine.execSetCount h reg imm s
  | .loop h reg target => Sys2Proof.Machine.execLoop h reg target s
  | .jump h target => Sys2Proof.Machine.execJump h target s
  | .waitStep h => Sys2Proof.Machine.execWaitStep h s
  | .waitStepComplete region => Sys2Proof.Machine.execWaitStepComplete region s
  | .halt h => Sys2Proof.Machine.execHalt h s
  | .taskEnd h => Sys2Proof.Machine.execTaskEnd h s
  | .illegalInstruction region task word => Sys2Proof.Machine.execIllegalInstruction region task word s
  | .matrix h m => Sys2Proof.Machine.execMatrix h m s
  | .regionStep region => Sys2Proof.Machine.execRegionStep region s
  | .groupCloseFold region tile => Sys2Proof.Machine.execGroupCloseFold region tile s
  | .preload h o => Sys2Proof.Machine.execPreload h o s
  | .accjoin h o pb => Sys2Proof.Machine.execAccjoin h o pb s
  | .egress h o e => Sys2Proof.Machine.execEgress h o e s
  | .veAdd h o => Sys2Proof.Machine.execVeAdd h o s
  | .veSub h o => Sys2Proof.Machine.execVeSub h o s
  | .veMul h o => Sys2Proof.Machine.execVeMul h o s
  | .veMin h o => Sys2Proof.Machine.execVeMin h o s
  | .veMax h o => Sys2Proof.Machine.execVeMax h o s
  | .veFma h o => Sys2Proof.Machine.execVeFma h o s
  | .veNeg h o => Sys2Proof.Machine.execVeNeg h o s
  | .veAbs h o => Sys2Proof.Machine.execVeAbs h o s
  | .veCopy h o => Sys2Proof.Machine.execVeCopy h o s
  | .veDiv h o => Sys2Proof.Machine.execVeDiv h o s
  | .veSqrt h o => Sys2Proof.Machine.execVeSqrt h o s
  | .veRsqrt h o => Sys2Proof.Machine.execVeRsqrt h o s
  | .veExp2 h o => Sys2Proof.Machine.execVeExp2 h o s
  | .veLog2 h o => Sys2Proof.Machine.execVeLog2 h o s
  | .veCompareEq h o md => Sys2Proof.Machine.execVeCompareEq h o md s
  | .veCompareNe h o md => Sys2Proof.Machine.execVeCompareNe h o md s
  | .veCompareLt h o md => Sys2Proof.Machine.execVeCompareLt h o md s
  | .veCompareLe h o md => Sys2Proof.Machine.execVeCompareLe h o md s
  | .veCompareGt h o md => Sys2Proof.Machine.execVeCompareGt h o md s
  | .veCompareGe h o md => Sys2Proof.Machine.execVeCompareGe h o md s
  | .maskAnd h o md ma mb => Sys2Proof.Machine.execMaskAnd h o md ma mb s
  | .maskOr h o md ma mb => Sys2Proof.Machine.execMaskOr h o md ma mb s
  | .maskXor h o md ma mb => Sys2Proof.Machine.execMaskXor h o md ma mb s
  | .maskNot h o md ma mb => Sys2Proof.Machine.execMaskNot h o md ma mb s
  | .convert h o tfmt => Sys2Proof.Machine.execConvert h o tfmt s
  | .tileRead h o t => Sys2Proof.Machine.execTileRead h o t s
  | .veLoad h o m => Sys2Proof.Machine.execVeLoad h o m s
  | .veStore h o m => Sys2Proof.Machine.execVeStore h o m s
  | .reduceSum h o k => Sys2Proof.Machine.execReduceSum h o k s
  | .reduceMax h o k => Sys2Proof.Machine.execReduceMax h o k s
  | .reduceMin h o k => Sys2Proof.Machine.execReduceMin h o k s
  | .randomRaw h o => Sys2Proof.Machine.execRandomRaw h o s
  | .randomUniform h o => Sys2Proof.Machine.execRandomUniform h o s
  | .dropout h o t scale mk => Sys2Proof.Machine.execDropout h o t scale mk s
  | .seed h o seed => Sys2Proof.Machine.execSeed h o seed s
  | .broadcast h o value => Sys2Proof.Machine.execBroadcast h o value s
  | .tapArm h tap a => Sys2Proof.Machine.execTapArm h tap a s
  | .tapClose h tap => Sys2Proof.Machine.execTapClose h tap s
  | .tapDrain region tap => Sys2Proof.Machine.execTapDrain region tap s
  | .rootRequest h a => Sys2Proof.Machine.execRootRequest h a s
  | .rootRun region => Sys2Proof.Machine.execRootRun region s
  | .rootWaitExpiry atCaddie index => Sys2Proof.Machine.execRootWaitExpiry atCaddie index s
  | .weightLoad h a o => Sys2Proof.Machine.execWeightLoad h a o s
  | .fetch h a o => Sys2Proof.Machine.execFetch h a o s
  | .moveStore h a o => Sys2Proof.Machine.execMoveStore h a o s
  | .joinSend h o pb => Sys2Proof.Machine.execJoinSend h o pb s
  | .send h o => Sys2Proof.Machine.execSend h o s
  | .receive h o => Sys2Proof.Machine.execReceive h o s
  | .moveCopy h tilesM1 src dst => Sys2Proof.Machine.execMoveCopy h tilesM1 src dst s
  | .rootFetch h a o => Sys2Proof.Machine.execRootFetch h a o s
  | .offload h setId tilesM1 a watermark => Sys2Proof.Machine.execOffload h setId tilesM1 a watermark s
  | .valveMigrate region => Sys2Proof.Machine.execValveMigrate region s
  | .valveRestore h setId tilesM1 a => Sys2Proof.Machine.execValveRestore h setId tilesM1 a s
  | .markRecompute h setId tilesM1 a => Sys2Proof.Machine.execMarkRecompute h setId tilesM1 a s
  | .enqueue h entry tag => Sys2Proof.Machine.execEnqueue h entry tag s
  | .benchTaskStart region => Sys2Proof.Machine.execBenchTaskStart region s
  | .fence h => Sys2Proof.Machine.execFence h s
  | .arrive h gid a commit => Sys2Proof.Machine.execArrive h gid a commit s
  | .huddleWait h gid a => Sys2Proof.Machine.execHuddleWait h gid a s
  | .arriveAndWait h gid a commit => Sys2Proof.Machine.execArriveAndWait h gid a commit s
  | .substituteSwitchIn region cluster => Sys2Proof.Machine.execSubstituteSwitchIn region cluster s
  | .stageDeadline region index age => Sys2Proof.Machine.execStageDeadline region index age s
  | .stageDone court stageId => Sys2Proof.Machine.execStageDone court stageId s
  | .sessionOpen src flow device court tag => Sys2Proof.Machine.execSessionOpen src flow device court tag s
  | .sessionClose session tag => Sys2Proof.Machine.execSessionClose session tag s
  | .courtCreate c mask => Sys2Proof.Machine.execCourtCreate c mask s
  | .courtRelease c => Sys2Proof.Machine.execCourtRelease c s
  | .dataWrite c addr tiles => Sys2Proof.Machine.execDataWrite c addr tiles s
  | .dataRead c addr count => Sys2Proof.Machine.execDataRead c addr count s
  | .stageStart c addr => Sys2Proof.Machine.execStageStart c addr s
  | .step c step => Sys2Proof.Machine.execStep c step s
  | .stepRedo c step => Sys2Proof.Machine.execStepRedo c step s
  | .quiesce c => Sys2Proof.Machine.execQuiesce c s
  | .quiesceDone court => Sys2Proof.Machine.execQuiesceDone court s
  | .resume c => Sys2Proof.Machine.execResume c s
  | .save c mask base => Sys2Proof.Machine.execSave c mask base s
  | .restore c region addr => Sys2Proof.Machine.execRestore c region addr s
  | .abortCourt c => Sys2Proof.Machine.execAbortCourt c s
  | .abortCommand c tag => Sys2Proof.Machine.execAbortCommand c tag s
  | .regionResume c region atAddr addr => Sys2Proof.Machine.execRegionResume c region atAddr addr s
  | .registerRequest h q => Sys2Proof.Machine.execRegisterRequest h q s
  | .registerWrite h off v => Sys2Proof.Machine.execRegisterWrite h off v s
  | .pageQuiesceWrite h page v => Sys2Proof.Machine.execPageQuiesceWrite h page v s
  | .pageEnableWrite h page v => Sys2Proof.Machine.execPageEnableWrite h page v s
  | .pageLockSet h page => Sys2Proof.Machine.execPageLockSet h page s
  | .pcntSelWrite h page n v => Sys2Proof.Machine.execPcntSelWrite h page n v s
  | .accDiscard h cluster v => Sys2Proof.Machine.execAccDiscard h cluster v s
  | .veReseed h cluster v => Sys2Proof.Machine.execVeReseed h cluster v s
  | .flagTrapRearm h cluster v => Sys2Proof.Machine.execFlagTrapRearm h cluster v s
  | .nanTrapRearm h court v => Sys2Proof.Machine.execNanTrapRearm h court v s
  | .stkRangeSelect h stack v => Sys2Proof.Machine.execStkRangeSelect h stack v s
  | .stkRangeApply h stack => Sys2Proof.Machine.execStkRangeApply h stack s
  | .stkRetireCmd h stack deep channel => Sys2Proof.Machine.execStkRetireCmd h stack deep channel s
  | .tileRetry a court reader master outcome => Sys2Proof.Machine.execTileRetry a court reader master outcome s
  | .scrubTile stack bad changed => Sys2Proof.Machine.execScrubTile stack bad changed s
  | .channelRetire stack deep channel => Sys2Proof.Machine.execChannelRetire stack deep channel s
  | .pkgReturn h kind stack channel => Sys2Proof.Machine.execPkgReturn h kind stack channel s
  | .gradientPart g => Sys2Proof.Machine.execGradientPart g s
  | .stagedPartApply stack => Sys2Proof.Machine.execStagedPartApply stack s
  | .caddieReady stack => Sys2Proof.Machine.execCaddieReady stack s
  | .readyTimeout stack => Sys2Proof.Machine.execReadyTimeout stack s
  | .caddieCommit stack => Sys2Proof.Machine.execCaddieCommit stack s
  | .caddieCmdDiscard h stack => Sys2Proof.Machine.execCaddieCmdDiscard h stack s
  | .caddieCmdDigest h stack => Sys2Proof.Machine.execCaddieCmdDigest h stack s
  | .caddieCmdAuthority h stack dev => Sys2Proof.Machine.execCaddieCmdAuthority h stack dev s
  | .digestPass stack diffs => Sys2Proof.Machine.execDigestPass stack diffs s
  | .caddiePtCountWrite h stack v => Sys2Proof.Machine.execCaddiePtCountWrite h stack v s
  | .caddieTransfer w m => Sys2Proof.Machine.execCaddieTransfer w m s
  | .parityRebuild stack => Sys2Proof.Machine.execParityRebuild stack s
  | .huddleArriveMsg w gid num step arrivals => Sys2Proof.Machine.execHuddleArriveMsg w gid num step arrivals s
  | .packageArrive gid num => Sys2Proof.Machine.execPackageArrive gid num s
  | .huddleComplete w gid num step => Sys2Proof.Machine.execHuddleComplete w gid num step s
  | .huddleFail w gid num step cause => Sys2Proof.Machine.execHuddleFail w gid num step cause s
  | .huddleTimeout gid num => Sys2Proof.Machine.execHuddleTimeout gid num s
  | .huddleOrphan gid num => Sys2Proof.Machine.execHuddleOrphan gid num s
  | .huddleDeclareComplete h index => Sys2Proof.Machine.execHuddleDeclareComplete h index s
  | .huddleDeclareFail h index => Sys2Proof.Machine.execHuddleDeclareFail h index s
  | .ceHgLoad h v => Sys2Proof.Machine.execCeHgLoad h v s
  | .cePlanLoad h v => Sys2Proof.Machine.execCePlanLoad h v s
  | .collectiveData w m => Sys2Proof.Machine.execCollectiveData w m s
  | .collectiveRunEnd entry => Sys2Proof.Machine.execCollectiveRunEnd entry s
  | .relayArm h gid => Sys2Proof.Machine.execRelayArm h gid s
  | .relayCopyRestart h gid => Sys2Proof.Machine.execRelayCopyRestart h gid s
  | .relayTiles w m => Sys2Proof.Machine.execRelayTiles w m s
  | .relayStaged => Sys2Proof.Machine.execRelayStaged s
  | .ack w => Sys2Proof.Machine.execAck w s
  | .nak w => Sys2Proof.Machine.execNak w s
  | .credit w => Sys2Proof.Machine.execCredit w s
  | .passBufferEntry w data crc resent => Sys2Proof.Machine.execPassBufferEntry w data crc resent s
  | .ackTimer dev flow => Sys2Proof.Machine.execAckTimer dev flow s
  | .retransmitTimeout dev flow => Sys2Proof.Machine.execRetransmitTimeout dev flow s
  | .cwndUpdate dev flow srtt => Sys2Proof.Machine.execCwndUpdate dev flow srtt s
  | .chesyReopen h => Sys2Proof.Machine.execChesyReopen h s
  | .clearDup h p => Sys2Proof.Machine.execClearDup h p s
  | .neighbourFrame q target => Sys2Proof.Machine.execNeighbourFrame q target s
  | .pfcFrame q pfc prio quanta => Sys2Proof.Machine.execPfcFrame q pfc prio quanta s
  | .linkDown q => Sys2Proof.Machine.execLinkDown q s
  | .laneFecWindow q lane corrected symbols codewords lost => Sys2Proof.Machine.execLaneFecWindow q lane corrected symbols codewords lost s
  | .laneSignalLoss q lane => Sys2Proof.Machine.execLaneSignalLoss q lane s
  | .laneRetry q lane => Sys2Proof.Machine.execLaneRetry q lane s
  | .laneProbationEnd q lane => Sys2Proof.Machine.execLaneProbationEnd q lane s
  | .umpireVote v => Sys2Proof.Machine.execUmpireVote v s
  | .strikeExpiry k => Sys2Proof.Machine.execStrikeExpiry k s
  | .umpireLocalise region index rows elsewhere => Sys2Proof.Machine.execUmpireLocalise region index rows elsewhere s
  | .clusterTakeover region => Sys2Proof.Machine.execClusterTakeover region s
  | .umpReturnProbation h region cluster => Sys2Proof.Machine.execUmpReturnProbation h region cluster s
  | .umpRetire h region cluster => Sys2Proof.Machine.execUmpRetire h region cluster s
  | .probationJobEnd region rows mismatch => Sys2Proof.Machine.execProbationJobEnd region rows mismatch s
  | .linkFatal core => Sys2Proof.Machine.execLinkFatal core s
  | .seSubmit h stack tier tile => Sys2Proof.Machine.execSeSubmit h stack tier tile s
  | .seJobStart units => Sys2Proof.Machine.execSeJobStart units s
  | .seJobEnd => Sys2Proof.Machine.execSeJobEnd s
  | .seDeadline index => Sys2Proof.Machine.execSeDeadline index s
  | .seCancel h court tag => Sys2Proof.Machine.execSeCancel h court tag s
  | .scLoadIndex h idx => Sys2Proof.Machine.execScLoadIndex h idx s
  | .scLoadNext h idx => Sys2Proof.Machine.execScLoadNext h idx s
  | .scLoadKey h => Sys2Proof.Machine.execScLoadKey h s
  | .scClearRecord h idx => Sys2Proof.Machine.execScClearRecord h idx s
  | .scClearAll h => Sys2Proof.Machine.execScClearAll h s
  | .scSave h => Sys2Proof.Machine.execScSave h s
  | .rateTokenTick code => Sys2Proof.Machine.execRateTokenTick code s
  | .ctrFreeze h => Sys2Proof.Machine.execCtrFreeze h s
  | .ctrUnfreeze h => Sys2Proof.Machine.execCtrUnfreeze h s
  | .ctrSnapshotReturn h => Sys2Proof.Machine.execCtrSnapshotReturn h s
  | .ctrSnapshotHold h => Sys2Proof.Machine.execCtrSnapshotHold h s
  | .ctrClear h => Sys2Proof.Machine.execCtrClear h s
  | .ctrArm h action gid => Sys2Proof.Machine.execCtrArm h action gid s
  | .vcoreModeWrite h die mode => Sys2Proof.Machine.execVcoreModeWrite h die mode s
  | .paceModeWrite h region mode => Sys2Proof.Machine.execPaceModeWrite h region mode s
  | .powerControlPeriod input compute stackW hub loss => Sys2Proof.Machine.execPowerControlPeriod input compute stackW hub loss s
  | .droopEngage region => Sys2Proof.Machine.execDroopEngage region s
  | .droopRelease region => Sys2Proof.Machine.execDroopRelease region s
  | .droopSustained region => Sys2Proof.Machine.execDroopSustained region s
  | .stackDroop stack engage => Sys2Proof.Machine.execStackDroop stack engage s
  | .thermalSample sensor tj => Sys2Proof.Machine.execThermalSample sensor tj s
  | .thermalCeilingTick => Sys2Proof.Machine.execThermalCeilingTick s
  | .railFault rail mv => Sys2Proof.Machine.execRailFault rail mv s
  | .vin12Undervoltage => Sys2Proof.Machine.execVin12Undervoltage s
  | .auxPowerOn => Sys2Proof.Machine.execAuxPowerOn s
  | .packageStart idx => Sys2Proof.Machine.execPackageStart idx s
  | .pwrgoodAssert t => Sys2Proof.Machine.execPwrgoodAssert t s
  | .regulatorStartTimeout => Sys2Proof.Machine.execRegulatorStartTimeout s
  | .pwrgoodDeassert => Sys2Proof.Machine.execPwrgoodDeassert s
  | .resetNAssert => Sys2Proof.Machine.execResetNAssert s
  | .watchdogReset => Sys2Proof.Machine.execWatchdogReset s
  | .holdupOkChange level => Sys2Proof.Machine.execHoldupOkChange level s
  | .refclkLoss clock => Sys2Proof.Machine.execRefclkLoss clock s
  | .flashBeginFirmware h => Sys2Proof.Machine.execFlashBeginFirmware h s
  | .flashBeginSettings h => Sys2Proof.Machine.execFlashBeginSettings h s
  | .flashChunk h => Sys2Proof.Machine.execFlashChunk h s
  | .flashVerify h => Sys2Proof.Machine.execFlashVerify h s
  | .flashAbandon h => Sys2Proof.Machine.execFlashAbandon h s
  | .fwConfirm h => Sys2Proof.Machine.execFwConfirm h s
  | .fwInstall h => Sys2Proof.Machine.execFwInstall h s
  | .fwReset h => Sys2Proof.Machine.execFwReset h s
  | .fwCancelArm h => Sys2Proof.Machine.execFwCancelArm h s
  | .activationArm h group => Sys2Proof.Machine.execActivationArm h group s
  | .activationRestart => Sys2Proof.Machine.execActivationRestart s
  | .activationWindowTimeout => Sys2Proof.Machine.execActivationWindowTimeout s
  | .attest h => Sys2Proof.Machine.execAttest h s
  | .attestDone => Sys2Proof.Machine.execAttestDone s
  | .sidebandWrite off data wellFormed pec => Sys2Proof.Machine.execSidebandWrite off data wellFormed pec s
  | .sidebandRead off words wellFormed pec => Sys2Proof.Machine.execSidebandRead off words wellFormed pec s
  | .sbAlertClear h => Sys2Proof.Machine.execSbAlertClear h s
  | .bypass => Sys2Proof.Machine.execBypass s
  | .idcode => Sys2Proof.Machine.execIdcode s
  | .samplePreload => Sys2Proof.Machine.execSamplePreload s
  | .extest => Sys2Proof.Machine.execExtest s
  | .extestPulse => Sys2Proof.Machine.execExtestPulse s
  | .extestTrain => Sys2Proof.Machine.execExtestTrain s
  | .clamp => Sys2Proof.Machine.execClamp s
  | .highz => Sys2Proof.Machine.execHighz s
  | .dbgreg tag q => Sys2Proof.Machine.execDbgreg tag q s
  | .strikeWindowExpiry stack channel => Sys2Proof.Machine.execStrikeWindowExpiry stack channel s
  | .v3p3AuxRemoved => Sys2Proof.Machine.execV3p3AuxRemoved s
  | .v1p8InTolerance => Sys2Proof.Machine.execV1p8InTolerance s
  | .linkUp q => Sys2Proof.Machine.execLinkUp q s
  | .flashXferDone => Sys2Proof.Machine.execFlashXferDone s
  | .scSaveDone failed => Sys2Proof.Machine.execScSaveDone failed s
  | .snapshotCopyDone => Sys2Proof.Machine.execSnapshotCopyDone s
  | .vcoreRampEnd die => Sys2Proof.Machine.execVcoreRampEnd die s
  | .regionBlockFailure region => Sys2Proof.Machine.execRegionBlockFailure region s
  | .trstNChange asserted => Sys2Proof.Machine.execTrstNChange asserted s

end Sys2Proof.Machine
end

