-- ==== Sys2Proof/Machine/Tick.lean ====
section
/-! DEFINITION. What passes while no command waits: the management core's second (19_firmware_and_trust.md MC_UPTIME;
notes/assumptions/1.md). -/

namespace Sys2Proof.Machine

/-- One tick: the management core counts a second while its rail stands, pauses of the ports run out
(13_fabric_and_collectives.md R314), waiting root fetches read their control tiles again (08_root_engines.md R191). (DESIGN CHOICE, notes/assumptions/1.md) -/
def tick (s : State) : State :=
  let s := if s.board.aux then s.setFld Page.mc F.MC_UPTIME_seconds (s.uptime + 1) else s
  settleAllFetches (if s.paused.isEmpty then s else pumpAll { s with paused := [] })

end Sys2Proof.Machine
end

