-- ==== Sys2Proof/Machine/Step.lean ====
section
/-! DEFINITION. The step: the command at the front of the queue, or a tick where none waits. -/

namespace Sys2Proof.Machine

/-- One step: the command at the front of the queue acts on the rest; with none waiting, a second passes
(DESIGN CHOICE, notes/assumptions/8.md) (DESIGN CHOICE, notes/assumptions/1.md). -/
def step (s : State) : Host.Outcome State Fault Refusal :=
  match s.pending with
  | [] => effect s tick
  | c :: rest => exec c { s with pending := rest }

/-- s with a command at the front of its queue. -/
def State.push (s : State) (c : Instr) : State := { s with pending := c :: s.pending }

/-- s with the command a table word spells at the front of its queue; the table gives no row any bits, so none does
(DESIGN CHOICE, notes/assumptions/9.md). -/
def State.withFetchWord (s : State) (nbits w : Nat) : State :=
  match decodeTableWord nbits w with
  | some c => s.push c
  | none => s

end Sys2Proof.Machine
end

