-- ==== Sys2Proof/Machine/Pins.lean ====
section
/-! DEFINITION. The levels of the output pins, read from the state (18_power_and_speed.md R439; 20_package_and_pins.md R475,
R478, R484). -/

namespace Sys2Proof.Machine

/-- COURT_FAULT_N is asserted while a COURT page has an unmasked court_aborted (R478). -/
def courtFaultAsserted (s : State) : Bool :=
  (List.range 16).any fun n =>
    bit (s.reg (Page.court n + 0x18)).toNat Err.court_court_aborted
      && !bit (s.reg (Page.court n + 0x1C)).toNat Err.court_court_aborted

/-- SMBALERT_N is asserted while SB_ALERT.active is 1 (R484). -/
def smbAlertAsserted (s : State) : Bool := s.fld Page.sb F.SB_ALERT_active == 1

/-- THERMTRIP_N is asserted after a thermal trip, until V3P3_AUX is removed (R439, R475). -/
def thermTripAsserted (s : State) : Bool := s.power.tripped

end Sys2Proof.Machine
end

