-- ==== Sys2Proof/Safety.lean ====
section
/-! DEFINITION. What a safe state is (01_package_and_hierarchy.md R20), and the conditions on a state under which a command
has its effect, in the terms the statements use. -/

namespace Sys2Proof.Machine

/-- A region belongs to at most one court at a time (R20); the assignment is in canonical form and names courts 0 to 15. -/
def CourtsDisjoint (s : State) : Prop :=
  KMap.wf s.assign (fun _ => 0#32) = true ∧ (∀ e ∈ s.assign, e.1 < 16) ∧ s.assign.Pairwise fun a b => a.2 &&& b.2 = 0#32

/-- The maps that hold memory, cluster stores, flows, huddle groups and decided numbers are canonical: keys rising, and no entry that says what
its absence says. -/
def MapsCanonical (s : State) : Prop :=
  Memory.wf s.mem = true ∧ (∀ c, Memory.wf (s.cluster c).store = true) ∧ KMap.wf s.flows (fun _ => .init) = true ∧
    KMap.wf s.groups (fun _ => noGroup) = true ∧ ∀ i, KMap.wf (group s i).decided (fun _ => 0) = true

/-- The next instruction of a program can issue: its region runs, its code tile can be used and its header's conditions hold
(09_ablos_encoding.md R201, R202, R218; 02_register_pages.md R47). -/
def Issuable (s : State) (h : Hdr) : Prop :=
  mayIssue s h = true ∧ fetchOk s h = true ∧ headerReady s h = true

/-- The word after a program's next instruction lies inside its code (Table 9.14 reason 0x07). -/
def FallsInside (s : State) (h : Hdr) : Prop := (s.prog h).pc + 1 < (s.region h.region.toNat).codeCount

/-- Every tile a span touches can be read by `w`, and none of them is poisoned, lost or waits for a rebuild (11_stacks_and_tiles.md R257
to R261, R267). -/
def Readable (s : State) (w : Who) (a n : Nat) : Prop :=
  ∀ tile ∈ spanTiles a n, admits s w tile = none ∧ tagWrong s w (tileData s tile).2 = false
    ∧ (tileData s tile).2.poison = false ∧ (trailerAt s tile).state = .written

/-- Every tile a span touches can be written by `w` (R261). -/
def Writable (s : State) (w : Who) (a n : Nat) : Prop := ∀ tile ∈ spanTiles a n, admits s w tile = none

/-- Every tile a span touches holds format code `named` or the untyped code 0x0 (R62). -/
def Formatted (s : State) (a n named : Nat) : Prop :=
  ∀ tile ∈ spanTiles a n, Fmt.agree (trailerAt s tile).format.toNat named = true

/-- Every tile a span touches can be written by `w` and holds data, so that bytes merged into it stand (R255, R267). -/
def Stores (s : State) (w : Who) (a n : Nat) : Prop :=
  ∀ tile ∈ spanTiles a n, admits s w tile = none ∧ (trailerAt s tile).state = .written

/-- The bytes a consumer takes next from a pass buffer: those drained for it and those in the store (R226). -/
def storeBytes (b : PassBuf) : List Byte := b.taking ++ (b.store.flatMap (·.bytes)).drop b.taken

/-- n bytes of a pass buffer lie in its store, none of them poisoned (R227). -/
def AtHand (s : State) (d : PbDesc) (n : Nat) : Prop :=
  n ≤ (storeBytes (bufOf s d)).length ∧ n ≤ available s d ∧ (bufOf s d).takingPoison = false ∧
    (∀ e ∈ (bufOf s d).store, e.poison = false ∧ e.bytes ≠ []) ∧
    (∀ e ∈ (bufOf s d).store.head?, (bufOf s d).taken < e.bytes.length) ∧ ((bufOf s d).store = [] → (bufOf s d).taken = 0)

/-- Every byte a pass buffer holds in order, the entry being filled included. -/
def pbAll (b : PassBuf) : List Byte :=
  b.taking ++ ((b.store ++ b.spill.map (·.2) ++ b.queue).flatMap (·.bytes)).drop b.taken ++ b.filling

/-- `bytes` joined the end of a pass buffer: entries of whole size were produced of them, and with the consumer on this package every
byte stands in the buffer in order (R226). -/
def Pushed (s t : State) (d : PbDesc) (bytes : List Byte) : Prop :=
  (bufOf t d).produced = (bufOf s d).produced + ((bufOf s d).filling.length + bytes.length) / d.entryBytes ∧
    (consumedHere s d = true →
      (bufOf s d).taken ≤ (((bufOf s d).store ++ (bufOf s d).spill.map (·.2) ++ (bufOf s d).queue).flatMap (·.bytes)).length →
      pbAll (bufOf t d) = pbAll (bufOf s d) ++ bytes)

/-- The first n bytes at hand left a pass buffer and the next ones lead it. -/
def TakenFront (s t : State) (d : PbDesc) (n : Nat) : Prop := ∃ more, storeBytes (bufOf t d) = (storeBytes (bufOf s d)).drop n ++ more

/-- The bytes of a span of memory. -/
def bytesAt (s : State) (a n : Nat) : List Byte := (List.range n).map fun i => Memory.byte s.mem (a + i)

/-- The participating clusters of a region have physical indices of their own (01_package_and_hierarchy.md R36). -/
def PartsApart (s : State) (r : Nat) : Prop := ((parts s r).map (·.2)).Nodup

/-- Only registers of page `p` differ. -/
def OnlyPage (s t : State) (p : Nat) : Prop := ∀ o, ¬ (p ≤ o ∧ o < p + 0x1000) → t.reg o = s.reg o

/-- Only region r and registers of its RG page differ. -/
def OnlyRegion (r : Nat) (s t : State) : Prop :=
  t = { s with regions := t.regions, regs := t.regs } ∧ (∀ q, q ≠ r → t.region q = s.region q) ∧ OnlyPage s t (Page.rg r)

/-- What every vector instruction leaves alone: memory and the state outside the region, its RG page, its clusters and the
record of flags and NaNs; of a cluster its tile units and accumulators; the clusters that do not participate. -/
def VectorFrame (h : Hdr) (s t : State) : Prop :=
  t = { s with
        regs := t.regs, score := t.score, spent := t.spent, outbox := t.outbox, regions := t.regions, clusters := t.clusters } ∧
    (t.prog h) = { s.prog h with pc := (s.prog h).pc + 1 } ∧
    (∀ q, q ≠ h.region.toNat → (t.region q).main = (s.region q).main ∧ (t.region q).task = (s.region q).task) ∧
    (∀ c, (t.cluster c).units = (s.cluster c).units ∧ (t.cluster c).acc = (s.cluster c).acc) ∧
    ∀ c, (∀ e ∈ parts s h.region.toNat, c ≠ clusterOf h.region.toNat e.2) → t.cluster c = s.cluster c

/-- What holds of each participating cluster before and after. -/
def EachCluster (h : Hdr) (s t : State) (P : Cluster → Cluster → Prop) : Prop :=
  ∀ e ∈ parts s h.region.toNat, P (s.cluster (clusterOf h.region.toNat e.2)) (t.cluster (clusterOf h.region.toNat e.2))

/-- Is lane i active (R139)? -/
def active (x : Cluster) (o : VecOp) (i : Nat) : Bool := (maskReg x o.mask.toNat).getLsbD i

/-- A destination after an instruction: an active lane holds `val`, a masked one keeps its element or becomes +0 (R139); no other
vector register changes. -/
def LanesWritten (x y : Cluster) (o : VecOp) (val : Nat → Nat) : Prop :=
  (∀ i, i < 128 → lane y o.vd.toNat i = if active x o i then val i else if o.zmode then 0 else lane x o.vd.toNat i) ∧
    ∀ n, n ≠ o.vd.toNat → vReg y n = vReg x n

/-- Exactly the lanes `takes` picks have drawn once (R147, R148). -/
def DrawsTaken (x y : Cluster) (takes : Nat → Bool) : Prop :=
  ∀ i, genOf y i = if takes i then (xoshiro (genOf x i)).2 else genOf x i

/-- The draw a lane uses for its rounding: its next one under SR (R80, R140). -/
def drawFor (x : Cluster) (o : VecOp) (i : Nat) : Nat := if o.rnd = 3#2 then (xoshiro (genOf x i)).1.toNat else 0

/-- Lane i's element and scale byte lie within the cluster store and the lane is active: it accesses the store (R143). -/
def accesses (x : Cluster) (o : VecOp) (m : VecMem) (i : Nat) : Bool := active x o i && (laneAt m i).2.2

/-- The active lanes of an MX block that `takes` picks, with their draws and values. -/
def mxLanes (x : Cluster) (o : VecOp) (takes : Nat → Bool) (j : Nat) : List (Nat × Nat × XNum) :=
  ((List.range 128).filter fun i => takes i && i / 32 == j).map fun i => (i, drawFor x o i, laneNum x o.va.toNat i)

/-- The lanes' summary of flags after an operation and its one rounding (R144). -/
def summary (x : Cluster) (o : VecOp) (op : Nat → XNum × Flags) : Nat :=
  (((List.range 128).filter (active x o)).foldl (fun f i =>
    f.or ((op i).2.or (fp32.round (rndOf o) (drawFor x o i) o.sat (op i).1).2)) Flags.none).bits

/-- The tree of a reduction (R146): v[0] are the leaves, a node is its operation rounded to FP32 by RNE. -/
def treeNode (op : XNum → XNum → XNum × Flags) (leaf : Nat → XNum) : Nat → Nat → XNum
  | 0, i => leaf i
  | k + 1, i => fp32.decode (fp32.round .rne 0 false (op (treeNode op leaf k (2 * i)) (treeNode op leaf k (2 * i + 1))).1).1

/-! ## Tensor units and accumulators -/

/-- The source of a matrix instruction can be read: tiles of its formats, or a pass buffer with its bytes at hand. -/
def FeedReadable (s : State) (h : Hdr) (m : MatrixOp) : Prop :=
  (m.srcPb = false → Memory.wf s.mem = true ∧
    Readable s (regionWho s h 0) (matrixSrc (s.prog h) m) (matrixRows m * feedBytes m.afmt.toNat) ∧
    Formatted s (matrixSrc (s.prog h) m) (matrixRows m * feedBytes m.afmt.toNat) m.afmt.toNat ∧
    (Fmt.isMx m.afmt.toNat = true → Readable s (regionWho s h 0) (matrixScales (s.prog h) m) (2 * matrixRows m) ∧
      Formatted s (matrixScales (s.prog h) m) (2 * matrixRows m) 15)) ∧
  (m.srcPb = true → ∃ d, pbDesc s h.region.toNat m.src.disp.toNat = some d ∧ AtHand s d (matrixRows m * matrixRowBytes m))

/-- The sum a close fold leaves of the chunks of one element, lowest level first (R121). -/
def foldNums : List XNum → XNum
  | [] => .zero
  | v :: t => t.foldl (fun r v => (add40 v r).1) v

/-- The value a chunk's element stands at after its carries: each occupied slot below is added, the older partial on the left
(R120). -/
def carryNums : List XNum → XNum → XNum
  | [], x => x
  | v :: t, x => carryNums t (add40 v x).1

/-- The lowest level of a row that is not occupied (R120). -/
def freeLevel (depth cnt : Nat) : Nat := ((List.range (depth + 1)).find? fun l => !bit cnt l).getD 0

/-- Element k of a row of a unit's tile as a number. -/
def accNum (x : Cluster) (u tile row k : Nat) : XNum := num40 ((accRow x u tile row).els.getD k 0#40)

/-- A chunk has joined row `row` of a group: slot[free level] of block b holds the carried sum of the occupied slots below and the
chunk, the count is one more, and the level-0 mark is the first chunk's or, where a later one differs, conflict (R120, R108). -/
def ChunkAdded (x y : Cluster) (u : Nat) (g : Group) (row : Nat) (mark : BitVec 7) (chunk : Nat → List XNum) : Prop :=
  ∀ cnt, cnt = KMap.get (unitOf x u).counts 0 (g.base * 64 + row) → cnt < 2 ^ g.depth →
    KMap.get (unitOf y u).counts 0 (g.base * 64 + row) = cnt + 1 ∧
      ∀ b, b < g.width → (chunk b).length = 64 →
        (∀ l, l ≤ g.depth → (accRow x u (g.base + g.width * l + b) row).els.length = 64) →
        (∀ k, k < 64 → (accRow y u (g.base + g.width * freeLevel g.depth cnt + b) row).els[k]? =
          some (bits40 (carryNums ((List.range (freeLevel g.depth cnt)).map fun l => accNum x u (g.base + g.width * l + b) row k)
            ((chunk b).getD k .zero)))) ∧
        (accRow y u (g.base + b) row).mark = if cnt = 0 then mark
          else if (accRow x u (g.base + b) row).mark = mark then mark else markConflict

/-- The groups of each unit of a cluster lie within tiles 0 to 31, have a width, and a base of their own (R119, R124). -/
def GroupsFit (x : Cluster) : Prop :=
  ∀ u, ((unitOf x u).groups.map (·.base)).Nodup ∧
    ∀ g ∈ (unitOf x u).groups, g.base + g.width * (g.depth + 1) ≤ 32 ∧ 0 < g.width

/-- What a reader of closed results needs: its rows lie in the map of its program, none in an open or folding group, and the marks of
every tile it reads are those of its rows (R109, R206, R130). -/
def ResultsReady (s : State) (h : Hdr) (units : Nat) (ps : List ReadPart) : Prop :=
  openReads s h.region.toNat units ps = [] ∧ readsWait s h.region.toNat units ps = false ∧
    ∀ q ∈ ps, ∀ u ∈ maskBits 4 units, markFails (s.cluster (clusterOf h.region.toNat q.phys)) u q.rows = []

/-! ## Roots -/

/-- Both copy headers of a root slot can be read. -/
def HeadsReadable (s : State) (w : Who) (slot q : Nat) : Prop :=
  Readable s w (copyAddr slot q 0) 64 ∧ Readable s w (copyAddr slot q 1) 64

/-- The headers of a root slot's copies. -/
def headsOf (s : State) (slot q : Nat) : List Byte × List Byte :=
  (bytesAt s (copyAddr slot q 0) 64, bytesAt s (copyAddr slot q 1) 64)

/-- The factor record of tile (i, j) holds elements `els` of step `st`: its newest valid copy, whose header names the request's layer, kind,
tile and court and marks nothing non-finite (R170, R179). -/
def RecordHeld (s : State) (w : Who) (b : List Byte) (i j st : Nat) (els : List Nat) : Prop :=
  ∃ t base c seq copy,
    t = reqBlock b * (reqQ b * (reqQ b + 1) / 2) + i * reqQ b - i * (i - 1) / 2 + j - i ∧
    base = (reqRecord b + t * 130 * tileBytes) % 2 ^ 48 ∧ copy = (base + c * 65 * tileBytes) % 2 ^ 48 ∧
    Readable s w ((base + 0 * 65 * tileBytes) % 2 ^ 48) 64 ∧ Readable s w ((base + 1 * 65 * tileBytes) % 2 ^ 48) 64 ∧
    newestCopy (copySeq (bytesAt s ((base + 0 * 65 * tileBytes) % 2 ^ 48) 64))
      (copySeq (bytesAt s ((base + 1 * 65 * tileBytes) % 2 ^ 48) 64)) = some (c, seq) ∧
    recordMatches (bytesAt s copy 64) b (w.court.getD 0) t i j = true ∧ bit (wordAt (bytesAt s copy 64) 8) 1 = false ∧
    Readable s w ((copy + tileBytes) % 2 ^ 48) (64 * tileBytes) ∧ st = step48 (bytesAt s copy 64) 3 ∧
    els = unpackBits 32 65536 (bytesAt s ((copy + tileBytes) % 2 ^ 48) (64 * tileBytes))

/-! ## Moves -/

/-- A carrier may copy the tile at `src` to `dst` (R254, R261). -/
def Copyable (s : State) (w : Who) (src dst : Nat) : Prop :=
  admits s w src = none ∧ tagWrong s w (tileData s src).2 = false ∧ admits s w dst = none

/-- The tile at `dst` holds what a read of the tile at `src` gave, with its format, generation and poison and the tag of its own
range (R254, R259, R260). -/
def Copied (s t : State) (src dst : Nat) : Prop :=
  bytesAt t dst tileBytes = (tileData s src).1 ∧ (trailerAt t dst).format = (tileData s src).2.format ∧
    (trailerAt t dst).gen = (tileData s src).2.gen ∧ (trailerAt t dst).poison = (tileData s src).2.poison ∧
    (trailerAt t dst).tag = tagAt s dst ∧ (trailerAt t dst).state = .written

/-- Every byte outside [a, a + n) reads as before. -/
def SameOutside (s t : State) (a n : Nat) : Prop := ∀ i, i < a ∨ a + n ≤ i → Memory.byte t.mem i = Memory.byte s.mem i

/-- A cluster store holds `bs` at `cs` with line code `f` and is otherwise as before. -/
def StoreHolds (x y : Cluster) (cs : Nat) (bs : List Byte) : Prop :=
  (∀ i, i < bs.length → Memory.byte y.store (cs + i) = bs.getD i 0#8) ∧
    (∀ i, i < cs ∨ cs + bs.length ≤ i → Memory.byte y.store i = Memory.byte x.store i) ∧
    y = { x with store := y.store, lineFmt := y.lineFmt }

/-- The block of a weight load can be read at `a`: every tile by the load's court and of its format (R97, R494). -/
def BlockReadable (s : State) (w : Who) (wfmt : Nat) (narrow : Bool) (a : Nat) : Prop :=
  a + (blockTiles wfmt narrow + 1) * tileBytes ≤ 2 ^ 48 ∧
    ∀ e ∈ blockSpan wfmt narrow a, Readable s w e.1 1 ∧ Fmt.agree (trailerAt s e.1).format.toNat e.2 = true

/-- The elements and the scales of a block in memory. -/
def blockAt (s : State) (wfmt : Nat) (narrow : Bool) (a : Nat) : List Byte × List Byte :=
  (bytesAt s a (blockBytes wfmt narrow), bytesAt s (a + blockTiles wfmt narrow * tileBytes) (scaleBytes wfmt narrow))

/-! ## Egress -/

/-- Draw n of a generator, counted from 0 (R147). -/
def nthDraw : List W32 → Nat → Nat
  | g, 0 => (xoshiro g).1.toNat
  | g, n + 1 => nthDraw (xoshiro g).2 n

/-- The 64 values of block b of logical row i of unit u, the k-th of the mask, after the fused operation (R131). -/
def egressVals (x : Cluster) (o : RowsOp) (e : EgressOp) (w i k u b : Nat) (ra : RowAt) : List XNum :=
  (List.range 64).map fun c =>
    if e.fop = 0#2 then accNum x u (ra.tile + b) ra.row c
    else (fuse e (accNum x u (ra.tile + b) ra.row c) (operandAt x o e w i (k * w + b) c)).1

/-- The draws of that block's lanes under SR: each earlier block of a unit of the same half took one (R149). -/
def egressDraws (x : Cluster) (o : RowsOp) (e : EgressOp) (w i u b : Nat) : List Nat :=
  let half := (maskBits 4 o.units.toNat).filter fun v => v % 2 == u % 2
  (List.range 64).map fun c => if e.rnd = 3#2 then
    nthDraw (genOf x (64 * (u % 2) + c)) ((i * half.length + (half.filter fun v => decide (v < u)).length) * w + b) else 0

/-- That block's element bytes and scale bytes, each value rounded once to the target (R131, R149). -/
def egressOut (x : Cluster) (o : RowsOp) (e : EgressOp) (w i k u b : Nat) (ra : RowAt) : List Byte × List Byte :=
  let r := convGroup e (egressDraws x o e w i u b) (egressVals x o e w i k u b ra)
  (packBits (Fmt.bits e.tfmt.toNat) r.1, r.2.1.map (BitVec.ofNat 8))

/-! ## Register accesses -/

/-- A register write reaches its register: its path is up, and it is aligned, mapped, permitted and its page in service (R54 to R58,
Table 2.11). -/
def Accepted (s : State) (h : RegHdr) (off : Nat) : Prop := pathUp s h.path = true ∧ regRefused s h off = none

/-- Only registers of the pages listed differ. -/
def RegsIn (ps : List Nat) (s t : State) : Prop := ∀ o, (∀ p ∈ ps, ¬ (p ≤ o ∧ o < p + 0x1000)) → t.reg o = s.reg o

/-- Only registers of the pages listed, and messages sent, differ. -/
def OnlyPages (ps : List Nat) (s t : State) : Prop := t = { s with regs := t.regs, outbox := t.outbox } ∧ RegsIn ps s t

/-! ## Flows and huddles -/

/-- What a flow has been given and not seen acknowledged, in order: type, words, bytes. -/
def givenTo (s : State) (dev fl : Nat) : List (Nat × List Nat × List Byte) :=
  ((flowOf s dev fl).unacked ++ (flowOf s dev fl).waiting).map fun m => (m.typ, m.words, m.data)

/-- A flow that has not failed takes one message more (R311, R314). -/
def Given (s t : State) (dev fl : Nat) (x : Nat × List Nat × List Byte) : Prop :=
  (flowOf s dev fl).failed = false → givenTo t dev fl = givenTo s dev fl ++ [x]

/-- A data message is the next of its flow, right, and for this package (R308, R309, R311). -/
def InTurn (s : State) (w : WireHdr) : Prop :=
  portTakes s w = true ∧ w.intact = true ∧ w.src.toNat ≠ deviceId s ∧ w.dst.toNat = deviceId s ∧
    w.seq.toNat = (flowOf s w.src.toNat w.flow.toNat).expect ∧ (flowOf s w.src.toNat w.flow.toNat).held = []

/-- The flow's next message is expected (R311). -/
def Turned (s t : State) (w : WireHdr) : Prop :=
  (flowOf t w.src.toNat w.flow.toNat).expect = ((flowOf s w.src.toNat w.flow.toNat).expect + 1) % 2 ^ 32

/-- A number as it stands in a group, a new one where it is not outstanding. -/
def numOf (g : HGroup) (h : Nat) : HNum := (findNum g h).getD (.init h)

/-- A number of a group is undecided and may take an arrival (R322). -/
def Undecided (s : State) (i num : Nat) : Prop :=
  numDecided (group s i) num = false ∧ KMap.wf (group s i).decided (fun _ => 0) = true ∧ numRoom (group s i) num = true

/-- A number triggers no collective run and is none of an armed Relay's. -/
def HuddleQuiet (s : State) (id num : Nat) : Prop := (∀ e ∈ s.plans, plTrigger e.2 ≠ id) ∧ relayRole s id num = none

/-- A number is decided with an outcome, 1 complete and 2 fail: no longer outstanding, and no program waits for it (R323, R324). -/
def HuddleDone (s t : State) (i num outcome : Nat) : Prop :=
  KMap.get (group t i).decided 0 num = outcome ∧ findNum (group t i) num = none ∧
    (∀ n, n ≠ num → KMap.get (group t i).decided 0 n = KMap.get (group s i).decided 0 n) ∧
    ∀ r, r < 32 → ∀ k ∈ (t.region r).main.inflight ++ (t.region r).task.inflight, k.what ≠ .huddle (group s i).id num

/-- What a completed number leaves: the last huddle numbers and, in a commit group, the court's committed step (R324). -/
def HuddleCompleted (s t : State) (i num step : Nat) : Prop :=
  HuddleDone s t i num 1 ∧ t.lastHuddle = num ∧ KMap.get t.courtHuddle 0 (group s i).court = num ∧
    ((group s i).commit = true → t.fld48 (Page.court (group s i).court) F.COURT_COMMIT_LO_step F.COURT_COMMIT_HI_step = step)

/-- What a failed number leaves: each region that waited has stopped, and huddle-failed stands (R323). -/
def HuddleFailed (s t : State) (i num : Nat) : Prop :=
  HuddleDone s t i num 2 ∧ errSet t Page.ce Err.ce_huddle_failed = true ∧
    ∀ r, r < 32 → regionWaits s r (group s i).id num = true → (t.region r).stopped = true

/-- A block register without an action of its own at an offset: its block, and its fields there (R44, Table 0.4). -/
def PlainAt (s : State) (off : Nat) (b : Block) (fs : List Fld) : Prop :=
  ∃ i, pageAt off = some (b, i) ∧ 0x40 ≤ off % 0x1000 ∧ busyDenies s b i (off % 0x1000) = false ∧
    (∀ v time, actionWrite s b i (off % 0x1000) v time = none) ∧ counterOff b (off % 0x1000) = false ∧
    fs = fieldsAt b (off % 0x1000) ∧ fs ≠ [] ∧ (b = .caddie → off % 0x1000 ≠ 0x40 ∧ off % 0x1000 ≠ 0x70 ∧ off % 0x1000 ≠ 0x74)

/-! ## Stacks and Caddies -/

/-- An event is recorded and sent, and nothing else differs. -/
def Recorded (s t : State) : Prop := t = { s with regs := t.regs, score := t.score, spent := t.spent, outbox := t.outbox }

/-- One strike more on a channel retires nothing (R265, R403). -/
def StrikeHolds (s : State) (n ch : Nat) : Prop :=
  KMap.get (s.stack n).probation false 26 = false ∧ KMap.get (s.stack n).probation false ch = false ∧
    (s.fld (Page.stk n) F.STK_RETIRE_CTL_strike_limit = 0 ∨
      KMap.get (s.stack n).strikes 0 ch + 1 < s.fld (Page.stk n) F.STK_RETIRE_CTL_strike_limit)

/-- A channel of a stack takes one strike more and none changes its place. -/
def Struck (s t : State) (n ch : Nat) : Prop :=
  KMap.get (t.stack n).strikes 0 ch = KMap.get (s.stack n).strikes 0 ch + 1 ∧
    (∀ c, c ≠ ch → KMap.get (t.stack n).strikes 0 c = KMap.get (s.stack n).strikes 0 c) ∧
    (t.stack n).serve = (s.stack n).serve ∧ ∀ k, k ≠ n → t.stack k = s.stack k

/-- Only the trailer of one tile differs: it is poisoned (R258, R264). -/
def OnlyPoisoned (s t : State) (a : Nat) : Prop :=
  t.mem = s.mem ∧ t.trailer (a / tileBytes) = { trailerAt s a with poison := true } ∧
    ∀ k, k ≠ a / tileBytes → t.trailer k = s.trailer k

/-- The tiles that `gone` picks are lost, and every other tile is as before (R267). -/
def TilesLost (s t : State) (gone : Nat → Bool) : Prop :=
  (∀ a, Memory.byte t.mem a = if gone a then 0#8 else Memory.byte s.mem a) ∧
    ∀ k, t.trailer k = if gone (k * tileBytes) then Trailer.lost else s.trailer k

/-- Elements of e bytes each at an address, 4,096 of them. -/
def elsAt (s : State) (a e : Nat) : List Nat := unpackBits (8 * e) 4096 (bytesAt s a (4096 * e))

/-- Where a page's four components of a block lie, each with its bytes an element: high halves in a slot; low halves, m and v in a
copy (R276, R277). -/
def blockParts (b : List Byte) (slot copy block : Nat) : List (Nat × Nat) :=
  [(compAddr (slotAddr b slot) 0 2 block, 2), (compAddr (copyBase b copy) 1 2 block, 2),
    (compAddr (copyBase b copy) (1 + 2 * pgBlocks b) 4 block, 4)] ++
    if pgRule b = 1 then [(compAddr (copyBase b copy) (1 + 6 * pgBlocks b) 4 block, 4)] else []

/-- Element i of a block of a page's state (R278). -/
def pageElem (s : State) (b : List Byte) (slot copy block i : Nat) : Elem :=
  let x := (blockParts b slot copy block).map fun p => (elsAt s p.1 p.2).getD i 0
  ⟨x.getD 0 0, x.getD 1 0, x.getD 2 0, x.getD 3 0⟩

/-- A gradient part of a page under way may be applied and its state be read and written: rules 0 and 1, neither held nor the owner's
high halves; `c` is the current copy. No exchange starts with it that has anything to send. -/
def PartApplies (s : State) (n : Nat) (p : CPart) (g : CPage) (c : Nat) : Prop :=
  ∃ b cur q0 q1 seq, b = g.desc ∧ cpage s n p.page = some g ∧ g.got ≠ [] ∧ g.held = false ∧ p.high = false ∧ pgOk n b = true ∧
    receivesHigh s n b = false ∧ pgRule b < 2 ∧ pgNear b % tileBytes = 0 ∧ pgDeep b % tileBytes = 0 ∧ Memory.wf s.mem = true ∧
    (gradEls (pgGradFmt b) p.data).length = 4096 * (partBlocks b p.part).length ∧ p.part < pgParts b ∧
    Readable s whoCaddie (pgNear b) 64 ∧ Readable s whoCaddie (copyBase b 0) 64 ∧ Readable s whoCaddie (copyBase b 1) 64 ∧
    cur = ringCurrent (bytesAt s (pgNear b) 64) ∧ cur ≠ g.slot ∧ cur ≤ pgD b ∧ g.slot ≤ pgD b ∧
    q0 = copyHdrSeq (bytesAt s (copyBase b 0) 64) ∧ q1 = copyHdrSeq (bytesAt s (copyBase b 1) 64) ∧
    newestCopy q0 q1 = some (c, seq) ∧
    (∀ k ∈ partBlocks b p.part, (∀ a ∈ blockParts b cur c k, Readable s whoCaddie a.1 (4096 * a.2)) ∧
      ∀ a ∈ blockParts b g.slot (1 - c) k, Writable s whoCaddie a.1 (4096 * a.2)) ∧
    (g.got.length + 1 = pgParts b → ∀ k, k < pgBlocks b → k ∉ partBlocks b p.part →
      ∀ a ∈ (blockParts b g.slot (1 - c) k).take 2, Readable s whoCaddie a.1 (4096 * a.2)) ∧
    (∀ j k i, (partBlocks b p.part)[j]? = some k → i < 4096 → elemBad (pgRule b) (updElem (pgRule b) (hyperOf g.hyper)
      (fmul ((gradEls (pgGradFmt b) p.data).getD (4096 * j + i) 0) (hyperOf g.hyper).gscale) (pageElem s b cur c k i)) = false) ∧
    ((parityOn s n = false ∧ ownerMode s n = false) ∨ ∃ e ∈ (caddie s n).pages, e.1 ≠ p.page ∧ pageDone s n e.2 = false)

/-- The part is applied: every element of its blocks has its new value in the pending slot and copy (R281), the part counts as
received, and no byte outside the page's areas changed. -/
def PartApplied (s t : State) (n : Nat) (p : CPart) (g : CPage) (c : Nat) : Prop :=
  ∃ b cur, b = g.desc ∧ cur = ringCurrent (bytesAt s (pgNear b) 64) ∧
    (∀ j k i, (partBlocks b p.part)[j]? = some k → i < 4096 → pageElem t b g.slot (1 - c) k i =
      updElem (pgRule b) (hyperOf g.hyper) (fmul ((gradEls (pgGradFmt b) p.data).getD (4096 * j + i) 0) (hyperOf g.hyper).gscale)
        (pageElem s b cur c k i)) ∧
    cpage t n p.page = some { g with got := g.got ++ [p.part] } ∧
    ∀ i, inPage b i = false → Memory.byte t.mem i = Memory.byte s.mem i

/-- The tiles a commit or a discard rewrites at a Caddie are apart and can be used: ring headers and copy headers of the pages that
hold a pending step. -/
def CommitTilesApart (s : State) (n : Nat) : Prop :=
  let ps := (caddie s n).pages.filter fun e => e.2.got != [] || e.2.hyper != []
  (ps.flatMap fun e => [pgNear e.2.desc, copyBase e.2.desc 0, copyBase e.2.desc 1]).Nodup ∧ Memory.wf s.mem = true ∧
    ∀ e ∈ ps, pgNear e.2.desc % tileBytes = 0 ∧ pgDeep e.2.desc % tileBytes = 0 ∧ e.2.slot < 7 ∧
      ∀ a ∈ [pgNear e.2.desc, copyBase e.2.desc 0, copyBase e.2.desc 1], Readable s whoCaddie a tileBytes

/-! ## The fabric -/

/-- A message of types 0x01 to 0x03 is right and for this package (R309, R311). -/
def AckTaken (s : State) (w : WireHdr) : Prop :=
  portTakes s w = true ∧ w.intact = true ∧ w.src.toNat ≠ deviceId s ∧ w.dst.toNat = deviceId s ∧
    (flowOf s w.src.toNat w.flow.toNat).isOpen = true

/-- Does a message header acknowledge sequence number q: all below ack, and ack + 1 + i where bit i of sack is set (Table 13.2, R311)? -/
def acknowledges (w : WireHdr) (q : Nat) : Bool :=
  below q w.ack.toNat || (decide ((q + 2 ^ 32 - w.ack.toNat - 1) % 2 ^ 32 < 32) && bit w.sack.toNat ((q + 2 ^ 32 - w.ack.toNat - 1) % 2 ^ 32))

/-- The unacknowledged messages of the flow a header names that it leaves unacknowledged. -/
def stillOut (s : State) (w : WireHdr) : List Sent :=
  (flowOf s w.src.toNat w.flow.toNat).unacked.filter fun m => !acknowledges w m.seq

/-- A message as its flow was given it. -/
def asGiven (m : Sent) : Nat × List Nat × List Byte := (m.typ, m.words, m.data)

/-- Every flow holds what it was given. -/
def FlowsKeep (s t : State) : Prop := ∀ dev fl, givenTo t dev fl = givenTo s dev fl

/-- Flows have keys of their own, and so have the unacknowledged messages of each. -/
def FlowsApart (s : State) : Prop := (s.flows.map (·.1)).Nodup ∧ ∀ e ∈ s.flows, (e.2.unacked.map (·.seq)).Nodup

/-- A lane has left service: a failed probation doubles its hold-off, the third in a row marks it permanently out, and the port trains on
the lanes that are left (R307, R404). -/
def LaneLeft (s t : State) (q l : Nat) : Prop :=
  (∀ x n, x = laneOf s q l → n = (if x.probation then x.failures + 1 else x.failures) →
    laneOf t q l = ⟨true, x.permanent || decide (3 ≤ n), false, n, if x.probation then min 3600 (2 * x.holdoff) else x.holdoff⟩) ∧
  (∀ k, k ≠ 8 * q + l → KMap.get t.lanes .init k = KMap.get s.lanes .init k) ∧ errSet t (portPage q) Err.eth_lane_out = true ∧
  portMode t q = (if portMode s q = 0 then 0 else trainedMode t q) ∧ FlowsKeep s t

/-! ## The Umpire -/

/-- The court that held a region was aborted by a device event (R357, R383). -/
def CourtAborted (s t : State) (r code : Nat) : Prop :=
  ∀ n, s.courtOf r = some n → t.fld (Page.court n) F.COURT_LAST_ABORT_winner = 1 ∧ t.fld (Page.court n) F.COURT_LAST_ABORT_cause = 2 ∧
    t.fld (Page.court n) F.COURT_LAST_ABORT_code = code ∧ t.region r = .init

/-- The device-fatal sequence has run: every court was aborted by the device, every command in progress completed, and the package stays so
until a package reset (R384). -/
def DeviceFatal (s t : State) (code : Nat) : Prop :=
  t.fatal = true ∧ t.cmds = [] ∧ t.assign = s.assign ∧
    ∀ n, n < 16 → s.courtCreated n = true → t.fld (Page.court n) F.COURT_LAST_ABORT_winner = 1 ∧
      t.fld (Page.court n) F.COURT_LAST_ABORT_cause = 2 ∧ t.fld (Page.court n) F.COURT_LAST_ABORT_code = code ∧
      ∀ r, r < 32 → (s.courtRegions n).getLsbD r = true → t.region r = .init

/-- A unit (index 4 × cluster + unit) or cluster (68 + cluster) takes a strike; the third live one starts full shadow, and retires a
cluster struck as such (R389, Table 16.3). -/
def UmpStruck (s t : State) (r i : Nat) : Prop :=
  ∀ n, n = KMap.get (umpOf s r).live 0 i + 1 → KMap.get (umpOf t r).live 0 i = n ∧
    (∀ k, k ≠ i → KMap.get (umpOf t r).live 0 k = KMap.get (umpOf s r).live 0 k) ∧
    (n < 3 → umpOf t r = { umpOf s r with live := (umpOf t r).live }) ∧
    (3 ≤ n → (umpOf s r).shadow.contains i = false → i ∈ (umpOf t r).shadow ∧ errSet t (Page.ump r) Err.ump_full_shadow = true ∧
      (68 ≤ i → bit (s.fld (Page.ump r) F.UMP_RETIRED_clusters) (i - 68) = false → i - 68 ∈ (umpOf t r).retiring))

/-- Every page of a cluster is in one mode (Table 2.8). -/
def ClusterMode (t : State) (c m : Nat) : Prop := ∀ p ∈ clusterPages c, t.pageMode p = m

/-- A unit with nothing in its banks. -/
def BanksEmpty (s : State) (r p u : Nat) : Prop :=
  (unitOf (s.cluster (clusterOf r p)) u).active.fmt = 0 ∧ (unitOf (s.cluster (clusterOf r p)) u).shadow.fmt = 0

/-! ## Power -/

/-- What SNS_REGIONr reports of a region's throttle: the largest of mode, controller, droop and thermal, and which of them are at it
(R430, Table 18.7). -/
def PaceShown (t : State) (r : Nat) : Prop :=
  ∀ xs m, xs = [t.fld Page.sns F.SNS_REGION_pace_mode r, throttleOf t r,
      if bit (t.fld Page.sns F.SNS_DROOP_STAT_regions) r then t.fld Page.sns F.SNS_DROOP_CTL_droop_t else 0,
      if KMap.get t.power.hot false (r / 8) then 4 else 0] →
    m ∈ xs → (∀ x ∈ xs, x ≤ m) → m ≤ 7 → t.fld Page.sns F.SNS_REGION_pace_now r = m ∧
      ∀ i x, m ≠ 0 → xs[i]? = some x → (bit (t.fld Page.sns F.SNS_REGION_sources r) i = true ↔ x = m)

/-- What SNS_VCOREd reports of a die's set point: the lowest of mode, controller ceiling and thermal ceiling (R429), and 0.60 V after a
thermal trip (R439). -/
def SetPointShown (t : State) (d : Nat) : Prop :=
  t.fld Page.sns F.SNS_VCORE_effective_mv d = if t.power.tripped then 600 else
    min ([750, 850, 650, 600].getD (t.fld Page.sns F.SNS_VCORE_mode d) 600) (min (ceilingOf t d) (thermCeilingOf t d))

/-- Every die's set point and every region's throttle is reported. -/
def PowerShown (t : State) : Prop := (∀ d, d < 4 → SetPointShown t d) ∧ ∀ r, r < 32 → PaceShown t r

/-- Only the power controls, registers of the SNS page, and what recording an event writes, differ. -/
def PowerFrame (s t : State) : Prop :=
  t = { s with regs := t.regs, power := t.power, score := t.score, spent := t.spent, outbox := t.outbox }

/-- The next hot state of a reading in 0.0625 °C against a limit in °C, released 3 °C below (R438). -/
def hotAfter (limit tj : Nat) (old : Bool) : Bool := decide (16 * limit ≤ tj) || (old && decide (16 * limit ≤ tj + 48))

/-! ## Starts and resets -/

/-- A package reset with its reason (R450): of the state after reset differ the stacks' contents (R267), the Scorecard store (R409) with its
sequence and counts, the flash and the fuses, what stands on the board, a transfer's result, and PKG_BOOT; lanes marked permanently out
serve again (R404). That these counts and the transfer's result are kept is the model's choice (notes/assumptions/126.md). -/
def PackageReset (s t : State) (reason : Nat) : Prop :=
  t = { State.reset with
        pending := s.pending, outbox := s.outbox, freeCount := s.freeCount, mem := s.mem, trailers := s.trailers, score := s.score
        fuses := s.fuses, flash := t.flash, board := { s.board with starting := none, atStep3 := false }
        power := { Power.init with tripped := s.power.tripped }, regs := t.regs } ∧
    t.flash = { s.flash with act := s.fld Page.pkg F.PKG_ACT_STAT_outcome, repair := t.flash.repair } ∧
    (∀ k, k ≠ 1 → repairWord t k = if 2322 ≤ k ∧ k < 2327 then 0 else repairWord s k) ∧
    t.fld Page.pkg F.PKG_BOOT_reason = reason ∧ t.fld Page.pkg F.PKG_BOOT_boot_phase = 0 ∧
    (∀ o ∈ [Page.sc + 0x4C, Page.sc + 0x64, Page.sc + 0x68, Page.pkg + 0x70, Page.dbg + 0x44], t.reg o = s.reg o) ∧
    (∀ o ∈ [Page.flash + 0x4C, Page.flash + 0x50],
      t.reg o = if s.xfer = none ∨ 3 ≤ s.fld Page.flash F.FLASH_XFER_STAT_state then s.reg o else regReset o) ∧
    ∀ o, o ∉ [Page.sc + 0x4C, Page.sc + 0x64, Page.sc + 0x68, Page.pkg + 0x70, Page.dbg + 0x44, Page.flash + 0x4C, Page.flash + 0x50,
      Page.pkg + 0x4C] → t.reg o = regReset o

/-- No Caddie has a window open. -/
def NoWindow (s : State) : Prop := ∀ n, (caddie s n).window = none

/-- The rails of Table 20.3 have turned off: outside the management island, with its sensors, all is as after reset and the gates are closed;
the Scorecard, the flash and the fuses stay (R474, Table 20.5). -/
def RailsLost (s t : State) (pwrgood : Bool) : Prop :=
  t = { State.reset with
        pending := s.pending, outbox := t.outbox, freeCount := t.freeCount, flash := s.flash, fuses := s.fuses, score := t.score
        board := { s.board with pwrgood := pwrgood, dies := false }
        power := { Power.init with tripped := s.power.tripped, gates := true, ramps := t.power.ramps }
        rates := s.rates, spent := t.spent, saving := s.saving, xfer := s.xfer, attest := s.attest, report := s.report, fatal := true
        regs := t.regs } ∧
    (∀ o, islandPage o = false → t.reg o = regReset o) ∧ t.fld Page.pkg F.PKG_HUB_trained = 0 ∧
    t.fld Page.pkg F.PKG_BOOT_boot_phase =
      if s.fld Page.pkg F.PKG_BOOT_boot_phase ∈ [0, 4] then s.fld Page.pkg F.PKG_BOOT_boot_phase else 1

/-- The device has entered recovery, which is device-fatal (R452, R395). -/
def InRecovery (s t : State) : Prop :=
  t.fld Page.pkg F.PKG_BOOT_boot_phase = 4 ∧ errSet t Page.pkg Err.pkg_recovery = true ∧
    t.board = { s.board with starting := none, atStep3 := false } ∧ DeviceFatal s t 0x0114

/-- A start has found its flash (steps 3 to 6 of Table 19.5), from a state with the fuses read: a flash that does not meet R443 raises
flash-error, and it or an image that fails a check leads to recovery; a pending copy waits without HOLDUP_OK; a good image with a good
blob leads to the service phase. -/
def FlashRead (s t : State) (i : StartInput) : Prop :=
  (i.flashOk = false → InRecovery s t ∧ t.flash = s.flash ∧ errSet t Page.flash Err.flash_flash_error = true) ∧
    (i.flashOk = true → t.fld Page.pkg F.PKG_BOOT_boot_count = (s.flash.bootCount + 1) % 65536 ∧
      (s.flash.total ≤ s.flash.copied → imageReason s s.flash.active ≠ 0 → InRecovery s t ∧
        t.fld Page.pkg F.PKG_BOOT_image_reason = imageReason s s.flash.active ∧
        t.flash = { s.flash with bootCount := (s.flash.bootCount + 1) % 65536 }) ∧
      (s.flash.copied < s.flash.total → s.fld Page.pkg F.PKG_HOLDUP_holdup_ok = 0 →
        t.board = { s.board with starting := some i, atStep3 := false } ∧ errSet t Page.flash Err.flash_copy_resumed = true ∧
        t.flash = { s.flash with bootCount := (s.flash.bootCount + 1) % 65536 }) ∧
      ∀ b, b = settingsBlob s → s.flash.total ≤ s.flash.copied → imageReason s s.flash.active = 0 → i.settingsOk = true →
        recordLayout b = imgLayout (slotHeader s.flash.active) 0 → s.board.pwrgood = false →
        t.fld Page.pkg F.PKG_BOOT_boot_phase = 1 ∧ t.fld Page.pkg F.PKG_BOOT_image_reason = 0 ∧
          t.fld Page.pkg F.PKG_DEVICE_ID_device_id = bits (wordAt b 4) 15 0 ∧
          t.fld Page.pkg F.PKG_FW_CTL_update_lock = bits (wordAt b 4) 16 16 ∧
          t.fld Page.pkg F.PKG_FW_CTL_confirm_pending = (headerUnconfirmed s).toNat ∧
          t.flash = { s.flash with bootCount := (s.flash.bootCount + 1) % 65536 } ∧
          t.board = { s.board with starting := none, atStep3 := false })

end Sys2Proof.Machine
end

