-- ==== Sys2Proof/Certificates/Slice0/Obligations.lean ====
section
/-! DEFINITION. The statements for the provers. -/

open Sys2Proof Sys2Proof.Machine

/-! ## The queue, the step, the court assignment -/

/-- A step takes the command at the front of the queue and answers what that command does to the state with the queue's rest. With no command
waiting, no port paused and no instruction in flight, it only lets the management core's second pass (the model's choice,
notes/assumptions/1.md). Choices of the model this rests on: notes/assumptions/8.md. -/
def Obligations.StepRunsFrontCommand : Prop :=
  (∀ (s : State) (c : Instr) (rest : List Instr), step { s with pending := c :: rest } = exec c { s with pending := rest }) ∧
  ∀ s : State, s.pending = [] → s.paused = [] → s.board.aux = true →
    (∀ e ∈ s.regions, e.2.main.inflight = [] ∧ e.2.task.inflight = []) →
    ∃ t, step s = .next t ∧ t.uptime = (s.uptime + 1) % 2 ^ 32 ∧ t = { s with regs := t.regs } ∧ OnlyPage s t Page.mc

/-- Every command answers a next state and takes nothing from the queue and puts nothing into it. Choices of the model this rests on:
notes/assumptions/11.md. -/
def Obligations.EveryCommandAnswersNext : Prop :=
  ∀ (c : Instr) (s : State), ∃ t, exec c s = .next t ∧ t.pending = s.pending

/-- Right after reset no court holds a region, no command waits, no region runs, and registers hold the reset values of their tables (Tables 10.8,
11.8, 15.10, 16.8, 17.9, 18.7 and those of PKG and SB). Choices of the model this rests on: notes/assumptions/3.md, notes/assumptions/5.md. -/
def Obligations.ResetState : Prop :=
  CourtsDisjoint State.reset ∧ MapsCanonical State.reset ∧ (∀ n, State.reset.courtCreated n = false) ∧ State.reset.pending = [] ∧ State.reset.fatal = false ∧
    (∀ r, State.reset.region r = .init) ∧
    (∀ p f v, (p, f, v) ∈ ([(Page.pkg, F.PKG_BOOT_boot_phase, 0), (Page.pkg, F.PKG_BOOT_reason, 1), (Page.sns, F.SNS_CAP_cap_w, 4400),
        (Page.sns, F.SNS_CAP_hyst, 5), (Page.sns, F.SNS_THERM_CTL_trip_c, 110), (Page.sns, F.SNS_THERM_CTL_hot_c, 105),
        (Page.sns, F.SNS_THERM_CTL_warn_c, 95), (Page.sns, F.SNS_DROOP_CTL_droop_t, 4), (Page.sc, F.SC_RATE_DEF0_per_min, 60),
        (Page.sc, F.SC_RATE_DEF2_burst, 256), (Page.se, F.SE_PIVOT_CTL_tau_exp, 40), (Page.sb, F.SB_CTL_alert_sev, 3)] :
          List (Nat × Fld × Nat)) → State.reset.fld p f = v) ∧
    ∀ n, n < 32 → State.reset.fld (Page.ump n) F.UMP_CTL_window_s = 3600 ∧ State.reset.fld (Page.ump n) F.UMP_CTL_min_clusters = 8 ∧
      State.reset.fld (Page.stk n) F.STK_RETIRE_CTL_strike_limit = 8 ∧ State.reset.fld (Page.stk n) F.STK_RETIRE_CTL_window_min = 60 ∧
      State.reset.fld (Page.stk n) F.STK_SCRUB_CTL_enable = 1 ∧ State.reset.fld (Page.rg n) F.RG_VALVE_CTL_high_pct = 75

/-- A region belongs to at most one court (R20): every step keeps it. -/
def Obligations.StepKeepsCourtsDisjoint : Prop :=
  ∀ s t : State, CourtsDisjoint s → step s = .next t → CourtsDisjoint t

/-- Memory, the cluster stores, the flows, the huddle groups and the numbers each group has decided stay in their canonical form, keys rising and no
entry equal to what an absent key reads as: every step keeps it, whatever the command and the state. Choices of the model this rests on:
notes/assumptions/4.md. -/
def Obligations.StepKeepsMapsCanonical : Prop :=
  ∀ s t : State, MapsCanonical s → step s = .next t → MapsCanonical t

/-! ## The region sequencer -/

/-- nop, set_a, add_a and set_count write the register they name (R207), move on by one word and leave the rest of the program, the other program and
everything outside the region alone. loop (R208): a counter of 0 falls through, otherwise it is counted down and the program branches unless it
reached 0; jump goes to its target. Choices of the model this rests on: notes/assumptions/10.md. -/
def Obligations.ScalarAndLoopInstructions : Prop :=
  (∀ (h : Hdr) (s : State), Issuable s h → FallsInside s h →
    (∃ t, exec (.nop h) s = .next t ∧ OnlyRegion h.region.toNat s t ∧
      t.prog h = { s.prog h with pc := (s.prog h).pc + 1 }) ∧
    (∀ reg imm, ∃ t, exec (.setA h reg imm) s = .next t ∧ OnlyRegion h.region.toNat s t ∧
      aReg (t.prog h) reg.toNat = imm ∧ (∀ i, i ≠ reg.toNat → aReg (t.prog h) i = aReg (s.prog h) i) ∧
      t.prog h = { s.prog h with pc := (s.prog h).pc + 1, a := (t.prog h).a }) ∧
    (∀ reg imm, ∃ t, exec (.addA h reg imm) s = .next t ∧ OnlyRegion h.region.toNat s t ∧
      (aReg (t.prog h) reg.toNat).toInt = ((aReg (s.prog h) reg.toNat).toInt + imm.toInt).bmod (2 ^ 48) ∧
      (∀ i, i ≠ reg.toNat → aReg (t.prog h) i = aReg (s.prog h) i) ∧
      t.prog h = { s.prog h with pc := (s.prog h).pc + 1, a := (t.prog h).a }) ∧
    (∀ reg imm, reg.toNat ≤ 3 → ∃ t, exec (.setCount h reg imm) s = .next t ∧ OnlyRegion h.region.toNat s t ∧
      lReg (t.prog h) reg.toNat = imm ∧ (∀ i, i ≠ reg.toNat → lReg (t.prog h) i = lReg (s.prog h) i) ∧
      t.prog h = { s.prog h with pc := (s.prog h).pc + 1, l := (t.prog h).l })) ∧
  (∀ (h : Hdr) (s : State) (target : BitVec 32), Issuable s h →
    target.toNat < (s.region h.region.toNat).codeCount →
    (∀ reg : BitVec 4, reg.toNat ≤ 3 → FallsInside s h → ∃ t, exec (.loop h reg target) s = .next t ∧
      OnlyRegion h.region.toNat s t ∧
      (t.prog h).pc = (if (lReg (s.prog h) reg.toNat).toNat ≤ 1 then (s.prog h).pc + 1 else target.toNat) ∧
      (lReg (t.prog h) reg.toNat).toNat = (lReg (s.prog h) reg.toNat).toNat - 1 ∧
      (∀ i, i ≠ reg.toNat → lReg (t.prog h) i = lReg (s.prog h) i) ∧
      t.prog h = { s.prog h with pc := (t.prog h).pc, l := (t.prog h).l }) ∧
    (∃ t, exec (.jump h target) s = .next t ∧ OnlyRegion h.region.toNat s t ∧
      t.prog h = { s.prog h with pc := target.toNat }))

/-- wait_step issues, holds its token and blocks the main program; halt ends it (R208). Both issue outside a task. A pending wait_step completes once
the court holds a step number above the step register, and loads it (R350). Choices of the model this rests on: notes/assumptions/10.md. -/
def Obligations.WaitStepAndHalt : Prop :=
  (∀ (h : Hdr) (s : State), Issuable s h → h.task = false →
    (FallsInside s h → ∃ t, exec (.waitStep h) s = .next t ∧ OnlyRegion h.region.toNat s t ∧
      (t.prog h).waiting = true ∧ (t.prog h).pc = (s.prog h).pc + 1 ∧
      (∀ n, n ≠ 0 → tokenCount (t.prog h) n = tokenCount (s.prog h) n + (if n = h.signal.toNat then 1 else 0)) ∧
      mayIssue t h = false) ∧
    (∃ t, exec (.halt h) s = .next t ∧ OnlyRegion h.region.toNat s t ∧
      (t.region h.region.toNat).halted = true ∧ mayIssue t h = false)) ∧
  (∀ (r : BitVec 5) (s : State) (n : Nat), s.courtOf r.toNat = some n → (s.region r.toNat).main.waiting = true →
    (s.region r.toNat).main.step.toNat < heldStep s n → heldStep s n < 2 ^ 48 →
    ∃ t, exec (.waitStepComplete r) s = .next t ∧ OnlyRegion r.toNat s t ∧
      (t.region r.toNat).main.waiting = false ∧ (t.region r.toNat).main.step.toNat = heldStep s n ∧
      (t.region r.toNat).main.pc = (s.region r.toNat).main.pc ∧ t.regs = s.regs)

/-- enqueue queues a task with a copy of the address registers and the step register; a fence with no task outstanding passes at once and otherwise
waits in flight (R214, R230). The oldest queued task starts with the registers of its enqueue, its own loop counters and tokens at zero (R214,
R230). task_end ends the running task once none of its instructions is in flight, and lets the fences pass that waited for it (R214, R230).
Choices of the model this rests on: notes/assumptions/10.md, notes/assumptions/43.md. -/
def Obligations.FencesAndBenchTasks : Prop :=
  (∀ (h : Hdr) (s : State), Issuable s h → h.task = false → FallsInside s h →
    (∀ entry tag, entry.toNat < (s.region h.region.toNat).codeCount →
      (s.region h.region.toNat).bench.length + (s.region h.region.toNat).taskRunning.toNat < 256 →
      ∃ t, exec (.enqueue h entry tag) s = .next t ∧ OnlyRegion h.region.toNat s t ∧
        (t.region h.region.toNat).bench = (s.region h.region.toNat).bench ++
          [⟨entry.toNat, tag.toNat, (s.prog h).a, (s.prog h).step⟩] ∧
        t.fld (Page.rg h.region.toNat) F.RG_STATUS_bench_queued =
          (s.region h.region.toNat).bench.length + (s.region h.region.toNat).taskRunning.toNat + 1 ∧
        t.prog h = { s.prog h with pc := (s.prog h).pc + 1 }) ∧
    (∃ t, exec (.fence h) s = .next t ∧ OnlyRegion h.region.toNat s t ∧ (t.prog h).pc = (s.prog h).pc + 1 ∧
      ((s.region h.region.toNat).enqueued ≤ (s.region h.region.toNat).completedTasks →
        t.prog h = { s.prog h with pc := (s.prog h).pc + 1 }) ∧
      ((s.region h.region.toNat).completedTasks < (s.region h.region.toNat).enqueued →
        (t.prog h).inflight = (s.prog h).inflight ++
          [⟨h.signal.toNat, (s.prog h).pc, 8, .fence (s.region h.region.toNat).enqueued⟩]))) ∧
  (∀ (r : BitVec 5) (s : State) (k : Task) (rest : List Task), (s.region r.toNat).bench = k :: rest →
    (s.region r.toNat).taskRunning = false → (s.region r.toNat).started = true → (s.region r.toNat).stopped = false →
    isHeld s r.toNat = false → s.fatal = false →
    ∃ t, exec (.benchTaskStart r) s = .next t ∧ OnlyRegion r.toNat s t ∧ (t.region r.toNat).bench = rest ∧
      (t.region r.toNat).taskRunning = true ∧ (t.region r.toNat).main = (s.region r.toNat).main ∧
      (t.region r.toNat).task.pc = k.entry ∧ (t.region r.toNat).task.step = k.step ∧
      (∀ i, aReg (t.region r.toNat).task i = KMap.get k.a 0#48 i) ∧
      (∀ i, lReg (t.region r.toNat).task i = 0#32) ∧ (∀ i, tokenCount (t.region r.toNat).task i = 0) ∧
      t.fld (Page.rg r.toNat) F.RG_STATUS_task_running = 1 ∧
      t.fld (Page.rg r.toNat) F.RG_BENCH_STAT_running_tag = k.tag % 2 ^ 16) ∧
  (∀ (h : Hdr) (s : State), Issuable s h → h.task = true → (s.prog h).inflight = [] →
    ∃ t, exec (.taskEnd h) s = .next t ∧ OnlyRegion h.region.toNat s t ∧
      (t.region h.region.toNat).taskRunning = false ∧
      (t.region h.region.toNat).completedTasks = (s.region h.region.toNat).completedTasks + 1 ∧
      t.fld (Page.rg h.region.toNat) F.RG_STATUS_task_running = 0 ∧
      (t.region h.region.toNat).bench = (s.region h.region.toNat).bench ∧
      (∀ i ∈ (t.region h.region.toNat).main.inflight, i ∈ (s.region h.region.toNat).main.inflight ∧
        ∀ n, i.what = .fence n → (s.region h.region.toNat).completedTasks + 1 < n) ∧
      (∀ i ∈ (s.region h.region.toNat).main.inflight, (∀ n, i.what ≠ .fence n) →
        i ∈ (t.region h.region.toNat).main.inflight))

/-- A word whose own fields are illegal holds its region and is recorded with its address and its lowest reason; nothing of it is done and the
program stays at it (R216, Table 9.14). A counted wait that reaches the stage's deadline holds its region, records the wait's kind, buffer and
address and raises stage-deadline (R242, R243). Choices of the model this rests on: notes/assumptions/12.md, notes/assumptions/42.md. -/
def Obligations.FailuresHoldRegion : Prop :=
  (∀ (r : BitVec 5) (task : Bool) (w : BitVec 128) (s : State), wordReason s (wordHdr r task w.toNat) w.toNat ≠ 0 →
    mayIssue s (wordHdr r task w.toNat) = true → fetchOk s (wordHdr r task w.toNat) = true →
    (s.prog (wordHdr r task w.toNat)).pc < 2 ^ 32 →
    ∃ t, exec (.illegalInstruction r task w) s = .next t ∧
      t.fld (Page.rg r.toNat) F.RG_STATUS_held = 1 ∧ t.fld (Page.rg r.toNat) F.RG_ILLEGAL_valid = 1 ∧
      t.fld (Page.rg r.toNat) F.RG_ILLEGAL_in_task = task.toNat ∧
      t.fld (Page.rg r.toNat) F.RG_ILLEGAL_reason = wordReason s (wordHdr r task w.toNat) w.toNat % 256 ∧
      t.fld (Page.rg r.toNat) F.RG_ILLEGAL_ADDR_instr_addr = (s.prog (wordHdr r task w.toNat)).pc ∧
      errSet t (Page.rg r.toNat) Err.rg_illegal_instruction = true ∧
      t.prog (wordHdr r task w.toNat) = s.prog (wordHdr r task w.toNat) ∧ t.mem = s.mem ∧ t.clusters = s.clusters) ∧
  (∀ (r : BitVec 5) (i : BitVec 8) (age : BitVec 32) (s : State) (w : CWait),
    (s.region r.toNat).waits[i.toNat]? = some w → w.age = 0 → w.deadline ≠ 0 → w.deadline ≤ age.toNat →
    age.toNat < w.deadline + 3 → w.addr < 2 ^ 32 → w.kind < 8 →
    ∃ t, exec (.stageDeadline r i age) s = .next t ∧ t.fld (Page.rg r.toNat) F.RG_STATUS_held = 1 ∧
      t.fld (Page.rg r.toNat) F.RG_DEADLINE_INFO_valid = 1 ∧
      t.fld (Page.rg r.toNat) F.RG_DEADLINE_INFO_kind = w.kind ∧
      t.fld (Page.rg r.toNat) F.RG_DEADLINE_INFO_in_task = w.task.toNat ∧
      t.fld (Page.rg r.toNat) F.RG_DEADLINE_ADDR_instr_addr = w.addr ∧
      errSet t (Page.rg r.toNat) Err.rg_stage_deadline = true ∧
      (t.region r.toNat).main = (s.region r.toNat).main ∧ (t.region r.toNat).task = (s.region r.toNat).task ∧
      t.mem = s.mem)

/-! ## The vector engine -/

/-- add, sub, mul, min, max, div, fma, sqrt, rsqrt, exp2 and log2 (R139 to R141, R148): at every participating cluster an active lane takes the exact
result rounded once in the instruction's mode with its own draw, which under SR every active lane takes once; the masks and the cluster store are
unchanged. Choices of the model this rests on: notes/assumptions/37.md, notes/assumptions/132.md. -/
def Obligations.VectorArithmetic : Prop :=
  ∀ (h : Hdr) (o : VecOp) (s : State), Issuable s h → FallsInside s h → PartsApart s h.region.toNat →
    ∀ (c : Instr) (val : Cluster → Nat → XNum),
      (c, val) ∈ ([(.veAdd h o, fun x i => ((laneNum x o.va.toNat i).add (laneNum x o.vb.toNat i)).1),
        (.veSub h o, fun x i => ((laneNum x o.va.toNat i).sub (laneNum x o.vb.toNat i)).1),
        (.veMul h o, fun x i => ((laneNum x o.va.toNat i).mul (laneNum x o.vb.toNat i)).1),
        (.veMin h o, fun x i => (minNum (laneNum x o.va.toNat i) (laneNum x o.vb.toNat i)).1),
        (.veMax h o, fun x i => (maxNum (laneNum x o.va.toNat i) (laneNum x o.vb.toNat i)).1),
        (.veDiv h o, fun x i => ((laneNum x o.va.toNat i).div (laneNum x o.vb.toNat i)).1),
        (.veFma h o, fun x i => (XNum.fma (laneNum x o.va.toNat i) (laneNum x o.vb.toNat i) (laneNum x o.vc.toNat i)).1),
        (.veSqrt h o, fun x i => ((laneNum x o.va.toNat i).sqrt).1), (.veRsqrt h o, fun x i => ((laneNum x o.va.toNat i).rsqrt).1),
        (.veExp2 h o, fun x i => ((laneNum x o.va.toNat i).exp2).1), (.veLog2 h o, fun x i => ((laneNum x o.va.toNat i).log2).1)] :
        List (Instr × (Cluster → Nat → XNum))) →
      (o.vc = 0#5 ∨ c = .veFma h o) → (o.vb = 0#5 ∨ c ∉ ([.veSqrt h o, .veRsqrt h o, .veExp2 h o, .veLog2 h o] : List Instr)) →
      ∃ t, exec c s = .next t ∧ VectorFrame h s t ∧ EachCluster h s t fun x y =>
        LanesWritten x y o (fun i => (fp32.round (rndOf o) (drawFor x o i) o.sat (val x i)).1 % 2 ^ 32) ∧
        DrawsTaken x y (fun i => active x o i && o.rnd == 3#2) ∧ y = { x with vregs := y.vregs, gens := y.gens }

/-- neg, abs, copy and broadcast move bits (R140): bit 31 inverted, bit 31 cleared, every bit kept, the instruction's value; no rounding, no draw.
CONVERT (R140, Table 3.7): an active lane takes its element rounded to the target format and widened back; the lanes of an MX block share their
scale. Choices of the model this rests on: notes/assumptions/37.md, notes/assumptions/38.md. -/
def Obligations.VectorMovesAndConversions : Prop :=
  (∀ (h : Hdr) (o : VecOp) (s : State) (value : W32), Issuable s h → FallsInside s h → PartsApart s h.region.toNat →
    o.vb = 0#5 → o.vc = 0#5 →
    ∀ (c : Instr) (val : Cluster → Nat → BitVec 32),
      (c, val) ∈ ([(.veNeg h o, fun x i => BitVec.ofNat 32 (lane x o.va.toNat i) ^^^ 0x80000000#32),
        (.veAbs h o, fun x i => BitVec.ofNat 32 (lane x o.va.toNat i) &&& 0x7FFFFFFF#32),
        (.veCopy h o, fun x i => BitVec.ofNat 32 (lane x o.va.toNat i)), (.broadcast h o value, fun _ _ => value)] :
        List (Instr × (Cluster → Nat → BitVec 32))) →
      (o.va = 0#5 ∨ c ≠ .broadcast h o value) →
      ∃ t, exec c s = .next t ∧ VectorFrame h s t ∧ EachCluster h s t fun x y =>
        LanesWritten x y o (fun i => (val x i).toNat) ∧ y = { x with vregs := y.vregs }) ∧
  (∀ (h : Hdr) (o : VecOp) (f : BitVec 4) (s : State), Issuable s h → FallsInside s h → PartsApart s h.region.toNat →
    2 ≤ f.toNat → f.toNat ≤ 13 → o.vc = 0#5 → (o.vb = 0#5 ∨ f = 12#4 ∨ f = 13#4) →
    ∃ t, exec (.convert h o f) s = .next t ∧ VectorFrame h s t ∧ EachCluster h s t fun x y =>
      (Fmt.isMx f.toNat = false → LanesWritten x y o fun i =>
        (convLane o f.toNat i (drawFor x o i) (laneNum x o.va.toNat i) (laneNum x o.vb.toNat i)).2.val % 2 ^ 32) ∧
      (Fmt.isMx f.toNat = true → ∃ val, LanesWritten x y o val ∧
        ∀ j, j < 4 → ∀ e ∈ (convBlock o f.toNat (mxLanes x o (active x o) j)).2, val e.2.lane = e.2.val % 2 ^ 32) ∧
      DrawsTaken x y (fun i => active x o i && o.rnd == 3#2) ∧ y = { x with vregs := y.vregs, gens := y.gens })

/-- The comparisons and the mask operations (R141): an active lane's bit of the destination mask is the relation or the logic, an inactive lane's bit
stays or becomes 0 in zero mode; a write of M0 is ignored and M0 reads as all ones (R137). An arithmetic instruction's flags: the lanes' summary
joins the sticky word, and one that is not zero goes to VE_LAST_SUMMARY with the instruction's address (R144). -/
def Obligations.VectorMasksAndFlags : Prop :=
  (∀ (h : Hdr) (o : VecOp) (md ma mb : BitVec 3) (s : State), Issuable s h → FallsInside s h → PartsApart s h.region.toNat →
    o.vd = 0#5 → o.vc = 0#5 →
    ∀ (c : Instr) (val : Cluster → Nat → Bool),
      (c, val) ∈ (([(.veCompareEq h o md, XNum.eq, false), (.veCompareNe h o md, fun a b => !a.eq b, true),
          (.veCompareLt h o md, XNum.lt, false), (.veCompareLe h o md, XNum.le, false),
          (.veCompareGt h o md, fun a b => b.lt a, false), (.veCompareGe h o md, fun a b => b.le a, false)] :
          List (Instr × (XNum → XNum → Bool) × Bool)).map fun e =>
            (e.1, fun x i => if (laneNum x o.va.toNat i).isNan || (laneNum x o.vb.toNat i).isNan then e.2.2
              else e.2.1 (laneNum x o.va.toNat i) (laneNum x o.vb.toNat i))) ∨
      (o.va = 0#5 ∧ o.vb = 0#5 ∧ (c, val) ∈ (([(.maskAnd h o md ma mb, fun a b => a && b), (.maskOr h o md ma mb, fun a b => a || b),
          (.maskXor h o md ma mb, fun a b => a != b)] : List (Instr × (Bool → Bool → Bool))).map fun e =>
            (e.1, fun x i => e.2 ((maskReg x ma.toNat).getLsbD i) ((maskReg x mb.toNat).getLsbD i)))) ∨
      (o.va = 0#5 ∧ o.vb = 0#5 ∧ mb = 0#3 ∧ c = .maskNot h o md ma mb ∧ val = fun x i => !(maskReg x ma.toNat).getLsbD i) →
      ∃ t, exec c s = .next t ∧ VectorFrame h s t ∧ EachCluster h s t fun x y =>
        (md ≠ 0#3 → ∀ i, i < 128 → (maskReg y md.toNat).getLsbD i =
          if active x o i then val x i else !o.zmode && (maskReg x md.toNat).getLsbD i) ∧
        (maskReg y 0 = BitVec.allOnes 128) ∧ (∀ n, n ≠ md.toNat → maskReg y n = maskReg x n) ∧
        y = { x with masks := y.masks } ∧ (md = 0#3 → y = x)) ∧
  (∀ (h : Hdr) (o : VecOp) (s : State), Issuable s h → FallsInside s h → PartsApart s h.region.toNat → o.vc = 0#5 →
    (s.prog h).pc < 2 ^ 32 →
    ∀ (c : Instr) (op : XNum → XNum → XNum × Flags),
      (c, op) ∈ ([(.veAdd h o, XNum.add), (.veSub h o, XNum.sub), (.veMul h o, XNum.mul), (.veMin h o, minNum), (.veMax h o, maxNum),
        (.veDiv h o, XNum.div)] : List (Instr × (XNum → XNum → XNum × Flags))) →
      ∃ t, exec c s = .next t ∧ ∀ e ∈ parts s h.region.toNat, e.2 < 17 →
        ∀ p x, p = Page.ve (clusterOf h.region.toNat e.2) → x = s.cluster (clusterOf h.region.toNat e.2) →
          ∀ sum, sum = summary x o (fun i => op (laneNum x o.va.toNat i) (laneNum x o.vb.toNat i)) →
            t.fld p F.VE_STICKY_flags = s.fld p F.VE_STICKY_flags ||| sum ∧
            (sum = 0 → t.fld p F.VE_LAST_SUMMARY_flags = s.fld p F.VE_LAST_SUMMARY_flags ∧
              t.fld p F.VE_LAST_ADDR_instr_addr = s.fld p F.VE_LAST_ADDR_instr_addr) ∧
            (sum ≠ 0 → t.fld p F.VE_LAST_SUMMARY_flags = sum ∧ t.fld p F.VE_LAST_SUMMARY_from_egress = 0 ∧
              t.fld p F.VE_LAST_ADDR_instr_addr = (s.prog h).pc))

/-- A load (R143, R496): where a line an accessing lane reads has another format, it has no effect on the cluster; otherwise every accessing lane
takes its element, an active lane outside the store keeps its own in either mask mode. A store (R143, R496): every accessing lane's element is
converted into its place and its lines take the format's code; an MX block's scale byte goes with it; every other byte of the cluster store keeps
its value. Choices of the model this rests on: notes/assumptions/37.md, notes/assumptions/39.md. -/
def Obligations.VectorStoreAccesses : Prop :=
  (∀ (h : Hdr) (o : VecOp) (m : VecMem) (s : State), Issuable s h → FallsInside s h → PartsApart s h.region.toNat →
    o.va = 0#5 → o.vc = 0#5 → (o.vb = 0#5 ∨ isPacked m.fmt = true) → 1 ≤ m.fmt.toNat → m.fmt.toNat ≤ 13 →
    (m.scaleCs = 0#21 ∨ Fmt.isMx m.fmt.toNat = true) →
    ∃ t, exec (.veLoad h o m) s = .next t ∧ VectorFrame h s t ∧ EachCluster h s t fun x y =>
      ((∃ i, i < 128 ∧ accesses x o m i = true ∧ storeAgrees x (laneAt m i).1 (laneBytes m (laneAt m i).2.1) m.fmt.toNat = false) →
        y = x) ∧
      ((∀ i, i < 128 → accesses x o m i = true →
          storeAgrees x (laneAt m i).1 (laneBytes m (laneAt m i).2.1) m.fmt.toNat = true) →
        LanesWritten x y o (fun i => if (laneAt m i).2.2 = false then lane x o.vd.toNat i
          else if m.fmt = 1#4 then laneCode x m i
          else (fp32.round (rndOf o) (drawFor x o i) o.sat (loadNum x o m i)).1 % 2 ^ 32) ∧
        DrawsTaken x y (fun i => accesses x o m i && o.rnd == 3#2 && m.fmt != 1#4) ∧
        y = { x with vregs := y.vregs, gens := y.gens })) ∧
  (∀ (h : Hdr) (o : VecOp) (m : VecMem) (s : State), Issuable s h → FallsInside s h → PartsApart s h.region.toNat →
    o.vd = 0#5 → o.vc = 0#5 → (o.vb = 0#5 ∨ isPacked m.fmt = true) → 1 ≤ m.fmt.toNat → m.fmt.toNat ≤ 13 →
    (m.scaleCs = 0#21 ∨ Fmt.isMx m.fmt.toNat = true) →
    ∃ t, exec (.veStore h o m) s = .next t ∧ VectorFrame h s t ∧ EachCluster h s t fun x y =>
      y = { x with store := y.store, lineFmt := y.lineFmt, gens := y.gens } ∧
      DrawsTaken x y (fun i => accesses x o m i && o.rnd == 3#2 && m.fmt != 1#4) ∧
      (∀ a, (∀ i, i < 128 → accesses x o m i = true →
          a < (laneAt m i).1 ∨ (laneAt m i).1 + laneBytes m (laneAt m i).2.1 ≤ a) →
        (Fmt.isMx m.fmt.toNat = true → a < m.scaleCs.toNat ∨ m.scaleCs.toNat + 4 ≤ a) →
        Memory.byte y.store a = Memory.byte x.store a) ∧
      (∀ i, i < 128 → accesses x o m i = true → ∀ l ∈ linesOf (laneAt m i).1 (laneBytes m (laneAt m i).2.1),
        KMap.get y.lineFmt 0 l = m.fmt.toNat) ∧
      (Memory.wf x.store = true → Fmt.isMx m.fmt.toNat = false → ∀ i, i < 128 → (laneAt m i).2.2 = true →
        laneCode y m i = if active x o i then (if m.fmt = 1#4 then lane x o.va.toNat i
          else (convLane o m.fmt.toNat i (drawFor x o i) (laneNum x o.va.toNat i) (laneNum x o.vb.toNat i)).1) %
            2 ^ Fmt.bits m.fmt.toNat else laneCode x m i) ∧
      (Memory.wf x.store = true → Fmt.isMx m.fmt.toNat = true →
        (∀ i, i < 128 → accesses x o m i = true →
          (laneAt m i).1 + laneBytes m (laneAt m i).2.1 ≤ m.scaleCs.toNat ∨ m.scaleCs.toNat + 4 ≤ (laneAt m i).1) →
        ∀ j, j < 4 → ∀ b, b = convBlock o m.fmt.toNat (mxLanes x o (accesses x o m) j) → b.2 ≠ [] →
          storeRead y (m.scaleCs.toNat + j) 1 = [BitVec.ofNat 8 b.1] ∧
            ∀ e ∈ b.2, laneCode y m e.2.lane = e.1 % 2 ^ Fmt.bits m.fmt.toNat))

/-- The reductions (R146): element j below 128 / 2^k takes node j of level k of the fixed tree, whose masked leaves are the identity; the others
become +0, whatever the mask mode. The random instructions and SEED (R148, R150, R151): raw and uniform draws, a dropout's keep bits, results and
second draw, and the new state of all 128 lanes. -/
def Obligations.ReductionsAndRandom : Prop :=
  (∀ (h : Hdr) (o : VecOp) (k : BitVec 3) (s : State), Issuable s h → FallsInside s h → PartsApart s h.region.toNat →
    o.vb = 0#5 → o.vc = 0#5 → k ≠ 0#3 →
    ∀ (c : Instr) (op : XNum → XNum → XNum × Flags) (ident : XNum),
      (c, op, ident) ∈ ([(.reduceSum h o k, XNum.add, .fin true 0 0), (.reduceMax h o k, maxNum, .inf true),
        (.reduceMin h o k, minNum, .inf false)] : List (Instr × (XNum → XNum → XNum × Flags) × XNum)) →
      ∃ t, exec c s = .next t ∧ VectorFrame h s t ∧ EachCluster h s t fun x y =>
        (∀ j, j < 128 → lane y o.vd.toNat j = if j < 128 / 2 ^ k.toNat then
          toFp32 (treeNode op (fun i => if active x o i then laneNum x o.va.toNat i else ident) k.toNat j) % 2 ^ 32 else 0) ∧
        (∀ n, n ≠ o.vd.toNat → vReg y n = vReg x n) ∧ y = { x with vregs := y.vregs }) ∧
  (∀ (h : Hdr) (o : VecOp) (s : State), Issuable s h → FallsInside s h → PartsApart s h.region.toNat → o.vb = 0#5 → o.vc = 0#5 →
    (o.va = 0#5 → ∀ (c : Instr) (val : Nat → Nat),
      (c, val) ∈ ([(.randomRaw h o, id), (.randomUniform h o, fun d => toFp32 (.fin false (d / 256) (-24)))] :
        List (Instr × (Nat → Nat))) →
      ∃ t, exec c s = .next t ∧ VectorFrame h s t ∧ EachCluster h s t fun x y =>
        LanesWritten x y o (fun i => val (xoshiro (genOf x i)).1.toNat % 2 ^ 32) ∧
        DrawsTaken x y (active x o) ∧ y = { x with vregs := y.vregs, gens := y.gens }) ∧
    (∀ (thr scale : W32) (mk : BitVec 3), ∃ t, exec (.dropout h o thr scale mk) s = .next t ∧ VectorFrame h s t ∧
      EachCluster h s t fun x y => ∀ keeps : Nat → Bool, (∀ i, keeps i = decide (thr.toNat ≤ (xoshiro (genOf x i)).1.toNat)) →
        LanesWritten x y o (fun i => if keeps i then
          (fp32.round (rndOf o) (if o.rnd = 3#2 then (xoshiro (xoshiro (genOf x i)).2).1.toNat else 0) o.sat
            ((laneNum x o.va.toNat i).mul (fp32.decode scale.toNat)).1).1 % 2 ^ 32 else 0) ∧
        (∀ i, genOf y i = if active x o i then
          (if keeps i && o.rnd == 3#2 then (xoshiro (xoshiro (genOf x i)).2).2 else (xoshiro (genOf x i)).2) else genOf x i) ∧
        (mk ≠ 0#3 → ∀ i, i < 128 → (maskReg y mk.toNat).getLsbD i =
          if active x o i then keeps i else (maskReg x mk.toNat).getLsbD i) ∧
        (∀ n, n ≠ mk.toNat → maskReg y n = maskReg x n) ∧
        y = { x with vregs := y.vregs, masks := y.masks, gens := y.gens }) ∧
    (o.va = 0#5 → o.vd = 0#5 → ∀ seed, ∃ t, exec (.seed h o seed) s = .next t ∧ VectorFrame h s t ∧ EachCluster h s t fun x y =>
      (∀ i, i < 128 → genOf y i = seedState seed i) ∧ y = { x with gens := y.gens }))

/-! ## Tensor units and accumulators -/

/-- MATRIX (R99, R102, R206, R209): where its checks pass, it joins the stream of its program or, with start, begins one: its rows take the next
positions, its feed words are those of memory or of its pass buffer, it holds its token, a swap exchanges every bank pair, open opens its group
in every unit, and drain closes the stream, whose map becomes the program's. Choices of the model this rests on: notes/assumptions/32.md,
notes/assumptions/35.md. -/
def Obligations.MatrixJoinsStream : Prop :=
  ∀ (h : Hdr) (m : MatrixOp) (s : State), Issuable s h → FallsInside s h → PartsApart s h.region.toNat →
    matrixReason s h m = 0 → matrixCheck s h m = .go → FeedReadable s h m →
    (m.start = true → ∀ e ∈ bankChecks s h.region.toNat m.swap m.wfmt.toNat (matrixWidth m), e.2 = .none) →
    ∀ old : List Matrix, old = ((openStream (s.region h.region.toNat)).map (·.insts)).getD [] →
    ∀ feeds : List Feed, feeds = ((openStream (s.region h.region.toNat)).map (·.feeds)).getD [] →
    ∃ t x, exec (.matrix h m) s = .next t ∧ (t.region h.region.toNat).stream = some x ∧ x.drained = m.drain ∧
      x.pos = ((openStream (s.region h.region.toNat)).map (·.pos)).getD 0 ∧
      x.insts = old ++ [{ start := feeds.length, rows := matrixRows m, tile := m.tile.toNat
                          cover := matrixRows m + (if m.drain then dmax s h.region.toNat else 0), width := matrixWidth m
                          opens := m.opens, closes := m.closes, depth := m.depth.toNat
                          tap := if m.tap then some m.tapIndex.toNat else none, rowBase := m.rowBase.toNat
                          addr := (s.prog h).pc }] ∧
      x.feeds.length = feeds.length + matrixRows m ∧ x.feeds.take feeds.length = feeds ∧
      (m.srcPb = false → ∀ j, j < matrixRows m → (x.feeds[feeds.length + j]?).map (·.bytes) =
        some (bytesAt s (matrixSrc (s.prog h) m + j * feedBytes m.afmt.toNat) (feedBytes m.afmt.toNat))) ∧
      (m.srcPb = true → ∀ d, pbDesc s h.region.toNat m.src.disp.toNat = some d → TakenFront s t d (matrixRows m * matrixRowBytes m) ∧
        ∀ j, j < matrixRows m → (x.feeds[feeds.length + j]?).map (·.bytes) =
          some (((storeBytes (bufOf s d)).drop (j * matrixRowBytes m)).take (feedBytes m.afmt.toNat))) ∧
      (t.prog h).pc = (s.prog h).pc + 1 ∧
      (t.prog h).inflight = (s.prog h).inflight ++ [⟨h.signal.toNat, (s.prog h).pc, 1, .matrix old.length⟩] ∧
      (m.drain = true → (t.prog h).map = some (mapOf x)) ∧
      (m.start = true → m.swap = true → ∀ e ∈ parts s h.region.toNat, ∀ u, u < 4 →
        ∀ a b, a = unitOf (s.cluster (clusterOf h.region.toNat e.2)) u → b = unitOf (t.cluster (clusterOf h.region.toNat e.2)) u →
          b.active = a.shadow ∧ b.shadow = a.active ∧ b.sel = !a.sel) ∧
      (m.opens = true → ∀ e ∈ parts s h.region.toNat, ∀ u, u < 4 → ∃ g ∈ (unitOf (t.cluster (clusterOf h.region.toNat e.2)) u).groups,
        g.base = m.tile.toNat ∧ g.width = matrixWidth m ∧ g.depth = m.depth.toNat ∧ g.closing = m.closes) ∧
      (m.srcPb = false → t.mem = s.mem ∧ t.trailers = s.trailers)

/-- REGION_STEP (R100, R101, R107, R117, R120): every unit of every participating cluster adds the column sums of its word, or of the zero word
outside the stream, to the step's row of the group; the last step of an instruction completes it and lets its close fold. Choices of the model
this rests on: notes/assumptions/35.md. -/
def Obligations.RegionStepAddsChunks : Prop :=
  ∀ (r : BitVec 5) (s : State) (x : Stream) (n : Nat) (i : Matrix), (s.region r.toNat).stream = some x → s.power.gates = false →
    instAt x x.pos = some (n, i) → PartsApart s r.toNat →
    (∀ e ∈ parts s r.toNat, GroupsFit (s.cluster (clusterOf r.toNat e.2))) → x.pos < i.start + 64 →
    ∃ t, exec (.regionStep r) s = .next t ∧
      (t.region r.toNat).stream = (if x.drained = true ∧ x.pos + 1 = streamEnd x then none else some { x with pos := x.pos + 1 }) ∧
      (∀ e ∈ parts s r.toNat, ∀ u, u < 4 → ∀ g,
        ((unitOf (s.cluster (clusterOf r.toNat e.2)) u).groups.find? fun k => k.base == i.tile) = some g → g.width = i.width →
        ChunkAdded (s.cluster (clusterOf r.toNat e.2)) (t.cluster (clusterOf r.toNat e.2)) u g (x.pos - i.start)
          (match wordFor x x.pos (offsetOf s r.toNat e.2) with
            | some _ => markOf (x.pos - offsetOf s r.toNat e.2)
            | none => markNone)
          (fun b => ((unitSums (unitOf (s.cluster (clusterOf r.toNat e.2)) u).active
            (match wordFor x x.pos (offsetOf s r.toNat e.2) with
              | some f => feedNums x.afmt f
              | none => List.replicate 64 .zero)).1.drop (64 * b)).take 64)) ∧
      (x.pos + 1 = i.start + i.cover → ∀ k ∈ (progOf (t.region r.toNat) x.task).inflight, k.what ≠ .matrix n) ∧
      (x.pos + 1 = i.start + i.cover → i.closes = true → ∀ e ∈ parts s r.toNat, ∀ u, u < 4 →
        ∀ g ∈ (unitOf (t.cluster (clusterOf r.toNat e.2)) u).groups, g.base = i.tile → g.folds = true) ∧
      t.mem = s.mem ∧ t.trailers = s.trailers ∧
      (∀ c, c ∉ clustersOf r.toNat → (∀ e ∈ parts s r.toNat, c ≠ clusterOf r.toNat e.2) → t.cluster c = s.cluster c)

/-- GROUP_CLOSE_FOLD (R121): in every unit whose group of the base folds, each row's occupied levels are added from the lowest up into its result
tile, the marks of the other levels become none, the group is free and its result tiles hold a closed result. -/
def Obligations.GroupCloseFoldAddsLevels : Prop :=
  ∀ (r tile : BitVec 5) (s : State), (∃ e, e ∈ folding s r.toNat tile.toNat) →
    (∀ p, p < 17 → GroupsFit (s.cluster (clusterOf r.toNat p))) →
    ∃ t, exec (.groupCloseFold r tile) s = .next t ∧ ∀ p u g, (p, u, g) ∈ folding s r.toNat tile.toNat →
      ∀ x y, x = s.cluster (clusterOf r.toNat p) → y = t.cluster (clusterOf r.toNat p) →
        (∀ k ∈ (unitOf y u).groups, k.base ≠ g.base) ∧
        (∀ b, b < g.width → KMap.get (unitOf y u).closed 0 (g.base + b) = closedWord g (b == 0)) ∧
        (∀ row b, row < 64 → b < g.width →
          (∀ l, l ≤ g.depth → (accRow x u (g.base + g.width * l + b) row).els.length = 64) →
          (∀ k, k < 64 → (accRow y u (g.base + b) row).els[k]? = some (bits40 (foldNums
            (((List.range (g.depth + 1)).filter fun l => bit (KMap.get (unitOf x u).counts 0 (g.base * 64 + row)) l).map fun l =>
              accNum x u (g.base + g.width * l + b) row k)))) ∧
          (accRow y u (g.base + b) row).mark = (accRow x u (g.base + b) row).mark ∧
          ∀ l, 0 < l → l ≤ g.depth → (accRow y u (g.base + g.width * l + b) row).mark = markNone ∧
            (accRow y u (g.base + g.width * l + b) row).els = (accRow x u (g.base + g.width * l + b) row).els) ∧
        y.store = x.store ∧ y.vregs = x.vregs ∧ y.masks = x.masks ∧ t.mem = s.mem

/-- PRELOAD (R110, R123, R205): every named unit's group of the base, opened first where the instruction says so, takes one chunk: tile row j the
elements of logical row pos_base + j − d of its cluster's stripe with that row's mark, or zeros with mark none. TILE_READ (R142): lane 64h + x
takes element x of the h-th row read, or of the h-th unit of a pair, of the block named, rounded once to FP32. JOIN_SEND and ACCJOIN (R125, R126,
R213): the closed rows, 40-bit elements and mark byte of each, go to the pass buffer in order of row, cluster, unit and block; and such an
operand is added to its rows, whose mark stays or becomes conflict. Choices of the model this rests on: notes/assumptions/40.md,
notes/assumptions/41.md. -/
def Obligations.PreloadAndReaders : Prop :=
  (∀ (h : Hdr) (o : PreloadOp) (s : State), Issuable s h → FallsInside s h → PartsApart s h.region.toNat → preloadReason o = 0 →
    (∀ e ∈ groupChecks s h.region.toNat o.units.toNat o.opens o.tile.toNat (2 ^ o.wlog2.toNat) o.depth.toNat, e.2.2 = .ok) →
    (o.opens = false → chunksPending s h.region.toNat o.tile.toNat = false) → Memory.wf s.mem = true →
    (∀ e ∈ preloadSpans s h o, ∀ n, n = (o.rowsM1.toNat + 1) * stripeRow o.units.toNat (2 ^ o.wlog2.toNat) o.srcFmt.toNat →
      Readable s (regionWho s h 0) e.2 n ∧ Formatted s e.2 n o.srcFmt.toNat) →
    (∀ e ∈ parts s h.region.toNat, GroupsFit (s.cluster (clusterOf h.region.toNat e.2))) →
    ∃ t, exec (.preload h o) s = .next t ∧ (t.prog h).pc = (s.prog h).pc + 1 ∧ t.mem = s.mem ∧ t.trailers = s.trailers ∧
      ∀ e ∈ parts s h.region.toNat, ∀ k u, (maskBits 4 o.units.toNat)[k]? = some u →
        ∀ x y, x = s.cluster (clusterOf h.region.toNat e.2) → y = t.cluster (clusterOf h.region.toNat e.2) →
        ∀ w es base d, w = 2 ^ o.wlog2.toNat → es = Fmt.bits o.srcFmt.toNat / 8 →
          base = (addrOf (s.prog h) o.src + e.1 * roundUp ((o.rowsM1.toNat + 1) * stripeRow o.units.toNat w o.srcFmt.toNat) tileBytes)
            % 2 ^ 48 →
          d = readOffset s h.region.toNat e.2 o.offExplicit o.offset →
        (∃ g ∈ (unitOf y u).groups, g.base = o.tile.toNat ∧ g.width = w) ∧
        ∀ j, j < 64 → o.opens = true ∨ KMap.get (unitOf x u).counts 0 (o.tile.toNat * 64 + j) = 0 → ∀ b, b < w →
          accRow y u (o.tile.toNat + b) j =
            if d ≤ o.posBase.toNat + j ∧ o.posBase.toNat + j - d ≤ o.rowsM1.toNat then
              ⟨markOf (o.posBase.toNat + j - d), (List.range 64).map fun q => bits40 (elemNum o.srcFmt.toNat (leNat (bytesAt s
                (base + (((o.posBase.toNat + j - d) * unitCount o.units.toNat * w + k * w + b) * 64 + q) * es) es)))⟩
            else ⟨markNone, List.replicate 64 (bits40 .zero)⟩) ∧
  (∀ (h : Hdr) (o : VecOp) (k : TileReadOp) (s : State) (ps : List ReadPart), Issuable s h → FallsInside s h →
    PartsApart s h.region.toNat → o.va = 0#5 → o.vb = 0#5 → o.vc = 0#5 → tileReadReason k = 0 →
    ((readParts s h k.offExplicit k.offset k.r.toNat (tileReadRows k)).bind fun l => l.mapM (shiftBlock k.b.toNat)) = some ps →
    ResultsReady s h (tileReadUnits k) ps →
    ∃ t, exec (.tileRead h o k) s = .next t ∧ VectorFrame h s t ∧ ∀ q ∈ ps,
      ∀ x y, x = s.cluster (clusterOf h.region.toNat q.phys) → y = t.cluster (clusterOf h.region.toNat q.phys) →
        LanesWritten x y o (fun i => (fp32.round (rndOf o) (drawFor x o i) o.sat ((tileReadVals x k q).getD i .zero)).1 % 2 ^ 32) ∧
        DrawsTaken x y (fun i => active x o i && o.rnd == 3#2) ∧ y = { x with vregs := y.vregs, gens := y.gens }) ∧
  (∀ (h : Hdr) (o : RowsOp) (pb : BitVec 8) (s : State) (ps : List ReadPart) (d : PbDesc), Issuable s h → FallsInside s h →
    PartsApart s h.region.toNat → (o.offExplicit = true ∨ o.offset = 0#6) → pbDesc s h.region.toNat pb.toNat = some d → d.format = 14 →
    readParts s h o.offExplicit o.offset o.r0.toNat (o.countM1.toNat + 1) = some ps →
    (ResultsReady s h o.units.toNat ps → ∃ t, exec (.joinSend h o pb) s = .next t ∧
      Pushed s t d ((joinOrder o.units.toNat ps (o.countM1.toNat + 1)).flatMap fun e =>
        joinOut (s.cluster (clusterOf h.region.toNat e.1)) e.2.1 (e.2.2.1.tile + e.2.2.2) e.2.2.1.row) ∧
      t.clusters = s.clusters) ∧
    (openReads s h.region.toNat o.units.toNat ps = [] → readsWait s h.region.toNat o.units.toNat ps = false →
      AtHand s d (joinBytes s h o) →
      ((joinOrder o.units.toNat ps (o.countM1.toNat + 1)).map fun e =>
        (e.1, rowKey e.2.1 (e.2.2.1.tile + e.2.2.2) e.2.2.1.row)).Nodup →
      (joinOrder o.units.toNat ps (o.countM1.toNat + 1)).length * joinGroup ≤ joinBytes s h o →
      ∃ t, exec (.accjoin h o pb) s = .next t ∧ TakenFront s t d (joinBytes s h o) ∧
        ((bufOf s d).queue = [] → t.mem = s.mem) ∧
        ∀ i p u e b, (joinOrder o.units.toNat ps (o.countM1.toNat + 1))[i]? = some (p, u, e, b) →
          ∀ old new op, old = accRow (s.cluster (clusterOf h.region.toNat p)) u (e.tile + b) e.row →
            new = accRow (t.cluster (clusterOf h.region.toNat p)) u (e.tile + b) e.row →
            op = ((storeBytes (bufOf s d)).drop (joinGroup * i)).take joinGroup → old.els.length = 64 →
            (∀ k, k < 64 → new.els[k]? =
              some (bits40 (add40 (num40 (old.els.getD k 0#40)) (num40 (BitVec.ofNat 40 (leAt op (5 * k) 5)))).1)) ∧
            new.mark = if BitVec.ofNat 7 (leAt op 320 1) = old.mark then old.mark else markConflict))

/-! ## The statistics tap and the root engines -/

/-- TAP_ARM and TAP_CLOSE (R157, R158, R166): a valid descriptor arms its index at the program's step and seats the tiles of the step's group,
position p in pair p div C of participating cluster p mod C; a close ends the index, closes its live pairs with only their complete rows and
empties its ring; a close of an index that is not armed raises tap-order. TAP_DRAIN (R166 to R169, Table 7.4): every closed pair of the index is
freed; a pair with rows whose record holds no old copy leaves copy 0 with the factor's elements and a valid header, one without rows raises
tap-no-samples and writes nothing. Choices of the model this rests on: notes/assumptions/44.md, notes/assumptions/45.md, notes/assumptions/46.md,
notes/assumptions/47.md. -/
def Obligations.TapArmDrainAndClose : Prop :=
  (∀ (h : Hdr) (tap : BitVec 3) (s : State), Issuable s h → FallsInside s h → PartsApart s h.region.toNat →
    (∀ (a : AddrOp) (addr : Nat) (b : List Byte), addr = addrOf (s.prog h) a → b = bytesAt s addr 64 → addr % 64 = 0 →
      Memory.wf s.mem = true → Readable s (regionWho s h 3) addr 64 → tapValid b = true → parts s h.region.toNat ≠ [] →
      (∀ k ∈ (s.region h.region.toNat).taps, k.tap ≠ tap.toNat) →
      (∀ x ∈ tapGroup (tapFields b) (stepOf s h), x.pos < 2 * (parts s h.region.toNat).length) →
      tapOverlaps s h.region.toNat (tapGroup (tapFields b) (stepOf s h)) = false →
      tapDraining s h.region.toNat (tapGroup (tapFields b) (stepOf s h)) = false →
      ∃ t, exec (.tapArm h tap a) s = .next t ∧ (t.prog h).pc = (s.prog h).pc + 1 ∧ t.mem = s.mem ∧
        (t.region h.region.toNat).taps = (s.region h.region.toNat).taps ++ [⟨tap.toNat, b, addr, stepOf s h, 0⟩] ∧
        ∀ x ∈ tapGroup (tapFields b) (stepOf s h), ∀ e,
          (parts s h.region.toNat)[x.pos % (parts s h.region.toNat).length]? = some e →
          pairOf (t.cluster (clusterOf h.region.toNat e.2)) (x.pos / (parts s h.region.toNat).length) =
            { TapPair.free with
              used := true, arm := ⟨tap.toNat, b, addr, stepOf s h, 0⟩, tile := x.tile, rangeI := x.rangeI, rangeJ := x.rangeJ }) ∧
    ((∃ k ∈ (s.region h.region.toNat).taps, k.tap = tap.toNat) →
      ∃ t, exec (.tapClose h tap) s = .next t ∧ t.mem = s.mem ∧
        (t.region h.region.toNat).taps = (s.region h.region.toNat).taps.filter (fun k => k.tap != tap.toNat) ∧
        ∀ c ∈ clustersOf h.region.toNat, ∀ k, k < 2 → (pairOf (s.cluster c) k).live tap.toNat = true →
          (pairOf (t.cluster c) k).closed = true ∧ (pairOf (t.cluster c) k).arm = (pairOf (s.cluster c) k).arm ∧
          (∀ b ∈ (pairOf (t.cluster c) k).formed, (pairOf (t.cluster c) k).formedOf b.row = (pairOf (t.cluster c) k).need) ∧
          ∀ x ∈ (t.cluster c).ring, x.tap ≠ tap.toNat) ∧
    ((∀ k ∈ (s.region h.region.toNat).taps, k.tap ≠ tap.toNat) → ∃ t, exec (.tapClose h tap) s = .next t ∧ t.clusters = s.clusters ∧
      (t.region h.region.toNat).taps = (s.region h.region.toNat).taps ∧
      errSet t (Page.st (lowest s h.region.toNat)) Err.st_tap_order = true)) ∧
  (∀ (r : BitVec 5) (tap : BitVec 3) (s : State), (∃ e, e ∈ closedPairs s r.toNat tap.toNat) →
    ∃ t, exec (.tapDrain r tap) s = .next t ∧
      (∀ e ∈ closedPairs s r.toNat tap.toNat, pairOf (t.cluster e.1) e.2 = .free) ∧
      ∀ c k p, closedPairs s r.toNat tap.toNat = [(c, k)] → p = pairOf (s.cluster c) k →
        (p.rows = [] → t.mem = s.mem ∧ errSet t (Page.st c) Err.st_tap_no_samples = true) ∧
        (∀ base w, base = p.arm.d.record + p.tile * 130 * tileBytes → w = (⟨s.courtOf r.toNat, 3, 0⟩ : Who) → p.rows ≠ [] →
          base % tileBytes = 0 → base + 130 * tileBytes ≤ 2 ^ 48 → Memory.wf s.mem = true →
          Readable s w base 64 → Readable s w (base + 65 * tileBytes) 64 → Stores s w base (65 * tileBytes) →
          copySeq (bytesAt s base 64) = none → copySeq (bytesAt s (base + 65 * tileBytes) 64) = none →
          (∀ i, 1 ≤ i → i ≤ 64 → bytesAt t (base + i * tileBytes) tileBytes = wordBytes (tapTileWords p none i)) ∧
          (∃ bad, bytesAt t base 64 = tapHeader p ((s.courtOf r.toNat).getD 0) 0 1 bad true true) ∧
          ∀ a, a < base ∨ base + 65 * tileBytes ≤ a → Memory.byte t.mem a = Memory.byte s.mem a))

/-- ROOT_REQUEST (R176, R177): a valid descriptor whose use_from does not fall joins the region's queue with its court; one that is not valid is
refused with root-descriptor and counted. ROOT_RUN (R178 to R190): the oldest request, whose records are held and finite and one of whose
attempts converges, commits its root as copy 0 of a slot that holds none, with outcome 1, and leaves the queue. Choices of the model this rests
on: notes/assumptions/48.md, notes/assumptions/49.md, notes/assumptions/50.md, notes/assumptions/52.md. -/
def Obligations.RootRequestsAndRuns : Prop :=
  (∀ (h : Hdr) (a : AddrOp) (s : State) (addr : Nat) (b : List Byte), Issuable s h → FallsInside s h →
    (h.task = true ∨ pageAccepts s (Page.re h.region.toNat) = true) → addr = addrOf (s.prog h) a → b = bytesAt s addr 64 →
    addr % 64 = 0 → Memory.wf s.mem = true → Readable s (regionWho s h 4) addr 64 →
    (reqValid b = true → HeadsReadable s (regionWho s h 4) (reqSlot b) (reqQ b) →
      slotUseFrom (rootQueue s h.region.toNat) (reqSlot b) (newestRoot (headsOf s (reqSlot b) (reqQ b))) ≤ reqUseFrom b →
      (rootQueue s h.region.toNat).length < 64 →
      ∃ t, exec (.rootRequest h a) s = .next t ∧ (t.prog h).pc = (s.prog h).pc + 1 ∧
        rootQueue t h.region.toNat = rootQueue s h.region.toNat ++ [⟨b, s.courtOf h.region.toNat⟩] ∧
        t.fld (Page.re h.region.toNat) F.RE_QUEUE_STAT_used = (rootQueue s h.region.toNat).length + 1 ∧
        ∀ q, q ≠ h.region.toNat → rootQueue t q = rootQueue s q) ∧
    (reqValid b = false → ∃ t, exec (.rootRequest h a) s = .next t ∧ t.roots = s.roots ∧ t.mem = s.mem ∧
      errSet t (Page.re h.region.toNat) Err.re_root_descriptor = true ∧
      t.fld (Page.re h.region.toNat) F.RE_FAIL_COUNT_refused =
        min (s.fld (Page.re h.region.toNat) F.RE_FAIL_COUNT_refused + 1) (2 ^ 16 - 1))) ∧
  (∀ (r : BitVec 5) (s : State) (q : RootReq) (rest : List RootReq) (ts : List ((Nat × Nat) × Nat × List Nat)) (a x : Mat)
    (w : Who) (b : List Byte) (slot n : Nat), rootQueue s r.toNat = q :: rest → b = q.desc → w = ⟨q.court, 4, 0⟩ → slot = reqSlot b →
    n = reqQ b → Memory.wf s.mem = true → ts.map (·.1) = factorTiles n →
    (∀ e ∈ ts, RecordHeld s w b e.1.1 e.1.2 e.2.1 e.2.2) → a = factorMat n ts → (∀ v ∈ a.flatten, ffinite v = true) →
    reqF b ≤ 512 → reqWarm b = false →
    (attempts b a (dampedFactor a (epsEff b a)) (epsEff b a) none false).root = some x →
    (matBytes x).length = 64 * n * n * tileBytes → HeadsReadable s w slot n →
    rootSeq (headsOf s slot n).1 = none → rootSeq (headsOf s slot n).2 = none → slot % tileBytes = 0 →
    slot + (3 + 256 * n * n) * tileBytes ≤ 2 ^ 48 → Stores s w (slot + tileBytes) ((1 + 128 * n * n) * tileBytes) →
    (∀ e ∈ s.regions, ∀ i ∈ e.2.main.inflight ++ e.2.task.inflight, ∀ use, i.what ≠ .rootFetch use) →
    ∃ t, exec (.rootRun r) s = .next t ∧ rootQueue t r.toNat = rest ∧ t.fld (Page.re r.toNat) F.RE_LAST_DONE_outcome = 1 ∧
      bytesAt t (slot + 2 * tileBytes) (matBytes x).length = matBytes x ∧ rootSeq (bytesAt t (slot + tileBytes) 64) = some 1)

/-- ROOT_FETCH and ROOT_WAIT_EXPIRY (R191, R192, R245, Table 8.7): a fetch whose slot holds a fresh eligible root puts its bytes into the cluster
store and records outcome and staleness; one that waits under select exact stays in flight, and an expiry, recorded at the consumer, ends the
wait of the fetch or of the Caddie's part. Choices of the model this rests on: notes/assumptions/53.md. -/
def Obligations.RootFetchAndExpiry : Prop :=
  (∀ (h : Hdr) (a : AddrOp) (o : RootFetchOp) (s : State) (w : Who) (slot ph n : Nat), Issuable s h → FallsInside s h →
    partOf s h.region.toNat o.cluster.toNat = some ph → slot = addrOf (s.prog h) a → n = (o.sizeM1.toNat + 1) * 64 →
    o.cs.toNat + n ≤ storeSize → w = regionWho s h 1 → rebuildWaits s slot 32 = false →
    (rootWaits s w slot (stepOf s h) = true → ∃ t, exec (.rootFetch h a o) s = .next t ∧ t.clusters = s.clusters ∧
      (t.prog h).inflight = (s.prog h).inflight ++ [⟨h.signal.toNat, (s.prog h).pc, 6,
        .rootFetch [slot, stepOf s h, o.cs.toNat, o.offset.toNat * 64, n, ph, 0]⟩]) ∧
    (∀ q k hd d size addr m, rootWaits s w slot (stepOf s h) = false → Memory.wf s.mem = true → Readable s w slot 32 →
      q = bits (wordAt (bytesAt s (copyAddr slot 1 0) 64) 1) 7 4 + 1 → Readable s w (copyAddr slot 1 0) 64 →
      Readable s w (copyAddr slot q 1) 64 →
      eligible (bytesAt s (copyAddr slot 1 0) 64) (bytesAt s (copyAddr slot q 1) 64) (stepOf s h) = some (k, hd) →
      d = stepOf s h - step48 hd 3 → d ≤ bits (wordAt (bytesAt s slot 32) 2) 31 16 → size = 4 * 65536 * q * q →
      addr = (copyAddr slot q k + tileBytes + o.offset.toNat * 64) % 2 ^ 48 → m = min n (size - o.offset.toNat * 64) → 0 < m →
      Readable s w addr m →
      ∃ t, exec (.rootFetch h a o) s = .next t ∧ (t.prog h).pc = (s.prog h).pc + 1 ∧ t.mem = s.mem ∧
        t.fld (Page.rg h.region.toNat) F.RG_ROOT_LAST_outcome = 1 ∧
        t.fld (Page.rg h.region.toNat) F.RG_ROOT_LAST_staleness = min d 0xFFFF ∧
        ∀ x y, x = s.cluster (clusterOf h.region.toNat ph) → y = t.cluster (clusterOf h.region.toNat ph) →
          (∀ i, i < m → Memory.byte y.store (o.cs.toNat + i) = Memory.byte s.mem (addr + i)) ∧
          (∀ i, i < o.cs.toNat ∨ o.cs.toNat + m ≤ i → Memory.byte y.store i = Memory.byte x.store i) ∧
          (∀ l ∈ linesOf o.cs.toNat m, KMap.get y.lineFmt 0 l = 1) ∧ y = { x with store := y.store, lineFmt := y.lineFmt })) ∧
  (∀ (r : BitVec 5) (s : State) (task : Bool) (use : List Nat), waitingFetch (s.region r.toNat) = some (task, use) →
    use.length = 7 → ∃ t, exec (.rootWaitExpiry false r) s = .next t ∧
      errSet t (Page.rg r.toNat) Err.rg_root_wait_expired = true ∧
      ∀ i ∈ (progOf (t.region r.toNat) task).inflight, i.what ≠ .rootFetch use) ∧
  (∀ (n : BitVec 5) (s : State) (p : CPart), waitingPart s n.toNat = some p →
    ∃ t, exec (.rootWaitExpiry true n) s = .next t ∧ errSet t (Page.caddie n.toNat) Err.caddie_root_wait_expired = true ∧
      (caddie t n.toNat).staged = (caddie s n.toNat).staged.map (fun q => if q = p then { q with expired := true } else q) ∧
      t.mem = s.mem)

/-! ## The move engine and the valve -/

/-- WEIGHT_LOAD (R96, R97, R494, R276, R279, R288): every unit of the clusters its mask names takes its block, from memory or from the slot of a
version ring, into its shadow bank; a round-aware read adds the bitmap's bit to each element's high half; the active banks stay. Choices of the
model this rests on: notes/assumptions/54.md, notes/assumptions/57.md, notes/assumptions/60.md. -/
def Obligations.WeightLoadFillsShadow : Prop :=
  ∀ (h : Hdr) (a : AddrOp) (o : WeightLoadOp) (s : State) (w : Who) (base off : Nat) (at_ : Nat × Nat × Nat → Nat), Issuable s h →
    FallsInside s h → PartsApart s h.region.toNat → loadReason o = 0 → maskAbsent s h.region.toNat o.mask = false →
    Memory.wf s.mem = true → w = loadWho (s.courtOf h.region.toNat) → base = (aReg (s.prog h) a.areg.toNat).toNat →
    off = (a.disp.signExtend 48).toNat →
    (isRing o = false → (base + off) % 2 ^ 48 % tileBytes = 0 → (∀ e, at_ e = ((base + off) % 2 ^ 48 + unitOff o e) % 2 ^ 48) →
      (∀ e ∈ loadUnits s h.region.toNat o.mask, BlockReadable s w o.wfmt.toNat o.narrow (at_ e)) →
      ∃ t, exec (.weightLoad h a o) s = .next t ∧ t.mem = s.mem ∧ ∀ e ∈ loadUnits s h.region.toNat o.mask,
        ∀ x y, x = unitOf (s.cluster (clusterOf h.region.toNat e.2.1)) e.2.2 →
          y = unitOf (t.cluster (clusterOf h.region.toNat e.2.1)) e.2.2 →
          y = { x with shadow := y.shadow } ∧ y.shadow.fmt = o.wfmt.toNat ∧ y.shadow.valid = true ∧
          (y.shadow.data, y.shadow.scales) = blockAt s o.wfmt.toNat o.narrow (at_ e)) ∧
    (∀ v k b slot bm, isRing o = true → loadVersion o (stepOf s h) = (if o.version = 1#2 then some v else none) →
      (o.version = 1#2 ↔ v ≠ none) → base % tileBytes = 0 → Readable s w base 64 → Fmt.agree (trailerAt s base).format.toNat 0 = true →
      b = bytesAt s base 64 → ringSlot b v = some k → ringState b k = 3 → slot = base + tileBytes * (1 + k * ringTiles b) →
      bm = slot + 2 * ringElems (ringTiles b) * tileBytes → (slot + off) % 2 ^ 48 % tileBytes = 0 →
      (∀ e, at_ e = ((slot + off) % 2 ^ 48 + unitOff o e) % 2 ^ 48) →
      (∀ e ∈ loadUnits s h.region.toNat o.mask, BlockReadable s w o.wfmt.toNat o.narrow (at_ e)) →
      (o.roundAware = true → ∀ e ∈ loadUnits s h.region.toNat o.mask, ∀ first n, first = (off + unitOff o e) / 2 →
        n = blockBytes o.wfmt.toNat o.narrow / 2 → bm + (first + n) / 8 < 2 ^ 48 ∧
          Readable s w (bm + first / 8) ((first % 8 + n + 7) / 8) ∧ Formatted s (bm + first / 8) ((first % 8 + n + 7) / 8) 0) →
      ∃ t, exec (.weightLoad h a o) s = .next t ∧ t.mem = s.mem ∧ ∀ e ∈ loadUnits s h.region.toNat o.mask,
        ∀ x y, x = unitOf (s.cluster (clusterOf h.region.toNat e.2.1)) e.2.2 →
          y = unitOf (t.cluster (clusterOf h.region.toNat e.2.1)) e.2.2 →
          y = { x with shadow := y.shadow } ∧ y.shadow.fmt = o.wfmt.toNat ∧ y.shadow.valid = true ∧
          y.shadow.scales = (blockAt s o.wfmt.toNat o.narrow (at_ e)).2 ∧
          y.shadow.data = if o.roundAware then
            roundHigh (fun i => bit (Memory.byte s.mem (bm + ((off + unitOff o e) / 2 + i) / 8)).toNat
              (((off + unitOff o e) / 2 + i) % 8)) 0 (blockAt s o.wfmt.toNat o.narrow (at_ e)).1
            else (blockAt s o.wfmt.toNat o.narrow (at_ e)).1)

/-- FETCH and MOVE_STORE (R496, R497): every named participating cluster takes its bytes into its store, or writes its store's bytes to memory with
the format named; nothing else changes in the stores or in memory. MOVE_COPY (R254, R259): whole tiles arrive in order with their format,
generation and poison; every other byte of memory stays. Choices of the model this rests on: notes/assumptions/60.md. -/
def Obligations.FetchStoreAndCopy : Prop :=
  (∀ (h : Hdr) (a : AddrOp) (o : FetchOp) (s : State) (sel : List (Nat × Nat)), Issuable s h → FallsInside s h →
    PartsApart s h.region.toNat → maskAbsent s h.region.toNat o.mask = false → o.cs.toNat + fetchBytes o ≤ storeSize →
    Memory.wf s.mem = true → sel = fetchSel s h.region.toNat (addrOf (s.prog h) a) o →
    ((∀ e ∈ sel, Readable s ⟨s.courtOf h.region.toNat, 1, 2⟩ e.2 (fetchBytes o)) →
      ∃ t, exec (.fetch h a o) s = .next t ∧ (t.prog h).pc = (s.prog h).pc + 1 ∧ t.mem = s.mem ∧
        (∀ e ∈ sel, ∀ x y, x = s.cluster (clusterOf h.region.toNat e.1) → y = t.cluster (clusterOf h.region.toNat e.1) →
          StoreHolds x y o.cs.toNat (bytesAt s e.2 (fetchBytes o)) ∧
          ∀ f, (∀ tile ∈ spanTiles e.2 (fetchBytes o), (trailerAt s tile).format.toNat = f) →
            ∀ l ∈ linesOf o.cs.toNat (fetchBytes o), KMap.get y.lineFmt 0 l = f) ∧
        ∀ c, (∀ e ∈ sel, c ≠ clusterOf h.region.toNat e.1) → t.cluster c = s.cluster c) ∧
    ((∀ e ∈ sel, Stores s ⟨s.courtOf h.region.toNat, 6, 2⟩ e.2 (fetchBytes o)) →
      sel.Pairwise (fun e k => e.2 + fetchBytes o ≤ k.2 ∨ k.2 + fetchBytes o ≤ e.2) →
      ∃ t, exec (.moveStore h a o) s = .next t ∧ (t.prog h).pc = (s.prog h).pc + 1 ∧ t.clusters = s.clusters ∧
        (∀ e ∈ sel, bytesAt t e.2 (fetchBytes o) = storeRead (s.cluster (clusterOf h.region.toNat e.1)) o.cs.toNat (fetchBytes o) ∧
          ∀ tile ∈ spanTiles e.2 (fetchBytes o), (trailerAt t tile).format = o.fmt) ∧
        ∀ i, (∀ e ∈ sel, i < e.2 ∨ e.2 + fetchBytes o ≤ i) → Memory.byte t.mem i = Memory.byte s.mem i)) ∧
  (∀ (h : Hdr) (tilesM1 : BitVec 16) (src dst : AddrOp) (s : State) (a b n : Nat) (w : Who), Issuable s h → FallsInside s h →
    a = addrOf (s.prog h) src → b = addrOf (s.prog h) dst → n = tilesM1.toNat + 1 → w = ⟨s.courtOf h.region.toNat, 6, 2⟩ →
    a % tileBytes = 0 → b % tileBytes = 0 → (a + n * tileBytes ≤ b ∨ b + n * tileBytes ≤ a) → Memory.wf s.mem = true →
    rebuildWaits s a (n * tileBytes) = false → rebuildWaits s b (n * tileBytes) = false →
    (∀ i, i < n → Copyable s w (a + i * tileBytes) (b + i * tileBytes)) →
    ∃ t, exec (.moveCopy h tilesM1 src dst) s = .next t ∧ (t.prog h).pc = (s.prog h).pc + 1 ∧ t.clusters = s.clusters ∧
      (∀ i, i < n → Copied s t (a + i * tileBytes) (b + i * tileBytes)) ∧ SameOutside s t b (n * tileBytes))

/-- SEND and RECEIVE (R226, R227): bytes of a cluster store or of memory join the end of a pass buffer in order, and the first bytes of a buffer go
to a cluster store, with its format's code, or to memory. Choices of the model this rests on: notes/assumptions/58.md, notes/assumptions/72.md. -/
def Obligations.SendAndReceive : Prop :=
  ∀ (h : Hdr) (o : PbMoveOp) (s : State) (d : PbDesc) (addr n : Nat) (w : Who), Issuable s h → FallsInside s h →
    pbDesc s h.region.toNat o.pb.toNat = some d → n = pbMoveBytes d o → addr = addrOf (s.prog h) o.addr → Memory.wf s.mem = true →
    (o.mem = true → o.cs = 0#21 ∧ o.cluster = 0#4) → (o.mem = false → o.addr = ⟨0#4, 0#32⟩ ∧ o.cs.toNat + n ≤ storeSize) →
    (∀ ph, o.mem = false → partOf s h.region.toNat o.cluster.toNat = some ph → ∃ t, exec (.send h o) s = .next t ∧
      Pushed s t d (storeRead (s.cluster (clusterOf h.region.toNat ph)) o.cs.toNat n) ∧ t.clusters = s.clusters) ∧
    (o.mem = true → Readable s ⟨s.courtOf h.region.toNat, 1, 2⟩ addr n → ∃ t, exec (.send h o) s = .next t ∧
      Pushed s t d (bytesAt s addr n) ∧ t.clusters = s.clusters) ∧
    (AtHand s d n → ∀ ph, o.mem = false → partOf s h.region.toNat o.cluster.toNat = some ph →
      ∃ t, exec (.receive h o) s = .next t ∧ TakenFront s t d n ∧ (t.prog h).pc = (s.prog h).pc + 1 ∧
        ∀ x y, x = s.cluster (clusterOf h.region.toNat ph) → y = t.cluster (clusterOf h.region.toNat ph) →
          StoreHolds x y o.cs.toNat ((storeBytes (bufOf s d)).take n) ∧
          ∀ l ∈ linesOf o.cs.toNat n, KMap.get y.lineFmt 0 l = d.format) ∧
    (AtHand s d n → o.mem = true → w = ⟨s.courtOf h.region.toNat, 6, 2⟩ → Stores s w addr n →
      ∃ t, exec (.receive h o) s = .next t ∧ TakenFront s t d n ∧ (t.prog h).pc = (s.prog h).pc + 1 ∧ t.clusters = s.clusters ∧
        bytesAt t addr n = (storeBytes (bufOf s d)).take n ∧ ((bufOf s d).queue = [] → SameOutside s t addr n))

/-- OFFLOAD, VALVE_RESTORE, MARK_RECOMPUTE and VALVE_MIGRATE (R234 to R238): a set is copied to the head of the area its rule picks and entered in
the table; a restore copies it back and forgets it; a mark only counts; a migration ends at or below the low watermark or for want of room, loses
no set, and writes nothing outside the deep area. Choices of the model this rests on: notes/assumptions/74.md. -/
def Obligations.ValveMovesSets : Prop :=
  (∀ (h : Hdr) (id : BitVec 16) (tilesM1 : BitVec 20) (a : AddrOp) (mark deep : Bool) (s : State) (src n : Nat) (w : Who)
    (dst : Nat → Nat), Issuable s h → FallsInside s h → src = addrOf (s.prog h) a → n = tilesM1.toNat + 1 → w = valveWho s h →
    findSet (s.region h.region.toNat) id.toNat = none → (s.region h.region.toNat).sets.length < 1024 → src % tileBytes = 0 →
    rebuildWaits s src (n * tileBytes) = false → offloadArea s h.region.toNat n mark = some deep → Memory.wf s.mem = true →
    (∀ i, dst i = areaTile s h.region.toNat deep (ringHead (s.region h.region.toNat) deep) i) →
    (∀ i, i < n → Copyable s w (src + i * tileBytes) (dst i)) →
    (∀ i j, i < n → j < n → dst j + tileBytes ≤ src + i * tileBytes ∨ src + i * tileBytes + tileBytes ≤ dst j) →
    ∃ t, exec (.offload h id tilesM1 a mark) s = .next t ∧ (t.prog h).pc = (s.prog h).pc + 1 ∧
      (t.region h.region.toNat).sets = (s.region h.region.toNat).sets ++
        [⟨id.toNat, deep, n, ringHead (s.region h.region.toNat) deep⟩] ∧
      ringFill (ringOf (t.region h.region.toNat) deep) = ringFill (ringOf (s.region h.region.toNat) deep) + n ∧
      ∀ i, i < n → Copied s t (src + i * tileBytes) (dst i)) ∧
  (∀ (h : Hdr) (id : BitVec 16) (tilesM1 : BitVec 20) (a : AddrOp) (s : State) (dst n : Nat) (w : Who) (k : ValveSet)
    (src : Nat → Nat), Issuable s h → FallsInside s h → dst = addrOf (s.prog h) a → n = tilesM1.toNat + 1 → w = valveWho s h →
    findSet (s.region h.region.toNat) id.toNat = some k → k.tiles = n → n ≤ areaTiles s h.region.toNat k.deep → dst % tileBytes = 0 →
    rebuildWaits s dst (n * tileBytes) = false → Memory.wf s.mem = true →
    (∀ i, src i = areaTile s h.region.toNat k.deep k.addr i) → (∀ i, i < n → Copyable s w (src i) (dst + i * tileBytes)) →
    (∀ i j, i < n → j < n → dst + j * tileBytes + tileBytes ≤ src i ∨ src i + tileBytes ≤ dst + j * tileBytes) →
    ∃ t, exec (.valveRestore h id tilesM1 a) s = .next t ∧ (t.prog h).pc = (s.prog h).pc + 1 ∧
      (t.region h.region.toNat).sets = (s.region h.region.toNat).sets.filter (fun u => u.id != id.toNat) ∧
      (∀ i, i < n → Copied s t (src i) (dst + i * tileBytes)) ∧ SameOutside s t dst (n * tileBytes)) ∧
  (∀ (h : Hdr) (id : BitVec 16) (tilesM1 : BitVec 20) (a : AddrOp) (s : State), Issuable s h → FallsInside s h →
    ∃ t, exec (.markRecompute h id tilesM1 a) s = .next t ∧ OnlyRegion h.region.toNat s t ∧
      t.prog h = { s.prog h with pc := (s.prog h).pc + 1 } ∧
      (t.region h.region.toNat).sets = (s.region h.region.toNat).sets ∧
      t.fld (Page.rg h.region.toNat) F.RG_SET_COUNT_recompute_marks =
        min (s.fld (Page.rg h.region.toNat) F.RG_SET_COUNT_recompute_marks + 1) (2 ^ 16 - 1)) ∧
  (∀ (r : BitVec 5) (s : State), (s.region r.toNat).migrate = true → ∃ t, exec (.valveMigrate r) s = .next t ∧
    ((t.region r.toNat).migrate = true ∨ arenaFill t r.toNat ≤ lowMark t r.toNat) ∧
    (∀ u ∈ (s.region r.toNat).sets, ∃ v ∈ (t.region r.toNat).sets, v.id = u.id) ∧
    ∀ i, (i < areaBase s r.toNat true ∨ areaBase s r.toNat true + max 1 (areaTiles s r.toNat true) * tileBytes ≤ i) →
      Memory.byte t.mem i = Memory.byte s.mem i)

/-! ## Egress and the clusters' registers -/

/-- EGRESS (R131, R149, R205, R226): every block of every row, fused and rounded once with its lanes' draws, goes to its place in its cluster's
stripe, the MX scales behind the elements, and no byte outside the stripes changes; or to a pass buffer in order of row, cluster, unit and block.
Choices of the model this rests on: notes/assumptions/40.md, notes/assumptions/41.md. -/
def Obligations.EgressConvertsRows : Prop :=
  ∀ (h : Hdr) (o : RowsOp) (e : EgressOp) (s : State) (ps : List ReadPart) (w n gs gb sa size : Nat) (stripe : Nat → Nat),
    Issuable s h → FallsInside s h → PartsApart s h.region.toNat → egressReason s h o e = 0 →
    readParts s h o.offExplicit o.offset o.r0.toNat (o.countM1.toNat + 1) = some ps → ResultsReady s h o.units.toNat ps →
    w = mapWidth (s.prog h).map → n = o.countM1.toNat + 1 → gs = unitCount o.units.toNat * w → gb = 64 * Fmt.bits e.tfmt.toNat / 8 →
    sa = (if Fmt.isMx e.tfmt.toNat then roundUp (n * gs * gb) tileBytes else n * gs * gb) →
    size = (if Fmt.isMx e.tfmt.toNat then sa + 2 * n * gs else sa) →
    (∀ l, stripe l = addrOf (s.prog h) e.dst + l * roundUp size tileBytes) →
    (e.fop ≠ 0#2 → (operandSpan o e w).1 + (operandSpan o e w).2 ≤ storeSize ∧ ∀ q ∈ parts s h.region.toNat,
      storeAgrees (s.cluster (clusterOf h.region.toNat q.2)) (operandSpan o e w).1 (operandSpan o e w).2 e.ffmt.toNat = true) →
    (∀ q ∈ ps, ∀ ra ∈ q.rows, ∀ u b, b < w → (accRow (s.cluster (clusterOf h.region.toNat q.phys)) u (ra.tile + b) ra.row).els.length = 64) →
    (e.dstPb = false → egressWaits s h o e = false → Memory.wf s.mem = true →
      (∀ q ∈ ps, stripe q.logical + size ≤ 2 ^ 48 ∧ Stores s (regionWho s h 0) (stripe q.logical) size) →
      ∃ t, exec (.egress h o e) s = .next t ∧ (t.prog h).pc = (s.prog h).pc + 1 ∧
        (∀ q ∈ ps, ∀ i ra k u b, q.rows[i]? = some ra → (maskBits 4 o.units.toNat)[k]? = some u → b < w → ∀ x at_,
          x = s.cluster (clusterOf h.region.toNat q.phys) → at_ = i * gs + k * w + b →
          bytesAt t (stripe q.logical + at_ * gb) gb = (egressOut x o e w i k u b ra).1 ∧
          (Fmt.isMx e.tfmt.toNat = true → bytesAt t (stripe q.logical + sa + 2 * at_) 2 = (egressOut x o e w i k u b ra).2)) ∧
        (∀ i, (∀ q ∈ ps, i < stripe q.logical ∨ stripe q.logical + size ≤ i) → Memory.byte t.mem i = Memory.byte s.mem i) ∧
        ∀ c, t.cluster c = { s.cluster c with gens := (t.cluster c).gens }) ∧
    (∀ d, e.dstPb = true → pbDesc s h.region.toNat e.dst.disp.toNat = some d → d.format = e.tfmt.toNat →
      ∃ t, exec (.egress h o e) s = .next t ∧ (t.prog h).pc = (s.prog h).pc + 1 ∧
        Pushed s t d ((List.range n).flatMap fun i => ps.flatMap fun q => (List.range (unitCount o.units.toNat)).flatMap fun k =>
          (List.range w).flatMap fun b => match q.rows[i]? with
            | some ra =>
              let out := egressOut (s.cluster (clusterOf h.region.toNat q.phys)) o e w i k ((maskBits 4 o.units.toNat).getD k 0) b ra
              out.1 ++ out.2
            | none => []) ∧
        ∀ c, t.cluster c = { s.cluster c with gens := (t.cluster c).gens })

/-- The writes that discard open groups (R135, Table 5.9), reseed the lanes (R151, R154), and re-arm the flag trap (R145) and the court's NaN trap
(R90) do just that and are answered with status OK. Choices of the model this rests on: notes/assumptions/31.md, notes/assumptions/59.md. -/
def Obligations.ClusterRegisterCommands : Prop :=
  (∀ (h : RegHdr) (c : BitVec 10) (v : W32) (s : State), c.toNat < 544 →
    (Accepted s h (Page.acc c.toNat + 0x40) → bit v.toNat 0 = true → (s.region (c.toNat / 17)).stream = none → GroupsFit (s.cluster c.toNat) →
      ∃ t, exec (.accDiscard h c v) s = .next (regReply t h RegStatus.ok (Page.acc c.toNat + 0x40) []) ∧
        t = { s with clusters := t.clusters, regs := t.regs } ∧ RegsIn [Page.acc c.toNat] s t ∧
        (∀ k, k ≠ c.toNat → t.cluster k = s.cluster k) ∧
        ∀ u, u < 4 → unitOf (t.cluster c.toNat) u = (if bit (bits v.toNat 7 4) u then { unitOf (s.cluster c.toNat) u with groups := [], counts := [] }
            else unitOf (s.cluster c.toNat) u) ∧
          ∀ tile row, tile < 32 → row < 64 → accRow (t.cluster c.toNat) u tile row =
            if bit (bits v.toNat 7 4) u ∧ tile ∈ (unitOf (s.cluster c.toNat) u).groups.flatMap groupTiles then
              { accRow (s.cluster c.toNat) u tile row with mark := markNone } else accRow (s.cluster c.toNat) u tile row) ∧
    (Accepted s h (Page.ve c.toNat + 0x60) → bit v.toNat 0 = true → pageQuiet s (c.toNat / 17) = true →
      ∃ t, exec (.veReseed h c v) s = .next (regReply t h RegStatus.ok (Page.ve c.toNat + 0x60) []) ∧
        t = { s with clusters := t.clusters } ∧ (∀ k, k ≠ c.toNat → t.cluster k = s.cluster k) ∧
        t.cluster c.toNat = { s.cluster c.toNat with gens := (t.cluster c.toNat).gens } ∧ ∀ i, i < 128 → genOf (t.cluster c.toNat) i = seedState (BitVec.ofNat 64
          (s.fld (Page.ve c.toNat) F.VE_SEED_LO_seed_lo + s.fld (Page.ve c.toNat) F.VE_SEED_HI_seed_hi * 2 ^ 32)) i) ∧
    (Accepted s h (Page.ve c.toNat + 0x50) → bit v.toNat 31 = true →
      ∃ t, exec (.flagTrapRearm h c v) s = .next (regReply t h RegStatus.ok (Page.ve c.toNat + 0x50) []) ∧ t = { s with regs := t.regs } ∧
        t.fld (Page.ve c.toNat) F.VE_TRAP_INFO_valid = 0 ∧ ∀ o, o ≠ Page.ve c.toNat + 0x50 → t.reg o = s.reg o)) ∧
  (∀ (h : RegHdr) (n : BitVec 4) (v : W32) (s : State), Accepted s h (Page.court n.toNat + 0x60) → bit v.toNat 27 = true →
    ∃ t, exec (.nanTrapRearm h n v) s = .next (regReply t h RegStatus.ok (Page.court n.toNat + 0x60) []) ∧ t = { s with regs := t.regs } ∧
      t.fld (Page.court n.toNat) F.COURT_TRAP0_valid = 0 ∧ ∀ o, o ≠ Page.court n.toNat + 0x60 → t.reg o = s.reg o)

/-! ## Huddles -/

/-- ARRIVE, HUDDLE_WAIT, ARRIVE_AND_WAIT, HUDDLE_ARRIVE_MSG and PACKAGE_ARRIVE (R321, R322, R324): a region's arrival and a child's count join the
number with the smallest step; a wait holds its token until the decision, and one already failed stops its region; the package's arrival goes to
the parent once, and the root completes when its count is whole. Choices of the model this rests on: notes/assumptions/87.md,
notes/assumptions/88.md. -/
def Obligations.HuddleArrivals : Prop :=
  (∀ (h : Hdr) (gid : BitVec 16) (a : AddrOp) (s : State) (i num step : Nat) (old new : HNum) (wait : List InFlight), Issuable s h →
    FallsInside s h → groupIndex s gid.toNat = some i → num = addrOf (s.prog h) a → step = (s.prog h).step.toNat →
    KMap.wf (group s i).decided (fun _ => 0) = true → old = numOf (group s i) num →
    new = { old with regions := old.regions ||| 2 ^ h.region.toNat, step := minStep old.step step } →
    wait = (s.prog h).inflight ++ [⟨h.signal.toNat, (s.prog h).pc, 9, .huddle gid.toNat num⟩] →
    (∀ commit : Bool, Undecided s i num → step ∉ (group s i).doomed →
      (commit = true → h.task = false → (s.region h.region.toNat).taskRunning = false ∧ (s.region h.region.toNat).bench = []) →
      (∃ t, exec (.arrive h gid a commit) s = .next t ∧ findNum (group t i) num = some new ∧
        t = { s with groups := t.groups, regions := t.regions, regs := t.regs } ∧ RegsIn [Page.ce, Page.rg h.region.toNat] s t ∧
        (∀ k, k ≠ i → group t k = group s k) ∧ (∀ q, q ≠ h.region.toNat → t.region q = s.region q) ∧
        t.prog h = { s.prog h with pc := (s.prog h).pc + 1 }) ∧
      ∃ t, exec (.arriveAndWait h gid a commit) s = .next t ∧ findNum (group t i) num = some new ∧
        t = { s with groups := t.groups, regions := t.regions, regs := t.regs } ∧ RegsIn [Page.ce, Page.rg h.region.toNat] s t ∧
        (∀ k, k ≠ i → group t k = group s k) ∧ (∀ q, q ≠ h.region.toNat → t.region q = s.region q) ∧
        (t.prog h).inflight = wait ∧ (t.prog h).pc = (s.prog h).pc + 1) ∧
    (∃ t, exec (.huddleWait h gid a) s = .next t ∧ OnlyRegion h.region.toNat s t ∧ (t.prog h).pc = (s.prog h).pc + 1 ∧
      (t.prog h).inflight = (if KMap.get (group s i).decided 0 num = 0 then wait else (s.prog h).inflight) ∧
      ((t.region h.region.toNat).stopped = true ↔ KMap.get (group s i).decided 0 num = 2))) ∧
  (∀ (w : WireHdr) (gid : BitVec 16) (num step : BitVec 48) (arrivals : W32) (s : State) (i : Nat) (g : HGroup) (old new : HNum), InTurn s w →
    groupIndex s gid.toNat = some i → g = group s i → w.src.toNat ∈ g.children → Undecided s i num.toNat → HuddleQuiet s g.id num.toNat →
    g.court < 16 → old = numOf g num.toNat → new = { old with
      children := old.children.filter (fun c => c.1 != w.src.toNat) ++ [(w.src.toNat, arrivals.toNat)]
      step := minStep old.step step.toNat } → numStep new < 2 ^ 48 →
    ∃ t, exec (.huddleArriveMsg w gid num step arrivals) s = .next t ∧ Turned s t w ∧
      if (g.isRoot && new.arrived && countedArrivals g new == g.subtreeM1 + 1) = true then HuddleCompleted s t i num.toNat (numStep new)
      else findNum (group t i) num.toNat = some new) ∧
  (∀ (gid : BitVec 16) (num : BitVec 48) (s : State) (i : Nat) (g : HGroup) (old : HNum), groupIndex s gid.toNat = some i → g = group s i →
    canArrive s i num.toNat = true → HuddleQuiet s g.id num.toNat → g.court < 16 → old = numOf g num.toNat → numStep old < 2 ^ 48 →
    ∃ t, exec (.packageArrive gid num) s = .next t ∧ 
      if (g.isRoot && countedArrivals g old == g.subtreeM1 + 1) = true then HuddleCompleted s t i num.toNat (numStep old)
      else findNum (group t i) num.toNat = some { old with arrived := true } ∧
        (g.isRoot = false → Given s t g.parent (2 * 2 ^ 28 + g.id)
          (0x40, huddleWords g.id 0 num.toNat (numStep old) (g.subtreeM1 + 1), [])))

/-- HUDDLE_COMPLETE, HUDDLE_FAIL, HUDDLE_TIMEOUT, HUDDLE_ORPHAN and the two forms of CE_HUDDLE_CMD (R323 to R325): the parent's decision and the
declared one stand; a child's fail or a timeout decides fail at the root and goes to the parent once elsewhere; an orphan is marked and raised.
Choices of the model this rests on: notes/assumptions/86.md, notes/assumptions/89.md. -/
def Obligations.HuddleDecisions : Prop :=
  (∀ (w : WireHdr) (gid : BitVec 16) (num step : BitVec 48) (cause : BitVec 4) (s : State) (i : Nat) (g : HGroup), InTurn s w →
    groupIndex s gid.toNat = some i → g = group s i → Undecided s i num.toNat → HuddleQuiet s g.id num.toNat → g.court < 16 →
    (g.isRoot = false → g.parent = w.src.toNat → w.src.toNat ∉ g.children →
      (∃ t, exec (.huddleComplete w gid num step) s = .next t ∧ Turned s t w ∧ HuddleCompleted s t i num.toNat step.toNat) ∧
      ∃ t, exec (.huddleFail w gid num step cause) s = .next t ∧ Turned s t w ∧ HuddleFailed s t i num.toNat) ∧
    (g.isRoot = true → w.src.toNat ∈ g.children →
      ∃ t, exec (.huddleFail w gid num step cause) s = .next t ∧ Turned s t w ∧ HuddleFailed s t i num.toNat)) ∧
  (∀ (gid : BitVec 16) (num : BitVec 48) (s : State) (i : Nat) (g : HGroup) (n : HNum), groupIndex s gid.toNat = some i → g = group s i →
    findNum g num.toNat = some n → g.timeoutMs ≠ 0 → HuddleQuiet s g.id num.toNat →
    (localArrived s g n = true → n.failedUp = false → ∃ t, exec (.huddleTimeout gid num) s = .next t ∧
      if g.isRoot = true then HuddleFailed s t i num.toNat
      else findNum (group t i) num.toNat = some { n with failedUp := true } ∧
        Given s t g.parent (2 * 2 ^ 28 + g.id) (0x42, huddleWords g.id 2 num.toNat (numStep n) 0, [])) ∧
    (g.isRoot = false → n.arrived = true → n.orphan = false → ∃ t, exec (.huddleOrphan gid num) s = .next t ∧
      findNum (group t i) num.toNat = some { n with orphan := true } ∧ errSet t Page.ce Err.ce_huddle_orphan = true ∧
      t.mem = s.mem ∧ t.regions = s.regions ∧ t.flows = s.flows)) ∧
  ∀ (h : RegHdr) (index : BitVec 8) (s : State) (g : HGroup) (n : HNum), Accepted s h (Page.ce + 0x6C) → g = group s index.toNat →
    findNum g (cmdNum s) = some n → HuddleQuiet s g.id (cmdNum s) → g.court < 16 → numStep n < 2 ^ 48 →
    (∃ t, exec (.huddleDeclareComplete h index) s = .next (regReply t h RegStatus.ok (Page.ce + 0x6C) []) ∧
      HuddleCompleted s t index.toNat (cmdNum s) (numStep n) ∧ (g.children.Nodup → ∀ d ∈ g.children, d ≠ g.parent →
        Given s t d (2 * 2 ^ 28 + g.id) (0x41, huddleWords g.id 0 (cmdNum s) (numStep n) 0, []))) ∧
    ∃ t, exec (.huddleDeclareFail h index) s = .next (regReply t h RegStatus.ok (Page.ce + 0x6C) []) ∧
      HuddleFailed s t index.toNat (cmdNum s) ∧ (g.children.Nodup → ∀ d ∈ g.children, d ≠ g.parent →
        Given s t d (2 * 2 ^ 28 + g.id) (0x42, huddleWords g.id 1 (cmdNum s) (numStep n) 0, []))

/-! ## Host sessions and commands -/

/-- SESSION_OPEN and SESSION_CLOSE (R341 to R343): an admitted source takes the lowest free session, another is refused; a close frees the session
and aborts nothing. COURT_CREATE and COURT_RELEASE (R20, R246, R260, R345, R346): a create takes free regions, advances the epoch past 0 and
leaves every region and cluster of it cleared, with its weight banks; a release of a court with no running stage gives its regions and their pass
buffers back. Choices of the model this rests on: notes/assumptions/61.md, notes/assumptions/63.md, notes/assumptions/67.md. -/
def Obligations.SessionsAndCourts : Prop :=
  ((∀ (src : NetAddr) (flow : BitVec 28) (device : Bool) (court : BitVec 4) (tag : BitVec 16) (s : State), isReady s = true →
    (admitted s src = true → ∀ i, freeSession s = some i →
      ∃ t, exec (.sessionOpen src flow device court tag) s = .next (openReply t src tag.toNat 0 (i + 1)) ∧
        t = { s with sessions := t.sessions } ∧ t.session (i + 1) = ⟨true, device, court.toNat, src.addr.toNat, flow.toNat, 0, (s.sessionSent (i + 1)).length, 0, 0⟩ ∧
        ∀ n, n ≠ i + 1 → t.session n = s.session n) ∧
    (admitted s src = true → freeSession s = none →
      exec (.sessionOpen src flow device court tag) s = .next (openReply s src tag.toNat 2 0)) ∧
    (admitted s src = false → ∃ t, exec (.sessionOpen src flow device court tag) s = .next (openReply t src tag.toNat 1 0) ∧
      t.sessions = s.sessions ∧ errSet t Page.h Err.h_session_refused = true)) ∧
  ∀ (n : BitVec 7) (tag : BitVec 16) (s : State), isReady s = true → (s.session n.toNat).isOpen = true →
    ∃ t, exec (.sessionClose n tag) s = .next t ∧ t = { s with sessions := t.sessions, outbox := t.outbox } ∧
      (t.session n.toNat).isOpen = false ∧ (∀ k, k ≠ n.toNat → t.session k = s.session k) ∧
      t.outbox = s.outbox ++ [⟨.session n.toNat, 0x21, [0x20 * 65536 + tag.toNat, 0, n.toNat], []⟩]) ∧
  ((∀ (c : HostHdr) (mask : W32) (s : State) (n e : Nat), n = c.court.toNat → accept s c 0x22 false = .go → s.courtCreated n = false →
    regionsFree s mask = true → mask ≠ 0#32 → e = s.fld (Page.court n) F.COURT_EPOCH_epoch →
    ∃ t, exec (.courtCreate c mask) s = .next (complete t (cmdOf c 0x22) 0 0 0 [if e = 255 then 1 else e + 1]) ∧
      t.fld (Page.court n) F.COURT_EPOCH_epoch = (if e = 255 then 1 else e + 1) ∧
      KMap.get t.assign 0#32 n = mask ∧ (∀ k, k ≠ n → KMap.get t.assign 0#32 k = KMap.get s.assign 0#32 k) ∧ heldStep t n = 0 ∧
      (∀ r, r < 32 → t.region r = if mask.getLsbD r then .init else s.region r) ∧
      (∀ r p, r < 32 → p < 17 → mask.getLsbD r = true → ∀ x, x = t.cluster (clusterOf r p) →
        x = { Cluster.init with units := x.units } ∧ ∀ u, u < 4 → unitOf x u =
          { unitOf (s.cluster (clusterOf r p)) u with groups := [], counts := [], closed := [] }) ∧
      (∀ r p, r < 32 → p < 17 → mask.getLsbD r = false → t.cluster (clusterOf r p) = s.cluster (clusterOf r p)) ∧
      t.mem = s.mem ∧ (e ≠ 255 → t.trailers = s.trailers)) ∧
  (∀ (c : HostHdr) (s : State) (n : Nat), n = c.court.toNat → accept s c 0x23 true = .go →
    (courtStages s n = [] → ∃ t, exec (.courtRelease c) s = .next (complete t (cmdOf c 0x23) 0 0 0 []) ∧
      t = { s with sessions := t.sessions, assign := t.assign, pbufs := t.pbufs } ∧ t.courtCreated n = false ∧
      (∀ k, k ≠ n → KMap.get t.assign 0#32 k = KMap.get s.assign 0#32 k) ∧
      ∀ b, b ∈ t.pbufs ↔ b ∈ s.pbufs ∧ b.desc.consRegion ∉ s.regionsOf n ∧ b.desc.prodRegion ∉ s.regionsOf n) ∧
    (courtStages s n ≠ [] → ∃ t, exec (.courtRelease c) s = .next (complete t (cmdOf c 0x23) 2 0 0 []) ∧
      t = { s with sessions := t.sessions })))

/-- DATA_WRITE and DATA_READ (R316, R347, R348): every tile is written whole with the host's format, generation and poison and its range's tag, or
sent with its trailer; the completion counts the tiles that fail their check or are poisoned; no other byte changes. Choices of the model this
rests on: notes/assumptions/63.md, notes/assumptions/64.md. -/
def Obligations.HostDataMovesTiles : Prop :=
  (∀ (c : HostHdr) (addr : Addr48) (tiles : List WireTile) (s : State) (a : Nat) (n : Nat), a = addr.toNat →
    accept s c 0x24 (inCourt s c) = .go → tiles ≠ [] → tiles.length ≤ 2 → a % tileBytes = 0 →
    tilesWait s ((List.range tiles.length).map fun i => a + i * tileBytes) = false →
    (∀ x ∈ tiles, x.data.length = tileBytes ∧ (wireOk x = true ∨ x.resent = true)) →
    (∀ i, i < tiles.length → admits s (hostWho s c) (a + i * tileBytes) = none) → n = (tiles.filter fun x => !wireOk x).length →
    ∃ t, exec (.dataWrite c addr tiles) s = .next (complete t (cmdOf c 0x24) (if n = 0 then 0 else 9) n 0 []) ∧
      SameOutside s t a (tiles.length * tileBytes) ∧ ∀ i x, tiles[i]? = some x → ∀ d, d = a + i * tileBytes →
        bytesAt t d tileBytes = x.data ∧ (trailerAt t d).format.toNat = bits x.word1.toNat 18 15 ∧
        (trailerAt t d).gen.toNat = bits x.word1.toNat 14 0 ∧ (trailerAt t d).poison = (bit x.word1.toNat 19 || !wireOk x) ∧
        (trailerAt t d).tag = tagAt s d ∧ (trailerAt t d).state = .written) ∧
  (∀ (c : HostHdr) (addr : Addr48) (count : BitVec 32) (s : State) (a n k : Nat), a = addr.toNat → n = count.toNat →
    accept s c 0x25 (inCourt s c) = .go → 0 < n → n ≤ 65536 → a % tileBytes = 0 →
    tilesWait s ((List.range n).map fun i => a + i * tileBytes) = false →
    (∀ i, i < n → admits s (hostWho s c) (a + i * tileBytes) = none ∧
      tagWrong s (hostWho s c) (tileData s (a + i * tileBytes)).2 = false) →
    k = ((List.range n).filter fun i => (tileData s (a + i * tileBytes)).2.poison).length →
    ∃ t, exec (.dataRead c addr count) s = .next (complete t (cmdOf c 0x25) (if k = 0 then 0 else 9) k 0 []) ∧
      t.mem = s.mem ∧ t.trailers = s.trailers ∧
      (k = 0 → t.outbox = s.outbox ++ (List.range n).map fun i =>
        ⟨.session c.session.toNat, 0x25, [c.tag.toNat, (a + i * tileBytes) % 2 ^ 32, (a + i * tileBytes) / 2 ^ 32],
          (tileData s (a + i * tileBytes)).1 ++ trailerBytes (tileData s (a + i * tileBytes)).2⟩))

/-- STAGE_START and STAGE_DONE (R219 to R222, R242, R349, R351): a descriptor that passes every check starts each of its regions at its entry with
its image, clusters, buffers, address registers 12 to 15 and deadline; a finished stage ends and its court is told. Choices of the model this
rests on: notes/assumptions/63.md, notes/assumptions/65.md. -/
def Obligations.StagesStartAndEnd : Prop :=
  (∀ (c : HostHdr) (addr : Addr48) (s : State) (n : Nat) (w : Who) (d : StageDesc) (pbs : List PbDesc) (codes : List Nat),
    n = c.court.toNat → accept s c 0x26 true = .go → w = ⟨some n, 1, 3⟩ → Memory.wf s.mem = true → Readable s w addr.toNat 256 →
    parseStage (bytesAt s addr.toNat 256) = some d → d.court = n → (∀ i, i < d.pbCount → Readable s w (d.pbTable + 64 * i) 64) →
    ((List.range d.pbCount).mapM fun i => parsePb (bytesAt s (d.pbTable + 64 * i) 64)) = some pbs → regionsBad s d pbs = false →
    pbs.all kindFits = true → (∀ e ∈ d.regions, (s.region e.region).started = false ∧ Readable s w e.image 64) →
    (d.regions.mapM fun e => parseImage (bytesAt s e.image 64) d.court) = some codes →
    (∀ e ∈ d.regions.zip codes, e.1.entry < e.2) → (reserveBufs s pbs).isSome = true →
    ∃ t, exec (.stageStart c addr) s = .next (complete t (cmdOf c 0x26) 0 0 0 [d.id]) ∧ t.mem = s.mem ∧
      t.stages = s.stages ++ [⟨n, d.id, addr.toNat, d.regions.map (·.region)⟩] ∧ (∀ b ∈ pbs, (findBuf t b).isSome = true) ∧
      ∀ e ∈ d.regions.zip codes, ∀ x, x = t.region e.1.region →
        x.started = true ∧ x.halted = false ∧ x.stopped = false ∧ x.image = e.1.image ∧ x.codeCount = e.2 ∧
        x.clusters = BitVec.ofNat 16 e.1.clusters ∧ x.pbs = pbs ∧ x.main = { Prog.init with pc := e.1.entry, a := x.main.a } ∧
        (∀ i, aReg x.main i = if 12 ≤ i ∧ i < 16 then BitVec.ofNat 48 (d.a12.getD (i - 12) 0) else 0#48) ∧
        x.taskRunning = false ∧ x.bench = [] ∧ x.stream = none ∧ t.fld (Page.rg e.1.region) F.RG_STATUS_held = 0 ∧
        t.fld (Page.rg e.1.region) F.RG_DEADLINE_deadline_us = d.deadline) ∧
  (∀ (court : BitVec 4) (id : BitVec 16) (s : State) (g : Stage) (v : Nat),
    (s.stages.find? fun u => u.court == court.toNat && u.id == id.toNat) = some g → stageFinished s g = true → v = heldStep s g.court →
    ∃ t, exec (.stageDone court id) s = .next (notice t (some g.court) 1 [g.id, v % 2 ^ 32, v / 2 ^ 32]) ∧
      t = { s with regions := t.regions, stages := t.stages, pbufs := t.pbufs } ∧ t.stages = s.stages.filter (fun u => u != g) ∧
      ∀ r, t.region r = if r ∈ g.regions then { s.region r with started := false } else s.region r)

/-- STEP, STEP_REDO and REGION_RESUME (R243, R350, R359): a higher step is held and a lower one is stale; a redo sets the held step and every
region's step register one below it; a resume clears held and stopped, and restarts where it names an address. Choices of the model this rests
on: notes/assumptions/61.md. -/
def Obligations.StepsAndResume : Prop :=
  (∀ (c : HostHdr) (step : BitVec 48) (s : State) (n v : Nat), n = c.court.toNat → v = step.toNat → accept s c 0x27 true = .go →
    (heldStep s n < v → ∃ t, exec (.step c step) s = .next (complete t (cmdOf c 0x27) 0 0 0 []) ∧ heldStep t n = v ∧
      t = { s with sessions := t.sessions, regs := t.regs } ∧ RegsIn [Page.court n] s t) ∧
    (v ≤ heldStep s n → ∃ t, exec (.step c step) s = .next (complete t (cmdOf c 0x27) 0x0A 0 0 []) ∧ heldStep t n = heldStep s n ∧
      errSet t (Page.court n) Err.court_step_stale = true ∧ t.regions = s.regions ∧ t.mem = s.mem) ∧
    (committedStep s n < v → v ≤ heldStep s n → (∀ r ∈ s.regionsOf n, stillIssues s r = false) →
      ∃ t, exec (.stepRedo c step) s = .next (complete t (cmdOf c 0x27) 0 0 0 []) ∧ heldStep t n = v ∧
        t = { s with sessions := t.sessions, regs := t.regs, regions := t.regions } ∧ RegsIn [Page.court n] s t ∧
        ∀ r, t.region r = if r ∈ s.regionsOf n then
          { s.region r with main := { (s.region r).main with step := BitVec.ofNat 48 (v - 1) } } else s.region r)) ∧
  (∀ (c : HostHdr) (region : BitVec 5) (at_ : Bool) (addr : BitVec 32) (s : State) (r : Nat) (x : Region), r = region.toNat → x = s.region r →
    accept s c 0x2C true = .go → s.courtOf r = some c.court.toNat → isHeld s r = true ∨ x.stopped = true →
    (at_ = true → addr.toNat < x.codeCount) →
    ∃ t, exec (.regionResume c region at_ addr) s = .next (complete t (cmdOf c 0x2C) 0 0 0 []) ∧
      t = { s with sessions := t.sessions, regs := t.regs, regions := t.regions } ∧ RegsIn [Page.rg r] s t ∧
      (∀ q, q ≠ r → t.region q = s.region q) ∧ isHeld t r = false ∧ (t.region r).stopped = false ∧
      (at_ = false → (t.region r).main = x.main ∧ (t.region r).task = x.task ∧ (t.region r).waits.length = x.waits.length) ∧
      (at_ = true → progOf (t.region r) ((x.heldAt.map (·.1)).getD false) =
        { progOf x ((x.heldAt.map (·.1)).getD false) with pc := addr.toNat }))

/-- QUIESCE, QUIESCE_DONE, RESUME, ABORT_COURT and ABORT_COMMAND (R352, R355, R356, Table 14.5): a quiesce stops the court's pages and completes once
they are quiesced, a resume starts them again; an abort of an active court clears its regions, stages and commands and one of an idle court
changes only the record; an abort of a pending quiesce takes it back. Choices of the model this rests on: notes/assumptions/22.md,
notes/assumptions/66.md. -/
def Obligations.QuiesceAndAbort : Prop :=
  (∀ (c : HostHdr) (s : State) (n : Nat), n = c.court.toNat → accept s c 0x28 true = .go →
    (∃ t, exec (.quiesce c) s = .next t ∧ t.cmds = s.cmds ++ [cmdOf c 0x28] ∧ t.mem = s.mem ∧ t.stages = s.stages ∧
      ∀ r ∈ s.regionsOf n, (t.region r).main.waiting = false ∧
        ∀ p ∈ regionPages r ++ [Page.re r], quiesceSet t p = true) ∧
    ∃ t, exec (.resume c) s = .next (complete t (cmdOf c 0x28) 0 0 0 []) ∧ t = { s with sessions := t.sessions, regs := t.regs } ∧
      ∀ r ∈ s.regionsOf n, ∀ p ∈ regionPages r ++ [Page.re r], quiesceSet t p = false) ∧
  (∀ (court : BitVec 4) (s : State) (mine : List HostCmd), courtQuiesced s court.toNat = true →
    mine = s.cmds.filter (fun k => k.court == court.toNat && k.typ == 0x28) → mine ≠ [] →
    ∃ t, exec (.quiesceDone court) s = .next t ∧ t.regions = s.regions ∧ t.mem = s.mem ∧
      t.cmds = s.cmds.filter (fun k => !(k.court == court.toNat && k.typ == 0x28)) ∧
      ((∀ k ∈ mine, k.quiet = false ∧ (s.session k.session).isOpen = true) →
        t.outbox = s.outbox ++ mine.map fun k => ⟨.session k.session, 0x21, [k.typ * 65536 + k.tag, 0], []⟩)) ∧
  (∀ (c : HostHdr) (s : State) (n last : Nat), n = c.court.toNat → accept s c 0x2B true = .go → last = committedStep s n →
    (courtActive s n = true → ∃ t, exec (.abortCourt c) s = .next (complete t (cmdOf c 0x2B) 0 0 1 (stepWords last)) ∧
      courtStages t n = [] ∧ (∀ k ∈ t.cmds, k.court ≠ n) ∧ t.fld (Page.court n) F.COURT_LAST_ABORT_winner = 1 ∧
      t.fld (Page.court n) F.COURT_LAST_ABORT_cause = 1 ∧ t.regionsOf n = s.regionsOf n ∧
      (∀ b ∈ t.pbufs, b.desc.consRegion ∉ s.regionsOf n ∧ b.desc.prodRegion ∉ s.regionsOf n) ∧
      ∀ r ∈ s.regionsOf n, t.region r = .init ∧ rootQueue t r = [] ∧ ∀ p, p < 17 →
        t.cluster (clusterOf r p) = { Cluster.init with units := (t.cluster (clusterOf r p)).units }) ∧
    (courtActive s n = false → ∃ t, exec (.abortCourt c) s = .next (complete t (cmdOf c 0x2B) 0 0 2 (stepWords last)) ∧
      t = { s with sessions := t.sessions, regs := t.regs } ∧ t.fld (Page.court n) F.COURT_LAST_ABORT_winner = 2 ∧
      ∀ o, o ≠ Page.court n + F.COURT_LAST_ABORT_winner.off → t.reg o = s.reg o)) ∧
  (∀ (c : HostHdr) (tag : BitVec 16) (s : State) (mine : List HostCmd), accept s c 0x2B false = .go →
    mine = s.cmds.filter (fun k => k.session == c.session.toNat && k.tag == tag.toNat) →
    (mine = [] → ∃ t, exec (.abortCommand c tag) s = .next (complete t (cmdOf c 0x2B) 0 0 3 []) ∧ t = { s with sessions := t.sessions }) ∧
    (mine ≠ [] → ∃ t, exec (.abortCommand c tag) s = .next (complete t (cmdOf c 0x2B) 0 0 1 []) ∧ t.regions = s.regions ∧
      t.cmds = s.cmds.filter (fun k => !(k.session == c.session.toNat && k.tag == tag.toNat)) ∧
      ∀ k ∈ mine, ∀ r ∈ s.regionsOf k.court, quiesceSet t (Page.rg r) = false))

/-- SAVE and RESTORE (R353, R354, Tables 5.2, 6.2, 14.4): a save writes every tile of the image of each region of its mask and nothing else, and
closes the taps; a restore puts the rows, marks, counts, vector registers, masks and generators of each logical cluster and the main program's
registers back, and leaves the region quiesced, in its stage where it had one. Choices of the model this rests on: notes/assumptions/68.md,
notes/assumptions/69.md, notes/assumptions/70.md, notes/assumptions/71.md. -/
def Obligations.SaveAndRestore : Prop :=
  (∀ (c : HostHdr) (mask : W32) (base : Addr48) (s : State) (rs : List Nat) (a n : Nat), rs = maskBits 32 mask.toNat → a = base.toNat →
    n = c.court.toNat → accept s c 0x29 true = .go → tilesWait s (saveSpan a rs.length) = false → rs ≠ [] → a % tileBytes = 0 →
    (∀ r ∈ rs, s.courtOf r = some n ∧ regionQuiesced s r = true ∧ pbHolds s r = false ∧ rootQueue s r = []) →
    (∀ k, servesCourt s k n = true → (caddie s k).window = none) → (∀ i ∈ saveSpan a rs.length, admits s (hostWho s c) i = none) →
    ∃ t, exec (.save c mask base) s = .next (complete t (cmdOf c 0x29) 0 0 0 []) ∧
      SameOutside s t a (rs.length * imageTiles * tileBytes) ∧ (∀ r ∈ rs, (t.region r).taps = []) ∧
      ∀ k r i, rs[k]? = some r → i < imageTiles → (imageTile s n r i).length = tileBytes →
        ∀ d, d = a + (k * imageTiles + i) * tileBytes → bytesAt t d tileBytes = imageTile s n r i ∧
          (trailerAt t d).format.toNat = imageFormat i ∧ (trailerAt t d).poison = false ∧ (trailerAt t d).state = .written) ∧
  (∀ (c : HostHdr) (region : BitVec 5) (addr : Addr48) (s : State) (r a n desc : Nat) (img : Nat → List Byte) (j : Option Rejoin),
    r = region.toNat → a = addr.toNat → n = c.court.toNat → accept s c 0x2A true = .go → s.courtOf r = some n →
    (s.region r).started = false → (regionIdle s r = true ∨ regionQuiesced s r = true) → a % tileBytes = 0 →
    ((List.range 16).filterMap (s.physOf r)).Nodup → Memory.wf s.mem = true →
    Readable s (.device 1 2) a (imageTiles * tileBytes) → (∀ i, img i = bytesAt s (a + i * tileBytes) tileBytes) → badMarks s a = [] →
    wordAt (img 0) 0 / 256 = 0x5E6A01 → bits (wordAt (img 0) 1) 15 12 = n →
    desc = wordAt (img 0) 6 + wordAt (img 0) 7 % 2 ^ 16 * 2 ^ 32 →
    (match (rejoinRead s ⟨some n, 1, 3⟩ n (bits (wordAt (img 0) 1) 31 24 * 8 + bits (wordAt (img 0) 1) 23 16) r desc).2 with
      | .ok k => k = j
      | .error _ => False) →
    (∀ k, j = some k → (reserveBufs s k.pbs).isSome = true) → bits (wordAt (img 0) 9) 7 0 = 0 →
    ∃ t, exec (.restore c region addr) s = .next (complete t (cmdOf c 0x2A) 0 0 0 []) ∧ t.mem = s.mem ∧
      (∀ p ∈ regionPages r, quiesceSet t p = true) ∧ (t.region r).main.pc = wordAt (img 0) 3 ∧
      (t.region r).main.step.toNat = wordAt (img 0) 4 + wordAt (img 0) 5 % 2 ^ 16 * 2 ^ 32 ∧
      (∀ i, i < 16 → (aReg (t.region r).main i).toNat = leAt (img 1) (8 * i) 6) ∧
      (∀ i, i < 4 → (lReg (t.region r).main i).toNat = leAt (img 1) (128 + 4 * i) 4) ∧
      ((t.region r).started = j.isSome) ∧ (∀ k, j = some k → (t.region r).stageDesc = k.desc ∧ (t.region r).pbs = k.pbs) ∧
      ∀ l p, l < 16 → s.physOf r l = some p → ∀ y at_, y = t.cluster (clusterOf r p) → at_ = (fun k => img (6 + clusterTiles * l + k)) →
        (∀ u tile row, u < 4 → tile < 32 → row < 64 → accRow y u tile row =
          ⟨BitVec.ofNat 7 (leAt (at_ (unitTiles * u + 160)) (192 + 64 * tile + row) 1),
            rowOf (((((List.range 5).flatMap fun k => at_ (unitTiles * u + (5 * tile + k))).drop (320 * row)).take 320))⟩) ∧
        (∀ u i, u < 4 → i < 2048 → KMap.get (unitOf y u).counts 0 i = leAt (at_ (unitTiles * u + 161)) (2 * i) 2) ∧
        (∀ q, q < 32 → vReg y q = (List.range 128).map fun i => BitVec.ofNat 32 (wordAt (at_ (648 + q / 8)) (q % 8 * 128 + i))) ∧
        (∀ m, 0 < m → m < 8 → maskReg y m = BitVec.ofNat 128 (leAt (at_ 652) (64 + 16 * m) 16)) ∧
        ∀ i, i < 128 → genOf y i = (List.range 4).map fun k => BitVec.ofNat 32 (wordAt (at_ 652) (512 + 4 * i + k)))

/-! ## Register accesses -/

/-- REGISTER_WRITE, REGISTER_REQUEST and the single-field writes (R44, R47, R48, R51, R52, R54 to R57, R419, R484): a permitted write gives each
field of its register what its access code says; a refused one gives its status and leaves the register; a burst of permitted reads returns the
values in order. Choices of the model this rests on: notes/assumptions/14.md, notes/assumptions/15.md, notes/assumptions/18.md,
notes/assumptions/20.md. -/
def Obligations.RegisterAccesses : Prop :=
  (∀ (h : RegHdr) (off : BitVec 24) (v : W32) (s : State) (b : Block) (fs : List Fld) (o : Nat), o = off.toNat → Accepted s h o →
    PlainAt s o b fs → lockHit fs (pageLocked s (o / 0x1000 * 0x1000)) (s.reg o).toNat v.toNat = false →
    ∃ t, exec (.registerWrite h off v) s = .next (regReply t h RegStatus.ok o []) ∧
      (b ≠ .sns → ∀ f ∈ fs, bits (t.reg o).toNat f.hi f.lo =
        fieldAfter f (pageLocked s (o / 0x1000 * 0x1000)) (s.reg o).toNat v.toNat) ∧
      (∀ f ∈ fs, f.acc = .rw → bits (t.reg o).toNat f.hi f.lo = bits v.toNat f.hi f.lo) ∧
      t = { s with regs := t.regs, power := t.power } ∧ RegsIn [o / 0x1000 * 0x1000] s t ∧
      ((∃ d, h.path = .host d none) → spAdmits s h.path = true →
        exec (.registerRequest h ⟨true, off, 0#4, [v]⟩) s = exec (.registerWrite h off v) s)) ∧
  (∀ (h : RegHdr) (off : BitVec 24) (v : W32) (s : State) (o st e : Nat), o = off.toNat → pathUp s h.path = true →
    spAdmits s h.path = true → writeCheck s h.path o = some (st, e) → resets o v.toNat = false → o ≠ Page.se + 0x40 →
    ∃ t, exec (.registerWrite h off v) s = .next (regReply t h st o []) ∧ (64 ≤ o % 0x1000 → t.reg o = s.reg o ∨ pageAt o = some (.sc, 0) ∨ pageAt o = some (.sb, 0)) ∧
      t.mem = s.mem ∧ t.regions = s.regions ∧ t.clusters = s.clusters ∧
      (st = RegStatus.denied → errSet t (o / 0x1000 * 0x1000) Err.accessDenied = true) ∧
      (st = RegStatus.court → errSet t (o / 0x1000 * 0x1000) Err.courtViolation = true)) ∧
  (∀ (h : RegHdr) (off : BitVec 24) (burst : BitVec 4) (s : State) (o n : Nat), o = off.toNat → n = burst.toNat + 1 → pathUp s h.path = true →
    spAdmits s h.path = true → o % 4 = 0 → o % 0x1000 + 4 * n ≤ 0x1000 → mapped s o = true →
    (∀ i, i < n → readRefusal s h.path (o + 4 * i) = none ∧ (readReg s (o + 4 * i)).1 = s) →
    exec (.registerRequest h ⟨false, off, burst, []⟩) s =
      .next (regReply s h RegStatus.ok 0 ((List.range n).map fun i => (readReg s (o + 4 * i)).2))) ∧
  (∀ (h : RegHdr) (page : BitVec 12) (v : Bool) (s : State) (p : Nat), p = pageOf page → Accepted s h (p + 0x10) → s.pageRetired p = false →
    (∃ t, exec (.pageQuiesceWrite h page v) s = .next (regReply t h RegStatus.ok (p + 0x10) []) ∧
      t = { s with regs := t.regs, regions := t.regions } ∧ RegsIn (ctlPages p) s t ∧ ∀ q ∈ ctlPages p, quiesceSet t q = v) ∧
    ∃ t, exec (.pageEnableWrite h page v) s = .next (regReply t h RegStatus.ok (p + 0x10) []) ∧
      t = { s with regs := t.regs, regions := t.regions } ∧ RegsIn (ctlPages p) s t ∧ ∀ q ∈ ctlPages p, bit (t.reg (q + 0x10)).toNat 0 = v) ∧
  (∀ (h : RegHdr) (page : BitVec 12) (s : State) (p : Nat), p = pageOf page → Accepted s h (p + 0x24) →
    ∃ t, exec (.pageLockSet h page) s = .next (regReply t h RegStatus.ok (p + 0x24) []) ∧ t = { s with regs := t.regs } ∧
      pageLocked t p = true ∧ (pageLocked s p = true → t.reg (p + 0x24) = s.reg (p + 0x24)) ∧ ∀ o, o ≠ p + 0x24 → t.reg o = s.reg o) ∧
  (∀ (h : RegHdr) (page : BitVec 24) (k : BitVec 3) (v : W32) (s : State) (p sel cnt : Nat) (b : Block) (i : Nat), p = page.toNat / 0x1000 * 0x1000 →
    sel = p + 0x100 + 4 * k.toNat → cnt = p + 0x140 + 8 * k.toNat → Accepted s h sel → pageAt p = some (b, i) → b.hasCounters = true →
    ∃ t, exec (.pcntSelWrite h page k v) s = .next (regReply t h RegStatus.ok sel []) ∧ t = { s with regs := t.regs } ∧
      (t.reg sel).toNat = v.toNat - bits v.toNat 16 16 * 2 ^ 16 ∧
      t.reg64 cnt = (if t.reg sel = s.reg sel then s.reg64 cnt else 0) ∧
      ∀ o, o ≠ sel → o ≠ cnt → o ≠ cnt + 4 → t.reg o = s.reg o) ∧
  ∀ (h : RegHdr) (s : State), Accepted s h (Page.sb + 0x48) →
    ∃ t, exec (.sbAlertClear h) s = .next (regReply t h RegStatus.ok (Page.sb + 0x48) []) ∧ t = { s with regs := t.regs } ∧
      smbAlertAsserted t = false ∧ t.fld Page.sb F.SB_ALERT_code = s.fld Page.sb F.SB_ALERT_code ∧
      ∀ o, o ≠ Page.sb + 0x48 → t.reg o = s.reg o

/-- SIDEBAND_WRITE, SIDEBAND_READ, DBGREG, the TAP instructions and TRST_N (R482 to R486): a well-formed transaction with its PEC writes or returns
the registers and is counted; DBGREG reads while tap_regs is 1; an instruction that disturbs pins runs as BYPASS while PWRGOOD stands; TRST_N
resets the TAP. Choices of the model this rests on: notes/assumptions/28.md, notes/assumptions/29.md, notes/assumptions/63.md,
notes/assumptions/130.md. -/
def Obligations.SidebandAndTestAccess : Prop :=
  (∀ (off : BitVec 24) (pec : Option Bool) (s : State) (o : Nat), o = off.toNat → pathUp s .sideband = true →
    pec.getD (s.fld Page.sb F.SB_CTL_pec_required == 0) = true → o % 4 = 0 → mapped s o = true →
    (∀ (n : BitVec 5), 0 < n.toNat → n.toNat ≤ 16 → o % 0x1000 + 4 * n.toNat ≤ 0x1000 →
      (∀ i, i < n.toNat → readRefusal s .sideband (o + 4 * i) = none ∧ (readReg s (o + 4 * i)).1 = s) →
      ∃ t, exec (.sidebandRead off n true pec) s = .next t ∧ OnlyPages [Page.sb] s t ∧
        t.outbox = s.outbox ++ [⟨.sideband, 0x101, (List.range n.toNat).map fun i => (readReg s (o + 4 * i)).2, []⟩] ∧
        t.fld Page.sb F.SB_COUNT_transactions = (s.fld Page.sb F.SB_COUNT_transactions + 1) % 2 ^ 32) ∧
    (∀ (v : W32) (fs : List Fld), PlainAt s o .sb fs → o ≠ Page.sb + 0x4C → o ≠ Page.sb + F.SB_COUNT_transactions.off →
      writeCheck s .sideband o = none → lockHit fs (pageLocked s Page.sb) (s.reg o).toNat v.toNat = false →
      ∃ t, exec (.sidebandWrite off [v] true pec) s = .next t ∧ OnlyPages [Page.sb] s t ∧ t.outbox = s.outbox ∧
        (∀ f ∈ fs, bits (t.reg o).toNat f.hi f.lo = fieldAfter f (pageLocked s Page.sb) (s.reg o).toNat v.toNat) ∧
        t.fld Page.sb F.SB_COUNT_transactions = (s.fld Page.sb F.SB_COUNT_transactions + 1) % 2 ^ 32)) ∧
  (∀ (tag : BitVec 16) (off : BitVec 24) (burst : BitVec 4) (s : State) (o n : Nat), o = off.toNat → n = burst.toNat + 1 → tapUp s = true →
    (s.fld Page.dbg F.DBG_CTL_tap_regs = 1 → o % 4 = 0 → o % 0x1000 + 4 * n ≤ 0x1000 →
      ∃ t, t.board = { s.board with tap := .dbgreg } ∧ OnlyPages [Page.dbg] { s with board := t.board } t ∧
        (mapped t o = true → (∀ i, i < n → readRefusal t .tap (o + 4 * i) = none ∧ (readReg t (o + 4 * i)).1 = t) →
          exec (.dbgreg tag ⟨false, off, burst, []⟩) s =
            .next (regReply t ⟨.tap, tag, 0#64⟩ RegStatus.ok 0 ((List.range n).map fun i => (readReg t (o + 4 * i)).2)))) ∧
    (s.fld Page.dbg F.DBG_CTL_tap_regs = 0 → ∃ t, exec (.dbgreg tag ⟨false, off, burst, []⟩) s = .next t ∧
      t.board = { s.board with tap := .bypass } ∧ errSet t Page.dbg Err.dbg_tap_refused = true)) ∧
  (∀ s : State, tapUp s = true →
    (∀ c i, (c, i) ∈ [(Instr.bypass, TapInstr.bypass), (.samplePreload, .sample)] → ∃ t, exec c s = .next t ∧
      t.board = { s.board with tap := i } ∧ t.fld Page.dbg F.DBG_STAT_tap_active = 1 ∧ OnlyPages [Page.dbg] { s with board := t.board } t ∧
      t.outbox = s.outbox) ∧
    (∃ t, exec .idcode s = .next t ∧ t.board = { s.board with tap := .idcode } ∧ t.fld Page.dbg F.DBG_STAT_tap_active = 1 ∧
      OnlyPages [Page.dbg] { s with board := t.board } t ∧ t.outbox = s.outbox ++ [⟨.tap, 0x100, [0x15A32593], []⟩]) ∧
    ∀ c i, (c, i) ∈ [(Instr.extest, TapInstr.extest), (.extestPulse, .extestPulse), (.extestTrain, .extestTrain), (.clamp, .clamp),
        (.highz, .highz)] → ∃ t, exec c s = .next t ∧
      (s.board.pwrgood = false → t.board = { s.board with tap := i } ∧ t.fld Page.dbg F.DBG_STAT_tap_active = 1 ∧
        OnlyPages [Page.dbg] { s with board := t.board } t) ∧
      (s.board.pwrgood = true → t.board = { s.board with tap := .bypass } ∧ errSet t Page.dbg Err.dbg_tap_refused = true)) ∧
  ∀ (asserted : Bool) (s : State), s.board.aux = true → s.fld Page.dbg F.DBG_STAT_trst ≠ asserted.toNat →
    ∃ t, exec (.trstNChange asserted) s = .next t ∧ t.fld Page.dbg F.DBG_STAT_trst = asserted.toNat ∧
      OnlyPages [Page.dbg] { s with board := t.board } t ∧
      (asserted = true → t.board = { s.board with tap := .idcode } ∧ t.fld Page.dbg F.DBG_STAT_tap_active = 0) ∧
      (asserted = false → t.board = s.board)

/-! ## Stacks and tiles -/

/-- STK_RANGE_SELECT, STK_RANGE_APPLY, STK_RETIRE_CMD, CHANNEL_RETIRE and PKG_RETURN (R263, R265, R266, R268, R270): the table is read and written
through staging, an entry that runs out of its tier or overlaps another is refused; a retired channel's index goes to the channel that stands by
and its tiles are lost, without one the stack retires; what is to return is marked in the repair map. Choices of the model this rests on:
notes/assumptions/97.md, notes/assumptions/99.md, notes/assumptions/101.md. -/
def Obligations.StackRangesAndRetirement : Prop :=
  (∀ (h : RegHdr) (st : BitVec 5) (s : State) (n p : Nat), n = st.toNat → p = Page.stk n →
    (∀ (v : W32) (r : Range), Accepted s h (p + 0x50) → r = KMap.get (s.stack n).ranges .none (v.toNat % 64) → r.base < 2 ^ 24 →
      r.tiles < 2 ^ 25 → ∃ t, exec (.stkRangeSelect h st v) s = .next (regReply t h RegStatus.ok (p + 0x50) []) ∧
        t = { s with regs := t.regs } ∧ stagedRange t n = r ∧ t.fld p F.STK_RANGE_SEL_entry = v.toNat % 64 ∧
        ∀ o, o ∉ [p + 0x50, p + 0x54, p + 0x58, p + 0x5C] → t.reg o = s.reg o) ∧
    (∀ (r : Range) (e : Nat), Accepted s h (p + 0x60) → r = stagedRange s n → e = s.fld p F.STK_RANGE_SEL_entry →
      ((r.valid = true → r.base + r.tiles ≤ tierTiles r.deep ∧ ∀ x ∈ (s.stack n).ranges, x.1 ≠ e → overlaps r x.2 = false) →
        ∃ t, exec (.stkRangeApply h st) s = .next (regReply t h RegStatus.ok (p + 0x60) []) ∧ t = { s with stackMap := t.stackMap } ∧
          t.stack n = { s.stack n with ranges := (t.stack n).ranges } ∧ (∀ k, k ≠ n → t.stack k = s.stack k) ∧
          ∀ k, KMap.get (t.stack n).ranges .none k = if k = e then r else KMap.get (s.stack n).ranges .none k) ∧
      (r.valid = true → (tierTiles r.deep < r.base + r.tiles ∨ ∃ x ∈ (s.stack n).ranges, x.1 ≠ e ∧ overlaps r x.2 = true) →
        ∃ t, exec (.stkRangeApply h st) s = .next (regReply t h RegStatus.denied (p + 0x60) []) ∧ Recorded s t ∧
          errSet t p Err.stk_range_table = true)) ∧
    ∀ (deep : Bool) (c : BitVec 5) (ch : Nat), namedChannel s n deep c.toNat = some ch → (caddie s n).window = none →
      (caddie s n).pages = [] → s.pageRetired p = false → ∃ t,
        exec (.channelRetire st deep c) s = .next t ∧ (Accepted s h (p + 0x84) →
          exec (.stkRetireCmd h st deep c) s = .next (regReply t h RegStatus.ok (p + 0x84) [])) ∧
        (∀ k i, standby s n deep = some k → k ≠ ch → i ∈ tierIndices deep → serving s n i = ch →
          (∀ j ∈ tierIndices deep, serving s n j = ch → j = i) →
          channelGone t n ch = true ∧ serving t n i = k ∧ (∀ j, j ≠ i → serving t n j = serving s n j) ∧
            KMap.get (t.stack n).strikes 0 ch = 0 ∧ errSet t p Err.stk_channel_retired = true ∧ t.pageRetired p = false ∧
            TilesLost s t fun a => stackOf a == n && deepOf a == deep && channelOf a == i) ∧
        (standby s n deep = none → t.pageRetired p = true ∧ t.pageRetired (Page.caddie n) = true ∧
          errSet t p Err.stk_stack_retired = true ∧ TilesLost s t fun a => stackOf a == n)) ∧
  ∀ (h : RegHdr) (kind : BitVec 2) (st c : BitVec 5) (s : State) (n k : Nat), n = st.toNat → k = stackRec n → Accepted s h (Page.pkg + 0x74) →
    ∀ word b, ((kind.toNat = 2 ∧ s.pageRetired (Page.stk n) = true ∧ word = k + 3 ∧ b = 29) ∨
      (kind.toNat = 0 ∧ s.pageRetired (Page.stk n) = false ∧ c.toNat ≤ 16 ∧ bit (retiredMask s n false) c.toNat = true ∧
        word = k + 6 ∧ b = c.toNat) ∨
      (kind.toNat = 1 ∧ s.pageRetired (Page.stk n) = false ∧ (c.toNat < 8 ∨ c.toNat = 16) ∧ b = (if c.toNat = 16 then 8 else c.toNat) ∧
        bit (retiredMask s n true) b = true ∧ word = k + 7)) →
      ∃ t, exec (.pkgReturn h kind st c) s = .next (regReply t h RegStatus.ok (Page.pkg + 0x74) []) ∧ t = { s with flash := t.flash } ∧
        t.flash = { s.flash with repair := t.flash.repair } ∧ bit (repairWord t word) b = true ∧
        ∀ j, j ≠ word → j ≠ 1 → repairWord t j = repairWord s j

/-- TILE_RETRY, SCRUB_TILE and STRIKE_WINDOW_EXPIRY (R258, R264, R265): a failed check is recorded with the tile's address; a bad tile is poisoned
and strikes its channel; a bad path leaves the tile; the scrubber goes on through the stack and starts again at its end; a strike leaves the
window. Choices of the model this rests on: notes/assumptions/99.md, notes/assumptions/100.md. -/
def Obligations.TileChecksAndStrikes : Prop :=
  (∀ (a : Addr48) (court : Option (BitVec 4)) (reader master : BitVec 3) (outcome : BitVec 2) (s : State) (w : Who) (d n p ch : Nat),
    w = ⟨court.map BitVec.toNat, reader.toNat, master.toNat⟩ → d = a.toNat / tileBytes * tileBytes → n = stackOf d → p = Page.stk n →
    ch = servingChannel s d → admits s w d = none → (trailerAt s d).state = .written → ch < 26 →
    (outcome = 1#2 → StrikeHolds s n ch) →
    ∃ t, exec (.tileRetry a court reader master outcome) s = .next t ∧ errSet t p Err.stk_check_retry = true ∧
      t.fld48 p F.STK_LAST_FAIL_LO_addr_lo F.STK_LAST_FAIL_HI_addr_hi = d ∧ t.regions = s.regions ∧ t.clusters = s.clusters ∧
      (outcome = 0#2 → Recorded s t ∧ t.fld p F.STK_LAST_FAIL_INFO_kind = 1) ∧
      (outcome = 1#2 → OnlyPoisoned s t d ∧ Struck s t n ch ∧ t.fld p F.STK_LAST_FAIL_INFO_kind = 2) ∧
      (2 ≤ outcome.toNat → t.mem = s.mem ∧ t.trailers = s.trailers ∧ errSet t p Err.stk_path_fault = true ∧
        KMap.get t.pathBad false (d / tileBytes) = true ∧ t.fld p F.STK_LAST_FAIL_INFO_kind = 3)) ∧
  (∀ (st : BitVec 5) (bad changed : Bool) (s : State) (n p k a ch total : Nat), n = st.toNat → p = Page.stk n → k = (s.stack n).scrubNext →
    a = scrubAddr n k → ch = servingChannel s a → total = tierTiles false + tierTiles true → s.fld p F.STK_SCRUB_CTL_enable ≠ 0 →
    s.pageRetired p = false → ((bad && !changed) = true → StrikeHolds s n ch) →
    ∃ t, exec (.scrubTile st bad changed) s = .next t ∧ t.mem = s.mem ∧
      (k + 1 ≠ total → (t.stack n).scrubNext = k + 1 ∧ t.fld p F.STK_STATUS_scrub_active = 1) ∧
      (k + 1 = total → (t.stack n).scrubNext = 0 ∧ (t.stack n).probation = [] ∧
        t.fld p F.STK_SCRUB_STAT_passes = (s.fld p F.STK_SCRUB_STAT_passes + 1) % 2 ^ 32) ∧
      (((bad && !changed) = false ∨ (trailerAt s a).state ≠ .written ∨ (trailerAt s a).poison = true) →
        t = { s with regs := t.regs, stackMap := t.stackMap } ∧ (t.stack n).strikes = (s.stack n).strikes) ∧
      ((bad && !changed) = true → (trailerAt s a).state = .written → (trailerAt s a).poison = false →
        OnlyPoisoned s t a ∧ Struck s t n ch ∧ errSet t p Err.stk_scrub_poison = true)) ∧
  ∀ (st c : BitVec 5) (s : State) (n ch : Nat), n = st.toNat → ch = c.toNat → KMap.get (s.stack n).strikes 0 ch ≠ 0 →
    ∃ t, exec (.strikeWindowExpiry st c) s = .next t ∧ t = { s with regs := t.regs, stackMap := t.stackMap } ∧
      RegsIn [Page.stk n] s t ∧ KMap.get (t.stack n).strikes 0 ch + 1 = KMap.get (s.stack n).strikes 0 ch ∧
      (∀ k, k ≠ ch → KMap.get (t.stack n).strikes 0 k = KMap.get (s.stack n).strikes 0 k) ∧ ∀ k, k ≠ n → t.stack k = s.stack k

/-! ## Caddies -/

/-- GRADIENT_PART and STAGED_PART_APPLY (R278, R281, R285 to R287): a part that may be applied updates every element of its blocks from the current
slot and copy into the pending ones; one that must wait is staged in arrival order, and a stray changes no page. CADDIE_PT_COUNT_WRITE and
PARITY_REBUILD (R275, R301, R304, R400): the table's valid entries become the pages; in an open window the write is refused; a replacement starts
its parity at zero and asks every other member for its chunks. Choices of the model this rests on: notes/assumptions/75.md,
notes/assumptions/76.md, notes/assumptions/77.md, notes/assumptions/81.md, notes/assumptions/84.md. -/
def Obligations.GradientPartsAndPages : Prop :=
  ((∀ (gp : GradPart) (s : State) (n : Nat) (p : CPart), fabricUp s = true → gp.poison = false → n = partTarget s gp.stack.toNat →
    p = partAt s gp.stack.toNat ⟨gp.page.toNat, gp.part.toNat, gp.step.toNat, gp.court.toNat, false, false, gp.data⟩ →
    (∀ g c, partFate s n p = .apply → PartApplies s n p g c →
      ∃ t, exec (.gradientPart gp) s = .next t ∧ PartApplied s t n p g c ∧ (caddie t n).staged = (caddie s n).staged ∧
        ∀ m, m ≠ n → caddie t m = caddie s m) ∧
    (partFate s n p = .stage → ∃ t, exec (.gradientPart gp) s = .next t ∧ t = { s with regs := t.regs, caddies := t.caddies } ∧
      caddie t n = { caddie s n with staged := (caddie s n).staged ++ [p] } ∧ ∀ m, m ≠ n → caddie t m = caddie s m) ∧
    (partFate s n p = .stray → n < 32 → ∃ t, exec (.gradientPart gp) s = .next t ∧ Recorded s t ∧
      errSet t (Page.caddie n) Err.caddie_gradient_stray = true)) ∧
  ∀ (st : BitVec 5) (s : State) (n : Nat) (p : CPart) (g : CPage) (c : Nat), n = st.toNat → stagedReady s n = some p → PartApplies s n p g c →
    ∃ t, exec (.stagedPartApply st) s = .next t ∧ PartApplied s t n p g c ∧
      (caddie t n).staged = (caddie s n).staged.filter (fun q => q != p) ∧ ∀ m, m ≠ n → caddie t m = caddie s m) ∧
  ((∀ (h : RegHdr) (st : BitVec 5) (v : W32) (s : State) (n o k base : Nat) (e : Nat → List Byte), n = st.toNat →
    o = Page.caddie n + 0x4C → Accepted s h o →
    ((caddie s n).window ≠ none → exec (.caddiePtCountWrite h st v) s = .next (regReply s h RegStatus.denied o [])) ∧
    ((caddie s n).window = none → base = s.fld48 (Page.caddie n) F.CADDIE_PT_BASE_LO_base F.CADDIE_PT_BASE_HI_base →
      k = min (v.toNat % 8192) 4096 → Memory.wf s.mem = true → Readable s whoCaddie base (64 * k) →
      (∀ x, e x = bytesAt s (base + 64 * x) 64) → (∀ x, x < k → pgValid (e x) = true → pgOk n (e x) = true) →
      ∃ t, exec (.caddiePtCountWrite h st v) s = .next (regReply t h RegStatus.ok o []) ∧
        (caddie t n).pages = ((List.range k).filter fun x => pgValid (e x)).map (fun x => (x, newPage (e x))) ∧
        t.fld (Page.caddie n) F.CADDIE_PT_COUNT_entries = v.toNat % 8192 ∧ t.mem = s.mem ∧ t.trailers = s.trailers ∧
        ∀ m, m ≠ n → caddie t m = caddie s m)) ∧
  ∀ (st : BitVec 5) (s : State) (n j : Nat) (others : List Nat), n = st.toNat → j = parJ s n → fabricUp s = true → parityOn s n = true →
    j < parN s n → ((caddie s n).pages.any fun e => pgOwned e.2.desc) = true → noCopies s n = true → (caddie s n).rebuilding = false →
    Memory.wf s.mem = true → parBase s n % tileBytes = 0 → Writable s whoCaddie (parCopy s n 0 + tileBytes) (parTiles s n * tileBytes) →
    others = (List.range (parN s n)).filter (· != j) →
    ∃ t, exec (.parityRebuild st) s = .next t ∧ caddie t n = { caddie s n with rebuilding := true, deltasFrom := [] } ∧
      (∀ m, m ≠ n → caddie t m = caddie s m) ∧
      bytesAt t (parCopy s n 0 + tileBytes) (parTiles s n * tileBytes) = List.replicate (parTiles s n * tileBytes) 0#8 ∧
      SameOutside s t (parCopy s n 0 + tileBytes) (parTiles s n * tileBytes) ∧
      t.fld (Page.caddie n) F.CADDIE_REBUILD_pending = streamLength s n % 2 ^ 32 ∧
      ((others.map (parId s n)).Nodup → ∀ p ∈ others, Given s t (parId s n p) (caddieFlow n)
        (0x52, [2 * 2 ^ 29 + n * 2 ^ 24 + j * 2 ^ 20 + 1, 0, committedOf s n % 2 ^ 32, committedOf s n / 2 ^ 32, 0, 0, 0, 0], [])))

/-- CADDIE_READY, READY_TIMEOUT, CADDIE_COMMIT and CADDIE_CMD's discard (R289 to R294, R302): ready is reported once every part is in; an expired
deadline reports the step as failed to the court's commit groups; the commit flips every page to its pending slot and copy and closes the window;
a discard frees the pending slots, and after commit(s) only shows. Choices of the model this rests on: notes/assumptions/75.md,
notes/assumptions/80.md, notes/assumptions/82.md. -/
def Obligations.CaddieWindowEnds : Prop :=
  ∀ (st : BitVec 5) (s : State) (n p : Nat), n = st.toNat → p = Page.caddie n →
    (canReady s n = true → ∃ t, exec (.caddieReady st) s = .next t ∧ t = { s with regs := t.regs, caddies := t.caddies } ∧
      caddie t n = { caddie s n with ready := true } ∧ caddieFld t n F.CADDIE_COMMIT_STAT_state = 3 ∧
      (∀ o, o ≠ p + F.CADDIE_COMMIT_STAT_state.off → t.reg o = s.reg o) ∧ ∀ m, m ≠ n → caddie t m = caddie s m) ∧
    (∀ step, (caddie s n).window = some step → caddieFld s n F.CADDIE_READY_DEADLINE_deadline_us ≠ 0 → (caddie s n).ready = false →
      (caddie s n).timedOut = false → caddieFld s n F.CADDIE_COMMIT_STAT_state ≠ 4 → (s.groups.map (·.1)).Nodup →
      (∀ e ∈ s.groups, ∀ k ∈ e.2.out, k.step ≠ some step) → ∃ t, exec (.readyTimeout st) s = .next t ∧
        caddie t n = { caddie s n with blocked := true, timedOut := true } ∧ errSet t p Err.caddie_ready_timeout = true ∧
        (∀ e ∈ s.groups, e.2.commit = true → e.2.court ∈ courtsOf s n → step ∈ (group t e.1).doomed) ∧
        t.mem = s.mem ∧ t.regions = s.regions) ∧
    (∀ step, (caddie s n).window = some step → caddieFld s n F.CADDIE_COMMIT_STAT_state = 4 → (caddie s n).parity = false →
      step < 2 ^ 48 → CommitTilesApart s n → ∃ t, exec (.caddieCommit st) s = .next t ∧ committedOf t n = step ∧
        (caddie t n).window = none ∧ caddieFld t n F.CADDIE_COMMIT_STAT_state = 0 ∧ (∀ e ∈ (caddie t n).pages, e.2.got = []) ∧
        (caddie t n).staged = (caddie s n).staged ∧
        ∀ e ∈ (caddie s n).pages, e.2.got ≠ [] →
          bytesAt t (pgNear e.2.desc) tileBytes =
            ringCommit (bytesAt s (pgNear e.2.desc) tileBytes) e.2.slot (pgD e.2.desc) step ∧
          (receivesHigh s n e.2.desc = false → ∀ c seq, newestCopy (copyHdrSeq (bytesAt s (copyBase e.2.desc 0) 64))
            (copyHdrSeq (bytesAt s (copyBase e.2.desc 1) 64)) = some (c, seq) →
            bytesAt t (copyBase e.2.desc (1 - c)) tileBytes = copyHeader step (seq + 1) e.2.held e.2.nonfinite)) ∧
    ∀ h : RegHdr, Accepted s h (caddieCmdOff n) →
      ((caddie s n).window = none → ∃ t, exec (.caddieCmdDiscard h st) s = .next (regReply t h RegStatus.ok (caddieCmdOff n) []) ∧
        t = { s with regs := t.regs, caddies := t.caddies } ∧ caddie t n = { caddie s n with staged := [], incoming := [] }) ∧
      ((caddie s n).window ≠ none → caddieFld s n F.CADDIE_COMMIT_STAT_state = 4 →
        ∃ t, exec (.caddieCmdDiscard h st) s = .next (regReply t h RegStatus.ok (caddieCmdOff n) []) ∧ t = { s with regs := t.regs } ∧
          caddieFld t n F.CADDIE_COMMIT_STAT_last_outcome = 3) ∧
      ((caddie s n).window ≠ none → caddieFld s n F.CADDIE_COMMIT_STAT_state ≠ 4 → CommitTilesApart s n →
        ∃ t, exec (.caddieCmdDiscard h st) s = .next (regReply t h RegStatus.ok (caddieCmdOff n) []) ∧
          (caddie t n).window = none ∧ (caddie t n).staged = [] ∧ caddieFld t n F.CADDIE_COMMIT_STAT_last_outcome = 2 ∧
          committedOf t n = committedOf s n ∧ errSet t p Err.caddie_caddie_discarded = true ∧
          ∀ e ∈ (caddie s n).pages, (e.2.got ≠ [] ∨ e.2.hyper ≠ []) →
            bytesAt t (pgNear e.2.desc) tileBytes = ringPut (bytesAt s (pgNear e.2.desc) tileBytes) e.2.slot 0 0)

/-- CADDIE_CMD's digest and authority, DIGEST_PASS and CADDIE_TRANSFER (R296 to R298, R300): a digest holds every page; its tree is over the
committed tiles; a differing tile takes the majority's value, and a split one what its authority names; a delta is XORed into the pending parity,
and an owner's high halves gather by page. Choices of the model this rests on: notes/assumptions/78.md, notes/assumptions/79.md,
notes/assumptions/83.md. -/
def Obligations.DigestsAndTransfers : Prop :=
  (∀ (h : RegHdr) (st : BitVec 5) (s : State) (n : Nat), n = st.toNat → Accepted s h (caddieCmdOff n) →
    (∃ t, exec (.caddieCmdDigest h st) s = .next (regReply t h RegStatus.ok (caddieCmdOff n) []) ∧
      t = { s with regs := t.regs, caddies := t.caddies } ∧ (caddie t n).pages = (caddie s n).pages.map (fun e => (e.1, { e.2 with digesting := true })) ∧
      caddieFld t n F.CADDIE_DIGEST_STAT_state = 1) ∧
    ∀ dev : BitVec 16, parityOn s n = false → Memory.wf s.mem = true → ((caddie s n).split.map (·.1)).Nodup →
      (∀ e ∈ (caddie s n).split, e.1 % tileBytes = 0 ∧ Readable s whoCaddie e.1 tileBytes ∧ ∀ c ∈ e.2, c.2.length = tileBytes) →
      ∃ t, exec (.caddieCmdAuthority h st dev) s = .next (regReply t h RegStatus.ok (caddieCmdOff n) []) ∧
        (caddie t n).split = (caddie s n).split.filter (fun e => dev.toNat != deviceId s && !(e.2.any fun c => c.1 == dev.toNat)) ∧
        (∀ e ∈ (caddie s n).split, bytesAt t e.1 tileBytes = if dev.toNat = deviceId s then bytesAt s e.1 tileBytes
          else ((e.2.find? fun c => c.1 == dev.toNat).map (·.2)).getD (bytesAt s e.1 tileBytes)) ∧
        ∀ i, (∀ e ∈ (caddie s n).split, i < e.1 ∨ e.1 + tileBytes ≤ i) → Memory.byte t.mem i = Memory.byte s.mem i) ∧
  (∀ (st : BitVec 5) (diffs : List DigestDiff) (s : State) (n x c seq : Nat) (g : CPage) (a : PageAt) (tiles : List Nat), n = st.toNat →
    caddieFld s n F.CADDIE_DIGEST_STAT_state = 1 → (caddie s n).pages = [(x, g)] → Memory.wf s.mem = true →
    receivesHigh s n g.desc = false → newestCopy (copyHdrSeq (bytesAt s (copyBase g.desc 0) 64))
      (copyHdrSeq (bytesAt s (copyBase g.desc 1) 64)) = some (c, seq) →
    a = ⟨ringCurrent (bytesAt s (pgNear g.desc) 64), g.slot, c⟩ → tiles = (streamOf g.desc a).map (·.1) →
    Readable s whoCaddie (pgNear g.desc) 64 → Readable s whoCaddie (copyBase g.desc 0) 64 → Readable s whoCaddie (copyBase g.desc 1) 64 →
    (∀ i ∈ tiles, i % tileBytes = 0 ∧ Readable s whoCaddie i tileBytes) → tiles ≠ [] → tiles.length ≤ 64 →
    (diffs = [] → ∃ t, exec (.digestPass st diffs) s = .next t ∧ t.mem = s.mem ∧ caddieFld t n F.CADDIE_DIGEST_STAT_state = 0 ∧
      (caddie t n).digest = crc64xz (leBytes 8 (crc64xz (tiles.flatMap fun i => leBytes 8 (crc64xz (bytesAt s i tileBytes))))) ∧
      ((caddie s n).split = [] → ∀ e ∈ (caddie t n).pages, e.2.digesting = false)) ∧
    ∀ d v, diffs = [d] → ownerMode s n = false → parityOn s n = false → d.tile.toNat ∈ tiles →
      majority (bytesAt s d.tile.toNat tileBytes :: d.copies.map (·.2)) = some v → v ≠ bytesAt s d.tile.toNat tileBytes →
      v.length = tileBytes → ∃ t, exec (.digestPass st diffs) s = .next t ∧ bytesAt t d.tile.toNat tileBytes = v ∧
        SameOutside s t d.tile.toNat tileBytes ∧ errSet t (Page.caddie n) Err.caddie_digest_repair = true ∧
        caddieFld t n F.CADDIE_DIGEST_STAT_state = 0) ∧
  ∀ (w : WireHdr) (m : CaddieMsg) (x : WireTile) (s : State) (n : Nat), n = m.stack.toNat → InTurn s w → m.tiles = [x] → wireOk x = true →
    bit x.word1.toNat 19 = false → m.last = false →
    (∀ a, (m.kind = 0#3 ∨ m.kind = 6#3) → (caddie s n).window = some m.step.toNat → (caddie s n).parity = true → Memory.wf s.mem = true →
      a = parCopy s n (1 - (parCommitted s n).1) + (1 + m.index.toNat) * tileBytes → a % tileBytes = 0 → x.data.length = tileBytes →
      admits s whoCaddie a = none → (trailerAt s a).state = .written →
      ∃ t, exec (.caddieTransfer w m) s = .next t ∧ Turned s t w ∧ bytesAt t a tileBytes = xorBytes (bytesAt s a tileBytes) x.data ∧
        SameOutside s t a tileBytes ∧ t.caddies = s.caddies) ∧
    (m.kind = 1#3 → ∃ t, exec (.caddieTransfer w m) s = .next t ∧ Turned s t w ∧ t.mem = s.mem ∧
      ∀ k, KMap.get (caddie t n).incoming [] k =
        KMap.get (caddie s n).incoming [] k ++ (if k = m.index.toNat / 65536 % 4096 then x.data else []))

/-! ## Collectives and the Relay -/

/-- CE_HG_LOAD and CE_PLAN_LOAD (R320, R322, R326): the table's entries in use are taken where they are right and refused where they are not; while a
number is outstanding the huddle table is not loaded. Choices of the model this rests on: notes/assumptions/89.md. -/
def Obligations.TablesLoad : Prop :=
  ∀ (h : RegHdr) (v : W32) (s : State) (o base k : Nat) (e : Nat → List Byte), (∀ x, e x = bytesAt s (base + 64 * x) 64) →
    Memory.wf s.mem = true → Readable s ceWho base (64 * k) → Accepted s h o →
    (o = Page.ce + 0x48 →
      ((∃ g ∈ s.groups, g.2.out ≠ []) → exec (.ceHgLoad h v) s = .next (regReply s h RegStatus.denied o [])) ∧
      ((∀ g ∈ s.groups, g.2.out = []) → base = s.fld48 Page.ce F.CE_HG_BASE_LO_base F.CE_HG_BASE_HI_base → k = min (v.toNat % 512) 256 →
        (∀ x y, x < y → y < k → bit (wordAt (e x) 0) 7 = true → bit (wordAt (e y) 0) 7 = true →
          gEntryOk s (e x) [] = true → gEntryOk s (e y) [] = true → bits (wordAt (e x) 1) 31 16 ≠ bits (wordAt (e y) 1) 31 16) →
        ∃ t, exec (.ceHgLoad h v) s = .next (regReply t h RegStatus.ok o []) ∧
          (∀ x, group t x = if x < k ∧ bit (wordAt (e x) 0) 7 = true ∧ gEntryOk s (e x) [] = true then groupOf (e x) else noGroup) ∧
          (∀ x, x < k → bit (wordAt (e x) 0) 7 = true → gEntryOk s (e x) [] = false → errSet t Page.ce Err.ce_hg_entry = true) ∧
          t.fld Page.ce F.CE_HG_COUNT_entries = v.toNat % 512 ∧ t.mem = s.mem ∧ t.trailers = s.trailers ∧ t.plans = s.plans)) ∧
    (o = Page.ce + 0x54 → base = s.fld48 Page.ce F.CE_PLAN_BASE_LO_base F.CE_PLAN_BASE_HI_base → k = min (v.toNat % 2048) 1024 →
      ∃ t, exec (.cePlanLoad h v) s = .next (regReply t h RegStatus.ok o []) ∧
        (∀ x, KMap.get t.plans [] x = if x < k ∧ bit (wordAt (e x) 0) 7 = true ∧ planOk s (e x) = true then e x else []) ∧
        (∀ x, x < k → bit (wordAt (e x) 0) 7 = true → planOk s (e x) = false → errSet t Page.ce Err.ce_plan_entry = true) ∧
        t.fld Page.ce F.CE_PLAN_COUNT_entries = v.toNat % 2048 ∧ t.mem = s.mem ∧ t.trailers = s.trailers ∧ t.groups = s.groups)

/-- COLLECTIVE_DATA and COLLECTIVE_RUN_END (R327 to R329, R331): a bucket tile or a rank's norms join the run of their step; the last leaf of the run
that runs has every output tile written; a run that ends leaves its statistics and arrives at its done group. Choices of the model this rests on:
notes/assumptions/91.md, notes/assumptions/92.md. -/
def Obligations.CollectiveRuns : Prop :=
  (∀ (w : WireHdr) (m : CollMsg) (s : State) (entry : Nat) (e : List Byte) (r new : Run), entry = w.flow.toNat % 2 ^ 28 →
    e = KMap.get s.plans [] entry → e ≠ [] → m.rank.toNat < plN e → InTurn s w →
    r = (runOf s entry m.step.toNat).getD (newRun entry e m.step.toNat) →
    (m.stats = true → m.tiles = [] → r.live = false →
      new = { r with norms := KMap.set r.norms 0 m.rank.toNat (m.u.toNat + m.w.toNat * 2 ^ 32 + 2 ^ 64) } →
      ∃ t, exec (.collectiveData w m) s = .next t ∧ Turned s t w ∧ runOf t entry m.step.toNat = some new ∧ t.mem = s.mem) ∧
    ∀ x, m.stats = false → m.tiles = [x] → wireOk x = true → bit x.word1.toNat 19 = false → plOp r.desc ≠ 3 →
      new = { r with leaves := KMap.set r.leaves [] (leafKey m.rank.toNat m.tile.toNat) x.data } →
      (r.live = false ∨ leavesIn s new = false →
        ∃ t, exec (.collectiveData w m) s = .next t ∧ Turned s t w ∧ runOf t entry m.step.toNat = some new ∧ t.mem = s.mem) ∧
      ∀ (ts : List Nat) (dst : Nat → Nat), r.live = true → runsNow s r = true → r.reduced = false → leavesIn s new = true →
        plParts r.desc = false → ts = wanted s r.desc (plRank r.desc) → Memory.wf s.mem = true → plDst r.desc % tileBytes = 0 →
        (∀ y ∈ leavesNeeded s r.desc, (KMap.get new.leaves [] (leafKey y.1 y.2)).length = tileBytes) →
        (∀ i, dst i = plDst r.desc + (if plOp r.desc = 1 then i else ts.getD i 0) * tileBytes) →
        (∀ i, i < ts.length → Writable s ⟨some (runCourt r), 6, 5⟩ (dst i) tileBytes) →
        ∃ t q, exec (.collectiveData w m) s = .next t ∧ Turned s t w ∧
          runOf t entry m.step.toNat = some q ∧ q.reduced = true ∧ q.parts = [] ∧ q.leaves = new.leaves ∧
          (∀ i, i < ts.length → bytesAt t (dst i) tileBytes = outTile new (ts.getD i 0)) ∧
          ∀ a, (∀ i, i < ts.length → a < dst i ∨ dst i + tileBytes ≤ a) → Memory.byte t.mem a = Memory.byte s.mem a) ∧
  ∀ (entry : BitVec 10) (s : State) (r : Run), endingRun s entry.toNat = some r → r.parts = [] →
    (∀ x ∈ s.runs, x.entry = r.entry → x.live = true → x.step = r.step) →
    (plStats r.desc = true → Memory.wf s.mem = true ∧ Stores s ⟨some (runCourt r), 6, 5⟩ (plStatsBase r.desc + r.step % 64 * 32) 32) →
    ∃ t, exec (.collectiveRunEnd entry) s = .next t ∧ (runOf t r.entry r.step = none) ∧ t.runs = s.runs.filter (fun x => !sameRun r.entry r.step x) ∧
      (plDone r.desc = 0xFFFF → t.groups = s.groups) ∧
      (∀ i, plDone r.desc ≠ 0xFFFF → groupIndex s (plDone r.desc) = some i → numDecided (group s i) r.number = false →
        (∀ n, n = numOf (group s i) r.number → findNum (group t i) r.number =
          some { n with engines := n.engines ++ [r.entry], step := minStep n.step r.step }) ∧ ∀ k, k ≠ i → group t k = group s k) ∧
      (plStats r.desc = false → t.mem = s.mem ∧ t.noise = s.noise) ∧
      (plStats r.desc = true →
        bytesAt t (plStatsBase r.desc + r.step % 64 * 32) 32 =
          wordBytes ([r.step % 2 ^ 32, r.step / 2 ^ 32] ++ (noiseOf r).1 ++ [plN r.desc - 1]) ∧
        SameOutside s t (plStatsBase r.desc + r.step % 64 * 32) 32 ∧ KMap.get t.noise 0 r.entry = (noiseOf r).1.getD 4 0 ∧
        ((noiseOf r).2 = true → errSet t Page.ce Err.ce_stats_undefined = true))

/-- RELAY_ARM, RELAY_COPY_RESTART, RELAY_TILES and RELAY_STAGED (R332 to R334): arming needs closed windows and staging for all that comes in; an
incoming tile goes to the next place of staging; all in and all acknowledged, the package arrives at h + 1; the copy takes every staged tile to
its destination and arrives at h + 2. Choices of the model this rests on: notes/assumptions/26.md, notes/assumptions/88.md. -/
def Obligations.RelaySteps : Prop :=
  (∀ (h : RegHdr) (gid : BitVec 16) (s : State) (o : Nat), o = Page.ce + 0x9C → Accepted s h o →
    (anyWindow s = false → relayIn s ≤ s.fld Page.ce F.CE_RELAY_STAGE_TILES_tiles →
      ∃ t, exec (.relayArm h gid) s = .next (regReply t h RegStatus.ok o []) ∧ t = { s with regs := t.regs, relay := ⟨false, 0, []⟩ } ∧
        RegsIn [Page.ce] s t ∧ t.fld Page.ce F.CE_RELAY_ARM_armed = 1 ∧ t.fld Page.ce F.CE_RELAY_ARM_copy = 0 ∧ relayGroup t = gid.toNat ∧
        t.fld Page.ce F.CE_RELAY_STAT_phase = 0 ∧ t.fld Page.ce F.CE_RELAY_STAT_tiles_in = 0) ∧
    ((anyWindow s = true ∨ s.fld Page.ce F.CE_RELAY_STAGE_TILES_tiles < relayIn s) →
      exec (.relayArm h gid) s = .next (regReply s h RegStatus.denied o [])) ∧
    ∀ i, groupIndex s gid.toNat = some i → numDecided (group s i) (relayNum s + 2) = false → Memory.wf s.mem = true →
      relayStage s 0 % tileBytes = 0 → (∀ d ∈ s.relay.staged, d % tileBytes = 0) → s.relay.staged.Nodup →
      (∀ j, j < s.relay.staged.length → relayStage s j ∉ s.relay.staged) →
      (∀ k, k < s.relay.staged.length → Copyable s ceWho (relayStage s k) (s.relay.staged.getD k 0)) →
      ∃ t, exec (.relayCopyRestart h gid) s = .next (regReply t h RegStatus.ok o []) ∧
        (∀ k, k < s.relay.staged.length → Copied s t (relayStage s k) (s.relay.staged.getD k 0)) ∧
        (∀ a, (∀ d ∈ s.relay.staged, a < d ∨ d + tileBytes ≤ a) → Memory.byte t.mem a = Memory.byte s.mem a) ∧
        t.fld Page.ce F.CE_RELAY_STAT_phase = 4 ∧ t.fld Page.ce F.CE_RELAY_ARM_armed = 1 ∧ t.relay = s.relay ∧
        ∀ n, n = numOf (group s i) (relayNum s + 2) → findNum (group t i) (relayNum s + 2) =
          some { n with engines := n.engines ++ [relayEngine], step := minStep n.step s.relay.step }) ∧
  (∀ (w : WireHdr) (m : RelayMsg) (x : WireTile) (s : State) (a : Nat), InTurn s w → m.tiles = [x] → (wireOk x = true ∨ x.resent = true) →
    a = relayStage s s.relay.staged.length → a % tileBytes = 0 → x.data.length = tileBytes → Memory.wf s.mem = true →
    (s.relay.staged.length < relayIn s → admits s ceWho a = none →
      ∃ t, exec (.relayTiles w m) s = .next t ∧ Turned s t w ∧ t.relay = { s.relay with staged := s.relay.staged ++ [m.dst.toNat] } ∧
        bytesAt t a tileBytes = x.data ∧ SameOutside s t a tileBytes ∧ (trailerAt t a).format.toNat = bits x.word1.toNat 18 15 ∧
        (trailerAt t a).gen.toNat = bits x.word1.toNat 14 0 ∧ (trailerAt t a).poison = (bit x.word1.toNat 19 || !wireOk x) ∧
        (trailerAt t a).tag = tagAt s a ∧ (trailerAt t a).state = .written) ∧
    (relayIn s ≤ s.relay.staged.length → s.fld Page.ce F.CE_RELAY_ARM_armed = 0 →
      ∃ t, exec (.relayTiles w m) s = .next t ∧ Turned s t w ∧ t.relay = s.relay ∧ t.mem = s.mem ∧ errSet t Page.ce Err.ce_relay_space = true)) ∧
  ∀ (s : State) (i : Nat), relayStaged s = true → groupIndex s (relayGroup s) = some i → numDecided (group s i) (relayNum s + 1) = false →
    ∃ t, exec .relayStaged s = .next t ∧ t = { s with regs := t.regs, groups := t.groups } ∧ RegsIn [Page.ce] s t ∧
      t.fld Page.ce F.CE_RELAY_STAT_phase = 2 ∧ (∀ k, k ≠ i → group t k = group s k) ∧
      ∀ n, n = numOf (group s i) (relayNum s + 1) → findNum (group t i) (relayNum s + 1) =
        some { n with engines := n.engines ++ [relayEngine], step := minStep n.step s.relay.step }

/-! ## Chesy flows, ports and lanes -/

/-- ACK, NAK, CREDIT and PASS_BUFFER_ENTRY (R226, R311 to R316): what a header acknowledges leaves the flow, a NAK has the rest sent again in order,
credit lets as many waiting entries go, and an entry in turn joins the store against credit, asked for again at its first failed check and
poisoned at its second. Choices of the model this rests on: notes/assumptions/93.md, notes/assumptions/94.md, notes/assumptions/95.md. -/
def Obligations.AcknowledgementsAndCredit : Prop :=
  (∀ (w : WireHdr) (s : State) (d fl : Nat) (f : Flow), AckTaken s w → d = w.src.toNat → fl = w.flow.toNat → f = flowOf s d fl →
    (∃ t, exec (.ack w) s = .next t ∧ t = { s with regs := t.regs, flows := t.flows, outbox := t.outbox } ∧
      givenTo t d fl = (stillOut s w ++ f.waiting).map asGiven ∧
      (∀ a l, flowKey a l ≠ flowKey d fl → flowOf t a l = flowOf s a l) ∧
      ∀ g n, g = flowOf t d fl → n = ((f.unacked.filter fun m => acknowledges w m.seq).map sentBytes).sum →
        g = { f with next := g.next, unacked := g.unacked, waiting := g.waiting
                     acked := f.acked + n, marked := f.marked + (if w.ece then n else 0) }) ∧
    (∀ p, f.waiting = [] → w.resendSrc = false → pickPort s f.ports = some p → ((stillOut s w).map (·.seq)).Nodup →
      (∀ m ∈ stillOut s w, m.sends < s.fld Page.chesy F.CHESY_RTO_retries + 1) →
      ∃ t, exec (.nak w) s = .next t ∧ t = { s with regs := t.regs, flows := t.flows, outbox := t.outbox } ∧
        (flowOf t d fl).unacked = (stillOut s w).map (fun m => { m with sends := m.sends + 1, port := p }) ∧
        t.outbox = s.outbox ++ (stillOut s w).map (fun m => ⟨.device d, m.typ, m.words, m.data⟩)) ∧
    (∀ b k, remoteBuf s d fl false = some b → b.spill = [] → f.failed = false → k = min b.queue.length (b.credit + w.credit.toNat) →
      ∃ t, exec (.credit w) s = .next t ∧ t.mem = s.mem ∧ t.clusters = s.clusters ∧
        bufOf t b.desc = { b with queue := b.queue.drop k, credit := b.credit + w.credit.toNat - k, moved := b.moved + k } ∧
        givenTo t d fl = (stillOut s w ++ f.waiting).map asGiven ++
          (b.queue.take k).map (fun x => (0x30, [], x.bytes ++ leBytes 4 (crc32c x.bytes))))) ∧
  ∀ (w : WireHdr) (data : List Byte) (crc : BitVec 32) (resent good : Bool) (s : State) (b : PassBuf), InTurn s w →
    good = (BitVec.ofNat 32 (crc32c data) == crc) → remoteBuf s w.src.toNat w.flow.toNat true = some b →
    (b.granted = 0 → ∃ t, exec (.passBufferEntry w data crc resent) s = .next t ∧ Turned s t w ∧ t.pbufs = s.pbufs ∧
      errSet t Page.chesy Err.chesy_credit_violation = true) ∧
    (b.granted ≠ 0 → good = false → resent = false → ∃ t, exec (.passBufferEntry w data crc resent) s = .next t ∧ t.pbufs = s.pbufs ∧
      (flowOf t w.src.toNat w.flow.toNat).expect = w.seq.toNat ∧
      t.outbox.getLast? = some ⟨.device w.src.toNat, 0x02, [w.flow.toNat, w.seq.toNat, 0, w.ce.toNat * 2 ^ 31 + 2 ^ 29], []⟩) ∧
    (b.granted ≠ 0 → good = true ∨ resent = true → b.store.length < b.desc.depth → b.spill = [] → b.queue = [] →
      ∃ t, exec (.passBufferEntry w data crc resent) s = .next t ∧ Turned s t w ∧ t.mem = s.mem ∧
        bufOf t b.desc = { b with
          store := b.store ++ [⟨data, !good⟩]
          granted := (bufOf t b.desc).granted
          room := (bufOf t b.desc).room })

/-- ACK_TIMER, RETRANSMIT_TIMEOUT, CWND_UPDATE, CHESY_REOPEN and CLEAR_DUP (R308, R311, R312, R314): the acknowledgement names what is expected; a
timeout backs off, cuts the window and sends the oldest message again, or fails the flow past its retries; the window follows the marked
fraction; a session's flow past its retries ends the session and aborts nothing (R343); a reopened flow counts from 0; a returned port sends
again. Choices of the model this rests on: notes/assumptions/25.md, notes/assumptions/93.md, notes/assumptions/94.md, notes/assumptions/95.md,
notes/assumptions/140.md. -/
def Obligations.FlowTimersAndReopening : Prop :=
  (∀ (dev : BitVec 16) (flow : W32) (s : State) (d fl : Nat) (f : Flow), d = dev.toNat → fl = flow.toNat → f = flowOf s d fl →
    (fabricUp s = true → 0 < f.fresh → ∃ t sack, exec (.ackTimer dev flow) s = .next t ∧
      t = { s with regs := t.regs, flows := t.flows, outbox := t.outbox } ∧
      t.outbox = s.outbox ++ [⟨.device d, 0x01, [fl, f.expect, sack, 0], []⟩] ∧ (f.held = [] → sack = 0) ∧
      flowOf t d fl = { f with fresh := 0 }) ∧
    (∀ m rest, fabricUp s = true → f.unacked = m :: rest →
      (∀ p, m.sends < s.fld Page.chesy F.CHESY_RTO_retries + 1 → pickPort s f.ports = some p → (f.unacked.map (·.seq)).Nodup →
        ∃ t, exec (.retransmitTimeout dev flow) s = .next t ∧ t = { s with regs := t.regs, flows := t.flows, outbox := t.outbox } ∧
          t.outbox = s.outbox ++ [⟨.device d, m.typ, m.words, m.data⟩] ∧
          flowOf t d fl = { f with
            unacked := { m with sends := m.sends + 1, port := p } :: rest
            cwnd := 16384
            timeout := min 10000 (max (s.fld Page.chesy F.CHESY_RTO_min_us) (max (2 * f.srtt) (2 * f.timeout))) }) ∧
      (s.fld Page.chesy F.CHESY_RTO_retries + 1 ≤ m.sends → fl / 2 ^ 28 ∉ [2, 3, 4, 5] →
        ∃ t, exec (.retransmitTimeout dev flow) s = .next t ∧ (flowOf t d fl).failed = true ∧ givenTo t d fl = [] ∧
          errSet t Page.chesy Err.chesy_flow_failed = true ∧ t.mem = s.mem ∧ t.regions = s.regions ∧ t.groups = s.groups)) ∧
    (∀ srtt : BitVec 16, f.acked ≠ 0 → f.waiting = [] → ∃ t a, exec (.cwndUpdate dev flow srtt) s = .next t ∧
      t = { s with regs := t.regs, flows := t.flows } ∧
      a.1 * (16 * f.alpha.2 * f.acked) = a.2 * (15 * f.alpha.1 * f.acked + f.marked * f.alpha.2) ∧
      flowOf t d fl = { f with
        alpha := a
        cwnd := if f.marked = 0 then min (64 * 1024 * 1024) (f.cwnd + 8320) else max 16384 (f.cwnd * (2 * a.2 - a.1) / (2 * a.2))
        acked := 0
        marked := 0
        srtt := srtt.toNat
        timeout := 0 })) ∧
  (∀ (n : BitVec 16) (flow : W32) (s : State) (x : Session) (m : OutMsg) (rest : List OutMsg), fabricUp s = true → x = s.session n.toNat →
    x.isOpen = true → x.flow = flow.toNat → (flowOf s n.toNat flow.toNat).unacked = [] → s.sessionUnacked n.toNat = m :: rest →
    (x.again < s.fld Page.chesy F.CHESY_RTO_retries → ∃ t, exec (.retransmitTimeout n flow) s = .next t ∧
      t = { s with sessions := t.sessions, regs := t.regs, outbox := s.outbox ++ [{ m with dest := .sessionAgain n.toNat }] } ∧
      t.session n.toNat = { x with again := x.again + 1 }) ∧
    (s.fld Page.chesy F.CHESY_RTO_retries ≤ x.again → ∃ t, exec (.retransmitTimeout n flow) s = .next t ∧
      (t.session n.toNat).isOpen = false ∧ errSet t Page.chesy Err.chesy_flow_failed = true ∧ t.regions = s.regions ∧ t.mem = s.mem ∧
      t.cmds = s.cmds)) ∧
  ∀ (h : RegHdr) (s : State),
    (∀ fl, Accepted s h (Page.chesy + 0x54) → fl = s.fld Page.chesy F.CHESY_FLOW_SEL_flow → (s.flows.map (·.1)).Nodup →
      (∀ b ∈ s.pbufs, b.desc.flow ≠ fl) → ∃ t, exec (.chesyReopen h) s = .next (regReply t h RegStatus.ok (Page.chesy + 0x54) []) ∧
        t = { s with regs := t.regs, flows := t.flows } ∧
        (∀ e ∈ s.flows, e.1 % 2 ^ 32 = fl → flowOf t (e.1 / 2 ^ 32) fl = { Flow.init with
          isOpen := true
          ports := e.2.ports
          cwnd := s.fld Page.chesy F.CHESY_CWND_INIT_bytes }) ∧
        ∀ k, k % 2 ^ 32 ≠ fl → KMap.get t.flows .init k = KMap.get s.flows .init k) ∧
    ∀ p : BitVec 5, p.toNat < 18 → Accepted s h (Page.eth p.toNat + 0x68) →
      ∃ t, exec (.clearDup h p) s = .next (regReply t h RegStatus.ok (Page.eth p.toNat + 0x68) []) ∧
        t.fld (Page.eth p.toNat) F.ETH_STATUS_held = 0 ∧ FlowsKeep s t ∧ t = { s with regs := t.regs, flows := t.flows, outbox := t.outbox }

/-- NEIGHBOUR_FRAME, PFC_FRAME, LINK_DOWN, LINK_UP, the lane events and LINK_FATAL (R306 to R308, R312, R314, R384, R396, R404): a port answers for
its own address; a pause holds it and changes no window; a lost link moves its messages to other ports; lanes leave, come back on probation and
train their port; a fatal link aborts every court. Choices of the model this rests on: notes/assumptions/93.md, notes/assumptions/96.md. -/
def Obligations.PortsAndLanes : Prop :=
  (∀ (q : BitVec 5) (s : State) (k : Nat), k = q.toNat → k ≤ 18 →
    (∀ target : BitVec 128, portMode s k ≠ 0 → ∃ t, exec (.neighbourFrame q target) s = .next t ∧
      t = { s with regs := t.regs, outbox := t.outbox } ∧ RegsIn [portPage k] s t ∧
      (target.toNat = portAddr s k → t.fld (portPage k) F.ETH_DROPS_count = s.fld (portPage k) F.ETH_DROPS_count ∧
        t.outbox = s.outbox ++ [⟨.port k, 0x100, (List.range 4).map (fun i => target.toNat / 2 ^ (32 * i) % 2 ^ 32), []⟩]) ∧
      (target.toNat ≠ portAddr s k → t.outbox = s.outbox ∧
        t.fld (portPage k) F.ETH_DROPS_count = min (s.fld (portPage k) F.ETH_DROPS_count + 1) (2 ^ 32 - 1))) ∧
    (∀ (pfc : Bool) (prio : BitVec 3) (quanta : BitVec 16), portMode s k ≠ 0 → ∃ t, exec (.pfcFrame q pfc prio quanta) s = .next t ∧
      FlowsKeep s t ∧ (∀ d fl, (flowOf t d fl).cwnd = (flowOf s d fl).cwnd) ∧
      (∀ j, portPaused t j = if j = k ∧ obeysPause s k pfc prio.toNat = true then decide (quanta ≠ 0#16) else portPaused s j)) ∧
    (portMode s k ≠ 0 → FlowsApart s → ∃ t, exec (.linkDown q) s = .next t ∧ portMode t k = 0 ∧ t.fld (portPage k) F.ETH_STATUS_lanes = 0 ∧
      errSet t (portPage k) Err.eth_link_down = true ∧ FlowsKeep s t ∧
      ∀ d fl, k ≠ 0 → pickPort t (flowOf s d fl).ports ≠ none → ∀ m ∈ (flowOf t d fl).unacked, m.port ≠ k - 1) ∧
    (portMode s k = 0 → trainedMode s k ≠ 0 → isReady s = true → ∃ t, exec (.linkUp q) s = .next t ∧ portMode t k = trainedMode s k ∧
      t.fld (portPage k) F.ETH_STATUS_lanes = laneMask s k ∧ FlowsKeep s t ∧ t = { s with regs := t.regs, flows := t.flows, outbox := t.outbox }) ∧
    ∀ (lane : BitVec 3) (x : Lane), x = laneOf s k lane.toNat →
      (∀ (corrected symbols : BitVec 48) (codewords lost : W32), portMode s k ≠ 0 → x.out = false → FlowsApart s →
        ∃ t, exec (.laneFecWindow q lane corrected symbols codewords lost) s = .next t ∧
          (lost ≠ 0#32 → errSet t (portPage k) Err.eth_fec_uncorrectable = true ∧
            t.fld (portPage k) F.ETH_FEC_UNCORR_count = min (s.fld (portPage k) F.ETH_FEC_UNCORR_count + lost.toNat) (2 ^ 32 - 1)) ∧
          if symbols.toNat < corrected.toNat * (if x.probation then 100000 else 10000) then LaneLeft s t k lane.toNat
          else t.lanes = s.lanes ∧ t.reg64 (portPage k + 0x70) = (s.reg64 (portPage k + 0x70) + codewords.toNat) % 2 ^ 64) ∧
      (x.out = false → FlowsApart s → ∃ t, exec (.laneSignalLoss q lane) s = .next t ∧ LaneLeft s t k lane.toNat) ∧
      (x.out = true → x.permanent = false → ∃ t, exec (.laneRetry q lane) s = .next t ∧ FlowsKeep s t ∧
        laneOf t k lane.toNat = { x with out := false, probation := true } ∧
        portMode t k = if portMode s k = 0 then 0 else trainedMode t k) ∧
      (x.probation = true → ∃ t, exec (.laneProbationEnd q lane) s = .next t ∧ t = { s with lanes := t.lanes } ∧
        (∀ j, j ≠ 8 * k + lane.toNat → KMap.get t.lanes .init j = KMap.get s.lanes .init j) ∧
        laneOf t k lane.toNat = { x with probation := false, failures := 0, holdoff := 10 })) ∧
  (∀ s : State, (s.board.spDown = false → ∃ t, exec (.linkDown 19#5) s = .next t ∧ t.board = { s.board with spDown := true } ∧
      errSet t Page.sp Err.sp_link_down = true ∧ t.flows = s.flows) ∧
    (s.board.spDown = true → exec (.linkUp 19#5) s = .next { s with board := { s.board with spDown := false } })) ∧
  ∀ (core : Bool) (s : State), ∃ t, exec (.linkFatal core) s = .next t ∧ DeviceFatal s t 0xF004

/-! ## The Umpires -/

/-- UMPIRE_VOTE and STRIKE_EXPIRY (R387 to R389, R391, Table 16.8): a vote is recorded and its loser takes a strike, whatever x's result; an
undecided one aborts the court; a row of an engine's array retires at its third strike; a strike leaves its window. Choices of the model this
rests on: notes/assumptions/111.md, notes/assumptions/112.md, notes/assumptions/116.md. -/
def Obligations.VotesAndStrikes : Prop :=
  (∀ (o : VoteOp) (s : State) (r pg outcome loser : Nat) (third : Bool) (x y : Option Nat), r = o.region.toNat → pg = Page.ump r →
    voteStands s o = true → x = pickRerun s r o.origin.toNat [o.origin.toNat] →
    y = x.bind (fun q => pickRerun s r q [o.origin.toNat, q]) →
    (outcome, loser, third) = (if x = none then (3, 0, false) else if o.same then (1, if o.ok0 || o.sampled then 0 else 1, false)
      else if (o.ok0 || o.sampled) && !o.ok1 then (1, 2, false) else if o.ok1 && !(o.ok0 || o.sampled) then (2, 1, false)
      else if y = none then (3, 0, false) else if o.third = 1#2 then (2, 1, true) else if o.third = 2#2 then (1, 2, true) else (3, 0, true)) →
    ∃ t, exec (.umpireVote (.umpire o)) s = .next t ∧
      t.reg (pg + 0x48) = BitVec.ofNat 32 (voteWord o outcome (x.getD 0x1F) (if third then y.getD 0x1F else 0x1F)) ∧
      t.fld pg F.UMP_LAST_ADDR_instr_addr = o.addr.toNat ∧
      (outcome ≠ 3 → t.mem = s.mem ∧ t.clusters = s.clusters ∧ t.regions = s.regions ∧
        (loser = 0 → t.umps = s.umps) ∧ (loser = 1 → UmpStruck s t r (strikeIndex o o.origin.toNat)) ∧
        (loser = 2 → UmpStruck s t r (strikeIndex o (x.getD 0))) ∧ (loser ≠ 0 → errSet t pg Err.ump_vote_lost = true)) ∧
      ((o.sampled && !o.same) = true → errSet t pg Err.ump_sample_mismatch = true) ∧
      (outcome = 3 → t.umps = s.umps ∧ errSet t pg Err.ump_umpire_undecided = true ∧ CourtAborted s t r 0x3212)) ∧
  (∀ (e : EngineUnit) (row : BitVec 6) (s : State) (k n : Nat), k = 64 * engineKey e + row.toNat → n = KMap.get s.rowStrikes 0 k →
    (s.pageRetired (enginePage e) = false → bit (engineRows s e) row.toNat = false →
      (n + 1 < 3 → ∃ t, exec (.umpireVote (.engine e row)) s = .next t ∧ t = { s with rowStrikes := t.rowStrikes } ∧
        KMap.get t.rowStrikes 0 k = n + 1 ∧ ∀ j, j ≠ k → KMap.get t.rowStrikes 0 j = KMap.get s.rowStrikes 0 j) ∧
      (3 ≤ n + 1 → (maskBits 64 (engineRows s e ||| 2 ^ row.toNat)).length < 9 → repairWord s (engineWord e) < 2 ^ 32 →
        repairWord s (engineWord e + 1) < 2 ^ 32 → ∃ t, exec (.umpireVote (.engine e row)) s = .next t ∧
          engineRows t e = engineRows s e ||| 2 ^ row.toNat ∧ KMap.get t.rowStrikes 0 k = 0 ∧ t.mem = s.mem ∧ t.regions = s.regions)) ∧
    (n ≠ 0 → ∃ t, exec (.strikeExpiry (.engineRow e row)) s = .next t ∧ t = { s with rowStrikes := t.rowStrikes } ∧
      KMap.get t.rowStrikes 0 k + 1 = n ∧ ∀ j, j ≠ k → KMap.get t.rowStrikes 0 j = KMap.get s.rowStrikes 0 j)) ∧
  ∀ (r : BitVec 5) (i : BitVec 7) (s : State), KMap.get (umpOf s r.toNat).live 0 i.toNat ≠ 0 →
    ∃ t, exec (.strikeExpiry (.umpire r i)) s = .next t ∧ t = { s with umps := t.umps } ∧ (∀ q, q ≠ r.toNat → umpOf t q = umpOf s q) ∧
      umpOf t r.toNat = { umpOf s r.toNat with live := (umpOf t r.toNat).live } ∧
      KMap.get (umpOf t r.toNat).live 0 i.toNat + 1 = KMap.get (umpOf s r.toNat).live 0 i.toNat ∧
      ∀ j, j ≠ i.toNat → KMap.get (umpOf t r.toNat).live 0 j = KMap.get (umpOf s r.toNat).live 0 j

/-- UMPIRE_LOCALISE and SUBSTITUTE_SWITCH_IN (R103 to R106, R390): faulty cell rows within two substitutes are queued and full shadow ends, anything
else retires the unit; the switch-in fills the substitute map, and a cluster's first one delays every later cluster by a step. CLUSTER_TAKEOVER
(R392, R393): the spare takes the retiring cluster's place in the map, its store, vector state and accumulators, each row at its own offset;
without a spare the clusters left are numbered on. Choices of the model this rests on: notes/assumptions/113.md, notes/assumptions/114.md. -/
def Obligations.RepairAndTakeover : Prop :=
  ((∀ (region : BitVec 5) (index : BitVec 7) (rows : List (BitVec 6)) (elsewhere : Bool) (s : State) (r i p u : Nat) (found : List Nat),
    r = region.toNat → i = index.toNat → p = i / 4 → u = i % 4 → found = (rows.map (·.toNat)).eraseDups → i < 68 →
    (umpOf s r).shadow.contains i = true → (umpOf s r).retiring.contains p = false → quietFor s r p = true →
    bit (s.fld (Page.ump r) F.UMP_RETIRED_clusters) p = false →
    ∃ t, exec (.umpireLocalise region index rows elsewhere) s = .next t ∧ t.mem = s.mem ∧ t.clusters = s.clusters ∧ t.regions = s.regions ∧
      if found ≠ [] ∧ elsewhere = false ∧
          subsUsed s r p u + ((umpOf s r).subs.filter fun e => e.1 == i).length + found.length ≤ 2 then
        (umpOf t r).subs = (umpOf s r).subs ++ found.map (fun row => (i, row)) ∧ KMap.get (umpOf t r).live 0 i = 0 ∧
          (umpOf t r).shadow = (umpOf s r).shadow.filter (· != i) ∧
          t.fld (Page.tu (clusterOf r p)) F.TU_STATUS_repair_pending = 1 ∧ errSet t (Page.ump r) Err.ump_substitute = true
      else unitState t r p u = 2 ∧ (umpOf t r).retiring = (umpOf s r).retiring ++ [p] ∧ 68 + p ∈ (umpOf t r).shadow) ∧
  ∀ (region cluster : BitVec 5) (s : State) (r p u row : Nat), r = region.toNat → p = cluster.toNat → p < 17 → u < 4 → row < 64 →
    (umpOf s r).subs.filter (fun e => e.1 / 4 == p) = [(4 * p + u, row)] → quietFor s r p = true → BanksEmpty s r p u →
    ∃ t, exec (.substituteSwitchIn region cluster) s = .next t ∧ t.mem = s.mem ∧ t.clusters = s.clusters ∧
      (umpOf t r).subs = (umpOf s r).subs.filter (fun e => e.1 / 4 != p) ∧ ∀ pg, pg = Page.tu (clusterOf r p) →
        (s.fld pg F.TU_SUBST_MAP_sub0_used u = 0 →
          t.fld pg F.TU_SUBST_MAP_sub0_used u = 1 ∧ t.fld pg F.TU_SUBST_MAP_sub0_row u = row) ∧
        (s.fld pg F.TU_SUBST_MAP_sub0_used u ≠ 0 → t.fld pg F.TU_SUBST_MAP_sub1_used u = 1 ∧ t.fld pg F.TU_SUBST_MAP_sub1_row u = row ∧
          t.fld pg F.TU_SUBST_MAP_sub0_row u = s.fld pg F.TU_SUBST_MAP_sub0_row u) ∧
        t.fld pg F.TU_SKEW_OFFSET_repair_stage = 1 ∧ t.fld pg F.TU_STATUS_repair_pending = 0 ∧
        ∀ q g, q < 17 → g = Page.tu (clusterOf r q) →
          if p < q ∧ s.fld pg F.TU_SKEW_OFFSET_repair_stage = 0 then
            t.fld g F.TU_SKEW_OFFSET_offset = (s.fld g F.TU_SKEW_OFFSET_offset + 1) % 64 ∧
            t.fld g F.TU_SKEW_OFFSET_skew_gen = (s.fld g F.TU_SKEW_OFFSET_skew_gen + 1) % 256 ∧ errSet t g Err.tu_skew_changed = true
          else t.fld g F.TU_SKEW_OFFSET_offset = s.fld g F.TU_SKEW_OFFSET_offset ∧
            t.fld g F.TU_SKEW_OFFSET_skew_gen = s.fld g F.TU_SKEW_OFFSET_skew_gen) ∧
  (∀ (region : BitVec 5) (s : State) (r p : Nat) (rest : List Nat), r = region.toNat → (umpOf s r).retiring = p :: rest →
    (s.region r).stream = none → p < 17 → (∃ c, c < 16 ∧ s.physOf r c = some p) →
    (∀ e ∈ currentMap (s.region r), e.len ≤ 64 ∧ ∀ f ∈ currentMap (s.region r), f.width = e.width) →
    (∀ q d d', spareOf s r = some q → q ≠ p → d = offsetOf s r p → d' = offsetOf s r q →
      (∀ u, u < 4 → BanksEmpty s r p u ∧ (unitOf (s.cluster (clusterOf r p)) u).groups = []) →
      ∃ t, exec (.clusterTakeover region) s = .next t ∧ t.mem = s.mem ∧ t.regions = s.regions ∧
        (∀ c, c < 16 → t.physOf r c = if s.physOf r c = some p then some q else s.physOf r c) ∧
        ClusterMode t (clusterOf r p) 5 ∧ ClusterMode t (clusterOf r q) 0 ∧ p ∉ (umpOf t r).retiring ∧
        bit (t.fld (Page.ump r) F.UMP_RETIRED_clusters) p = true ∧ errSet t (Page.ump r) Err.ump_cluster_retired = true ∧
        errSet t (Page.tu (clusterOf r q)) Err.tu_skew_changed = true ∧ ∀ x y, x = s.cluster (clusterOf r p) → y = t.cluster (clusterOf r q) →
          y.store = x.store ∧ y.lineFmt = x.lineFmt ∧ y.vregs = x.vregs ∧ y.masks = x.masks ∧ y.gens = x.gens ∧
          (∀ u tile row, u < 4 → tile < 32 → row < 64 → (∀ e ∈ currentMap (s.region r), tile < e.tile ∨ e.tile + e.width ≤ tile) →
            accRow y u tile row = accRow x u tile row) ∧
          ∀ e u k i j, currentMap (s.region r) = [e] → u < 4 → k < e.width → e.tile + e.width ≤ 32 → i < e.len → j < e.len →
            i + d' = j + d → accRow y u (e.tile + k) j = accRow x u (e.tile + k) i) ∧
    (∀ work, spareOf s r = none → s.courtOf r = none →
      work = ((List.range 16).filterMap (s.physOf r)).filter (· != p) → s.fld (Page.ump r) F.UMP_CTL_min_clusters ≤ work.length →
      ∃ t, exec (.clusterTakeover region) s = .next t ∧ t.mem = s.mem ∧ t.regions = s.regions ∧ ClusterMode t (clusterOf r p) 5 ∧
        (∀ c, c < 16 → t.physOf r c = work[c]?) ∧ errSet t (Page.ump r) Err.ump_cluster_short = true ∧
        bit (t.fld (Page.ump r) F.UMP_RETIRED_clusters) p = true))

/-- UMP_RETURN_PROBATION, UMP_RETIRE, PROBATION_JOB_END and REGION_BLOCK_FAILURE (R394, R402): a retired cluster enters probation cleared, passes to
standby after its jobs or fails for good; a working one is put to retire; a failed block retires its region and aborts its court. Choices of the
model this rests on: notes/assumptions/114.md, notes/assumptions/115.md. -/
def Obligations.ProbationAndRegionLoss : Prop :=
  (∀ (h : RegHdr) (region cluster : BitVec 5) (s : State) (r p o c : Nat), r = region.toNat → p = cluster.toNat → p ≤ 16 →
    o = Page.ump r + 0x58 → c = clusterOf r p → Accepted s h o →
    (bit (s.fld (Page.ump r) F.UMP_RETIRED_clusters) p = true → inProbation s r = none → s.pageRetired (Page.rg r) = false →
      ((umpOf s r).barred.contains p = false →
        ∃ t, exec (.umpReturnProbation h region cluster) s = .next (regReply t h RegStatus.ok o []) ∧ ClusterMode t c 4 ∧ t.cluster c = .init ∧
          (∀ k, k ≠ c → t.cluster k = s.cluster k) ∧ inProbation t r = some p ∧ t.fld (Page.ump r) F.UMP_PROBATION_jobs_done = 0 ∧
          bit (t.fld (Page.ump r) F.UMP_RETIRED_clusters) p = false ∧ (∀ u, u < 4 → unitState t r p u = 1) ∧ t.mem = s.mem) ∧
      ((umpOf s r).barred.contains p = true → exec (.umpReturnProbation h region cluster) s = .next (regReply s h RegStatus.denied o []))) ∧
    (inProbation s r = some p → ∃ t, exec (.umpRetire h region cluster) s = .next (regReply t h RegStatus.ok o []) ∧ ClusterMode t c 5 ∧
      inProbation t r = none ∧ bit (t.fld (Page.ump r) F.UMP_RETIRED_clusters) p = true ∧ (umpOf t r).barred = (umpOf s r).barred ++ [p] ∧
      t.mem = s.mem) ∧
    (inProbation s r ≠ some p → bit (s.fld (Page.ump r) F.UMP_RETIRED_clusters) p = false → (umpOf s r).retiring.contains p = false →
      ∃ t, exec (.umpRetire h region cluster) s = .next (regReply t h RegStatus.ok o []) ∧ (umpOf t r).retiring = (umpOf s r).retiring ++ [p] ∧
        68 + p ∈ (umpOf t r).shadow ∧ t = { s with regs := t.regs, umps := t.umps } ∧ RegsIn [Page.ump r] s t)) ∧
  (∀ (region : BitVec 5) (rows : W32) (mismatch : Bool) (s : State) (r p done : Nat), r = region.toNat → inProbation s r = some p → p ≤ 16 →
    s.courtOf r ≠ none → done = min (s.fld (Page.ump r) F.UMP_PROBATION_jobs_done + 1) 255 →
    ∃ t, exec (.probationJobEnd region rows mismatch) s = .next t ∧ t.mem = s.mem ∧ t.clusters = s.clusters ∧
      (mismatch = true → ClusterMode t (clusterOf r p) 5 ∧ inProbation t r = none ∧ (umpOf t r).barred = (umpOf s r).barred ++ [p] ∧
        errSet t (Page.ump r) Err.ump_probation_failed = true) ∧
      (mismatch = false → done < s.fld (Page.ump r) F.UMP_CTL_probation_jobs → t = { s with regs := t.regs } ∧ inProbation t r = some p ∧
        t.fld (Page.ump r) F.UMP_PROBATION_jobs_done = done) ∧
      (mismatch = false → s.fld (Page.ump r) F.UMP_CTL_probation_jobs ≤ done → ClusterMode t (clusterOf r p) 6 ∧ inProbation t r = none ∧
        (∀ u, u < 4 → unitState t r p u = 0) ∧ errSet t (Page.ump r) Err.ump_probation_passed = true)) ∧
  ∀ (region : BitVec 5) (s : State) (r : Nat), r = region.toNat → s.pageRetired (Page.rg r) = false →
    ∃ t, exec (.regionBlockFailure region) s = .next t ∧ t.pageMode (Page.rg r) = 5 ∧ t.pageMode (Page.re r) = 5 ∧
      (∀ p, p < 17 → ClusterMode t (clusterOf r p) 5) ∧ bit (repairWord t (regionRec r)) 31 = true ∧
      errSet t (Page.ump r) Err.ump_region_retired = true ∧ CourtAborted s t r 0x3217 ∧
      (s.courtOf r = none → t.mem = s.mem ∧ t.regions = s.regions)

/-! ## The solver engine -/

/-- SE_SUBMIT, SE_JOB_START, SE_JOB_END, SE_DEADLINE and SE_CANCEL (R369, R370, R372, R376 to R378): a job that nothing stands against joins the
queue, another is refused; the engine turns to the earliest deadline and solves a dense problem into its place; the header completes the job; an
expired or cancelled one leaves an incomplete header. Choices of the model this rests on: notes/assumptions/102.md, notes/assumptions/103.md,
notes/assumptions/104.md, notes/assumptions/106.md, notes/assumptions/107.md, notes/assumptions/110.md. -/
def Obligations.SolverJobs : Prop :=
  (∀ (h : RegHdr) (st : BitVec 5) (tier : Bool) (tile : BitVec 24) (s : State) (a : Nat) (d x : List Byte) (tg tx : BitVec 12) (w : Who),
    a = tierBase st.toNat tier + tile.toNat * tileBytes → w = Who.device 4 7 → seWaits s h.path = false → Accepted s h (Page.se + 0x40) →
    Memory.wf s.mem = true → Readable s w a 64 → d = bytesAt s a 64 → tg = (trailerAt s a).tag → seStruct d % 64 = 0 →
    Readable s w (seStruct d) 64 → x = bytesAt s (seStruct d) 64 → tx = (trailerAt s (seStruct d)).tag →
    (submitReason s d tg (some (x, tx)) = none → ∃ t, exec (.seSubmit h st tier tile) s = .next (regReply t h RegStatus.ok (Page.se + 0x40) []) ∧
      t.jobs = s.jobs ++ [newJob s d x h.time.toNat] ∧ t.fld Page.se F.SE_QUEUE_STAT_used = s.jobs.length + 1 ∧ t.mem = s.mem ∧
      t.trailers = s.trailers ∧ t.kept = s.kept) ∧
    ∀ r, submitReason s d tg (some (x, tx)) = some r →
      ∃ t, exec (.seSubmit h st tier tile) s = .next (regReply t h RegStatus.ok (Page.se + 0x40) []) ∧ t.jobs = s.jobs ∧ t.mem = s.mem ∧
        t.fld Page.se F.SE_MISS_COUNT_refusals = min (s.fld Page.se F.SE_MISS_COUNT_refusals + 1) 65535 ∧
        t.fld Page.se F.SE_LAST_DONE_status = 2 ∧ t.fld Page.se F.SE_LAST_DONE_reason = r ∧ t.fld Page.se F.SE_LAST_DONE_tag = seTag d ∧
        errSet t Page.se Err.se_se_refused = true) ∧
  (∀ (s : State) (i : Nat) (j : SeJob), s.jobs[i]? = some j → jobEligible s i = true → (∀ k ∈ s.jobs, k.finished = false) →
    (∀ k e, s.jobs[k]? = some e → jobEligible s k = true → j.due < e.due ∨ (j.due = e.due ∧ i ≤ k)) →
    ((∀ k ∈ s.jobs, k.running = false) → ∃ t, exec (.seJobStart 0#32) s = .next t ∧ t = { s with regs := t.regs, jobs := t.jobs } ∧
      RegsIn [Page.se] s t ∧ t.jobs = s.jobs.set i { j with running := true } ∧ t.fld Page.se F.SE_ACTIVE_busy = 1 ∧
      t.fld Page.se F.SE_ACTIVE_tag = seTag j.desc) ∧
    ∀ (p m n : Nat) (w : Who) (row : Nat → Nat) (cols : List (List Nat)) (b : List Nat) (res : List Nat → Nat → DSolve) (out : Nat → List (Nat × Bool)) ,
      s.jobs.findIdx? (·.running) = some i → j.started = true → deltaLeft j = false → ssSparse j.sdesc = false → p = j.next →
      p + 1 < ssProblems j.sdesc → w = seWho j.court → Memory.wf s.mem = true → solOf s j p = none →
      Readable s w (ssTable j.sdesc + 8 * p) 8 → (∀ k ∈ spanTiles (ssTable j.sdesc + 8 * p) 8, (trailerAt s k).format = 0#4) →
      (m, n) = problemOf (bytesAt s (ssTable j.sdesc + 8 * p) 8) →
      (∀ r, row r = ssArea1 j.sdesc + p * ssAstride j.sdesc * tileBytes + r * ssNmax j.sdesc * 4) →
      (∀ r, r < m → Readable s w (row r) (4 * n) ∧ ∀ k ∈ spanTiles (row r) (4 * n), (trailerAt s k).format = 1#4) →
      Readable s w (ssArea2 j.sdesc + p * ssBstride j.sdesc * 64) (4 * m) →
      (∀ k ∈ spanTiles (ssArea2 j.sdesc + p * ssBstride j.sdesc * 64) (4 * m), (trailerAt s k).format = 1#4) →
      cols = (List.range n).map (fun k => (List.range m).map fun r => wordAt (bytesAt s (row r) (4 * n)) k) →
      b = (List.range m).map (wordAt (bytesAt s (ssArea2 j.sdesc + p * ssBstride j.sdesc * 64) (4 * m))) →
      (∀ v ∈ cols.flatten ++ b, (fp32.decode v).isFinite = true) →
      (∀ u v, res u v = (if seMethod j.desc = 1 then denseQr else denseChol) (pivotCtl j) (cols.map fun c => c.map widen64) (u.map widen64) (widen64 v)) →
      (∀ v, out v = (res b v).x.map (deliverX (bit j.pivot 31) ((res b v).singular != 0))) →
      Stores s w (xAddr j p) (4 * (out (seMu j.desc)).length) →
      ∃ t k, exec (.seJobStart 1#32) s = .next t ∧ bytesAt t (xAddr j p) (4 * (out (seMu j.desc)).length) = wordBytes ((out (seMu j.desc)).map (·.1)) ∧
        SameOutside s t (xAddr j p) (4 * (out (seMu j.desc)).length) ∧ t.jobs[i]? = some k ∧ k.next = p + 1 ∧ k.fresh = j.fresh + 1 ∧ k.running = true) ∧
  (∀ (s : State) (i : Nat) (j : SeJob) (w : Who) (n : Nat), s.jobs.findIdx? (fun k => k.running && k.finished) = some i → s.jobs[i]? = some j →
    w = seWho j.court → n = ssWorkTiles j.sdesc → ssWork j.sdesc % tileBytes = 0 → seResult j.desc % tileBytes = 0 →
    Writable s w (ssWork j.sdesc) (n * tileBytes) → Writable s w (seResult j.desc) tileBytes → Memory.wf s.mem = true →
    ∃ t elapsed residual, exec .seJobEnd s = .next t ∧ t.jobs = s.jobs.eraseIdx i ∧ t.solved = some (j.court, seTag j.desc) ∧
      t.fld Page.se F.SE_LAST_DONE_status = 0 ∧ t.fld Page.se F.SE_LAST_DONE_tag = seTag j.desc ∧ (∀ r, j.residual = some r → residual = r) ∧
      bytesAt t (seResult j.desc) 64 = wordBytes (headerWords j false 0 0 0 elapsed residual) ∧
      ∀ k, (k < ssWork j.sdesc ∨ ssWork j.sdesc + n * tileBytes ≤ k) → (k < seResult j.desc ∨ seResult j.desc + tileBytes ≤ k) →
        Memory.byte t.mem k = Memory.byte s.mem k) ∧
  (∀ (index : BitVec 6) (s : State) (i : Nat) (j : SeJob), i = index.toNat → s.jobs[i]? = some j → Writable s (seWho j.court) (seResult j.desc) tileBytes →
    seResult j.desc % tileBytes = 0 → Memory.wf s.mem = true →
    ∃ t prev elapsed residual, exec (.seDeadline index) s = .next t ∧ t.jobs = s.jobs.eraseIdx i ∧ errSet t Page.se Err.se_se_deadline = true ∧
      t.fld Page.se F.SE_MISS_COUNT_misses = min (s.fld Page.se F.SE_MISS_COUNT_misses + 1) 65535 ∧
      t.fld Page.se F.SE_LAST_DONE_status = 1 ∧ t.fld Page.se F.SE_LAST_DONE_reason = 0x0B ∧ t.fld Page.se F.SE_LAST_DONE_tag = seTag j.desc ∧
      bytesAt t (seResult j.desc) 64 = wordBytes (headerWords { j with converged := false } true 1 0x0B prev elapsed residual)) ∧
  ∀ (h : RegHdr) (court : BitVec 4) (tag : BitVec 16) (s : State) (mine : SeJob → Bool), Accepted s h (Page.se + 0x58) →
    mine = (fun j => j.court == court.toNat && seTag j.desc == tag.toNat) →
    (∀ i, s.jobs.findIdx? mine = some i → ∃ t, exec (.seCancel h court tag) s = .next (regReply t h RegStatus.ok (Page.se + 0x58) []) ∧
      t.jobs = s.jobs.eraseIdx i ∧ t.fld Page.se F.SE_CANCEL_STAT_winner = 1 ∧ t.fld Page.se F.SE_CANCEL_STAT_tag = tag.toNat ∧
      t.fld Page.se F.SE_LAST_DONE_status = 3 ∧ errSet t Page.se Err.se_se_cancelled = true) ∧
    (s.jobs.findIdx? mine = none → ∃ t, exec (.seCancel h court tag) s = .next (regReply t h RegStatus.ok (Page.se + 0x58) []) ∧
      t = { s with regs := t.regs } ∧ t.fld Page.se F.SE_CANCEL_STAT_tag = tag.toNat ∧
      t.fld Page.se F.SE_CANCEL_STAT_winner = if s.solved = some (court.toNat, tag.toNat) then 2 else 3)

/-! ## Scorecard and counters -/

/-- The Scorecard's cursor commands, its save and its rate tokens (R415, R416, R418): a load shows a record in the window, a clear frees it, a save
takes the store's image to flash, a token returns to its bucket. Choices of the model this rests on: notes/assumptions/134.md. -/
def Obligations.ScorecardCommands : Prop :=
  (∀ (h : RegHdr) (s : State), Accepted s h scCursorOff →
    (∀ (c : Instr) (j : Nat) (valid : Bool), j < 512 → valid = (scRecord' s j).valid →
      ((∃ i : BitVec 9, c = .scLoadIndex h i ∧ j = i.toNat) ∨
        (∃ (i : BitVec 9) (k : Nat), c = .scLoadNext h i ∧ k < 512 ∧ j = (i.toNat + 1 + k) % 512 ∧ valid = true ∧
          ∀ m, m < k → (scRecord' s ((i.toNat + 1 + m) % 512)).valid = false) ∨
        (c = .scLoadKey h ∧ valid = true ∧ scFind s (fun r => r.code == s.fld Page.sc F.SC_KEY_code &&
          r.courtValid == (s.fld Page.sc F.SC_KEY_court_valid == 1) &&
          (!(s.fld Page.sc F.SC_KEY_court_valid == 1) || r.court == s.fld Page.sc F.SC_KEY_court)) = some j)) →
      ∃ t, exec c s = .next (regReply t h RegStatus.ok scCursorOff []) ∧ t = { s with regs := t.regs } ∧ RegsIn [Page.sc] s t ∧
        t.fld Page.sc F.SC_WIN_STAT_valid = valid.toNat ∧ t.fld Page.sc F.SC_WIN_STAT_index = j ∧
        ∀ k, k < 160 → t.reg (Page.sc + 0x400 + 4 * k) = BitVec.ofNat 32 (wordAt (recordBytes (scRecord' s j)) k)) ∧
    (∀ i : BitVec 9, ∃ t, exec (.scClearRecord h i) s = .next (regReply t h RegStatus.ok scCursorOff []) ∧ t = { s with score := t.score } ∧
      scRecord' t i.toNat = .free ∧ ∀ k, k ≠ i.toNat → scRecord' t k = scRecord' s k) ∧
    ∃ t, exec (.scClearAll h) s = .next (regReply t h RegStatus.ok scCursorOff []) ∧ t = { s with regs := t.regs, score := [] } ∧
      t.fld Page.sc F.SC_LOST_count = 0 ∧ t.fld Page.sc F.SC_EVICTED_count = 0 ∧ t.fld Page.sc F.SC_SEQ_seq = s.fld Page.sc F.SC_SEQ_seq) ∧
  (∀ (h : RegHdr) (s : State), Accepted s h (Page.sc + 0x88) → ∃ t, exec (.scSave h) s = .next (regReply t h RegStatus.ok (Page.sc + 0x88) []) ∧
    t = { s with regs := t.regs, saving := some (scImage s) } ∧ t.fld Page.sc F.SC_SAVE_STAT_state = 1) ∧
  (∀ (s : State) (bs : List Byte), s.saving = some bs →
    (∃ t, exec (.scSaveDone true) s = .next t ∧ t = { s with regs := t.regs, saving := none } ∧ t.fld Page.sc F.SC_SAVE_STAT_state = 3) ∧
    ∃ t, exec (.scSaveDone false) s = .next t ∧ t.fld Page.sc F.SC_SAVE_STAT_state = 2 ∧
      t = { s with regs := t.regs, saving := none, flash := { s.flash with scoreOld := s.flash.scoreNew, scoreNew := bs } }) ∧
  ∀ (code : BitVec 16) (s : State), (rateOf s code.toNat (severityOf code.toNat)).2 ≠ 0 → ∃ t, exec (.rateTokenTick code) s = .next t ∧
    t = { s with spent := t.spent } ∧ KMap.get t.spent 0 code.toNat = KMap.get s.spent 0 code.toNat - 1 ∧
    ∀ k, k ≠ code.toNat → KMap.get t.spent 0 k = KMap.get s.spent 0 k

/-- CTR_FREEZE, CTR_UNFREEZE, CTR_CLEAR, the snapshots, SNAPSHOT_COPY_DONE and CTR_ARM (R421 to R425): a freeze holds every counter; a clear takes
the programmable ones to 0; a snapshot freezes, counts itself and writes a permitted court's entries under a header not yet valid; the copy's end
makes the headers valid and returns to the named state; an action is armed for a number not yet decided. Choices of the model this rests on:
notes/assumptions/131.md. -/
def Obligations.CountersAndSnapshots : Prop :=
  (∀ (h : RegHdr) (s : State), Accepted s h ctrCmdOff →
    (∀ c v, (c, v) ∈ ([(.ctrFreeze h, 1), (.ctrUnfreeze h, 0)] : List (Instr × Nat)) →
      ∃ t, exec c s = .next (regReply t h RegStatus.ok ctrCmdOff []) ∧ t = { s with regs := t.regs } ∧ t.fld Page.ctr F.CTR_STAT_frozen = v ∧
        ∀ o, o ≠ Page.ctr + 0x44 → t.reg o = s.reg o) ∧
    (∃ t, exec (.ctrClear h) s = .next (regReply t h RegStatus.ok ctrCmdOff []) ∧ t = { s with regs := t.regs } ∧
      ∀ o, t.reg o = if countedPage o = true ∧ 0x140 ≤ o % 0x1000 ∧ o % 0x1000 < 0x180 then regReset o else s.reg o) ∧
    ∀ c hold, (c, hold) ∈ ([(.ctrSnapshotReturn h, false), (.ctrSnapshotHold h, true)] : List (Instr × Bool)) →
      (s.snap ≠ none → ∃ t, exec c s = .next (regReply t h RegStatus.ok ctrCmdOff []) ∧
        t = { s with snapQueue := s.snapQueue ++ [(hold, s.lastHuddle)] }) ∧
      ∀ (n : Nat) (pages : List Nat) (base : Nat), s.snap = none → s.fld Page.ctr F.CTR_BANK_DEV_tiles = 0 → n < 16 → pages = courtPages s n →
        base = s.fld48 Page.ctr F.CTR_BANK_base_lo F.CTR_BANK_base_hi n →
        (∀ k, k < 16 → ((s.fld (Page.court k) F.COURT_PERMIT_counter_read = 1 ∧ s.fld Page.ctr F.CTR_BANK_tiles k ≠ 0) ↔ k = n)) →
        bankTiles pages.length ≤ s.fld Page.ctr F.CTR_BANK_tiles n → Memory.wf s.mem = true → Stores s ctrWho base 64 →
        Stores s ctrWho (base + tileBytes) (128 * pages.length) →
        ∃ t, exec c s = .next (regReply t h RegStatus.ok ctrCmdOff []) ∧ t.fld Page.ctr F.CTR_STAT_frozen = 1 ∧
          t.fld Page.ctr F.CTR_STAT_copying = 1 ∧ t.fld Page.ctr F.CTR_STAT_dev_short = 1 ∧ t.fld Page.ctr F.CTR_STAT_bank_short = 0 ∧
          t.fld Page.ctr F.CTR_SNAP_SEQ_seq = (s.fld Page.ctr F.CTR_SNAP_SEQ_seq + 1) % 2 ^ 32 ∧
          t.snap = some ⟨hold || s.fld Page.ctr F.CTR_STAT_frozen == 1, [(base, bankHeader t s.lastHuddle pages.length n true)]⟩ ∧
          bytesAt t base 64 = bankHeader t s.lastHuddle pages.length n false ∧
          (∀ i p, pages[i]? = some p → bytesAt t (base + tileBytes + 128 * i) 128 = bankEntry s p) ∧
          ∀ a, (a < base ∨ base + 64 ≤ a) → (a < base + tileBytes ∨ base + tileBytes + 128 * pages.length ≤ a) →
            Memory.byte t.mem a = Memory.byte s.mem a) ∧
  (∀ (s : State) (x : Snap), s.snap = some x → (∀ b ∈ x.banks, Stores s ctrWho b.1 b.2.length) → Memory.wf s.mem = true →
    x.banks.Pairwise (fun b c => b.1 + b.2.length ≤ c.1 ∨ c.1 + c.2.length ≤ b.1) →
    (s.snapQueue = [] → ∃ t, exec .snapshotCopyDone s = .next t ∧ t.snap = none ∧ t.fld Page.ctr F.CTR_STAT_copying = 0 ∧
      t.fld Page.ctr F.CTR_STAT_frozen = x.hold.toNat ∧ (∀ b ∈ x.banks, bytesAt t b.1 b.2.length = b.2) ∧
      ∀ a, (∀ b ∈ x.banks, a < b.1 ∨ b.1 + b.2.length ≤ a) → Memory.byte t.mem a = Memory.byte s.mem a) ∧
    ∀ q rest, s.snapQueue = q :: rest → ∃ t, exec .snapshotCopyDone s = .next t ∧ t.snapQueue = rest ∧ t.snap ≠ none ∧
      t.fld Page.ctr F.CTR_STAT_frozen = 1) ∧
  ∀ (h : RegHdr) (action : BitVec 3) (gid : BitVec 16) (s : State) (late : Bool), Accepted s h (Page.ctr + 0x90) →
    (late = true ↔ ∃ i, groupIndex s gid.toNat = some i ∧ numDecided (group s i) (ctrArmNum s) = true) →
    (late = false → action ∈ [1#3, 3#3, 4#3] → ∃ t, exec (.ctrArm h action gid) s = .next (regReply t h RegStatus.ok (Page.ctr + 0x90) []) ∧
      t = { s with regs := t.regs } ∧ RegsIn [Page.ctr] s t ∧ ctrArmedAt t gid.toNat (ctrArmNum s) = true ∧
      t.fld Page.ctr F.CTR_ARM_action = action.toNat ∧ t.fld Page.ctr F.CTR_STAT_armed = 1 ∧ t.fld Page.ctr F.CTR_STAT_arm_outcome = 0) ∧
    (late = true ∨ action ∉ [1#3, 3#3, 4#3] →
      exec (.ctrArm h action gid) s = .next (regReply s h RegStatus.range (Page.ctr + 0x90) []))

/-! ## Power, droop and temperature -/

/-- VCORE_MODE_WRITE, PACE_MODE_WRITE, VCORE_RAMP_END and POWER_CONTROL_PERIOD (R429, R430, R433 to R435, Table 18.7): a mode governs the set point
or the throttle once written; the controller takes the first action that applies, and raises cap-unmet at the 100th period with none left. -/
def Obligations.ModesAndPowerControl : Prop :=
  (∀ (h : RegHdr) (die mode : BitVec 2) (s : State), Accepted s h (Page.sns + 0x70 + 4 * die.toNat) →
    ∃ t, exec (.vcoreModeWrite h die mode) s = .next (regReply t h RegStatus.ok (Page.sns + 0x70 + 4 * die.toNat) []) ∧
      t = { s with regs := t.regs, power := { s.power with ramps := t.power.ramps } } ∧ RegsIn [Page.sns] s t ∧
      t.fld Page.sns F.SNS_VCORE_mode die.toNat = mode.toNat ∧
      (∀ d, d < 4 → d ≠ die.toNat → t.fld Page.sns F.SNS_VCORE_mode d = s.fld Page.sns F.SNS_VCORE_mode d) ∧ PowerShown t) ∧
  (∀ (h : RegHdr) (region : BitVec 5) (mode : BitVec 3) (s : State), Accepted s h (Page.sns + 0x200 + 4 * region.toNat) →
    ∃ t, exec (.paceModeWrite h region mode) s = .next (regReply t h RegStatus.ok (Page.sns + 0x200 + 4 * region.toNat) []) ∧
      t = { s with regs := t.regs, power := { s.power with ramps := t.power.ramps } } ∧ RegsIn [Page.sns] s t ∧
      t.fld Page.sns F.SNS_REGION_pace_mode region.toNat = mode.toNat ∧
      (∀ r, r < 32 → r ≠ region.toNat → t.fld Page.sns F.SNS_REGION_pace_mode r = s.fld Page.sns F.SNS_REGION_pace_mode r) ∧
      PowerShown t) ∧
  (∀ (die : BitVec 2) (s : State), KMap.get s.power.ramps 0 die.toNat ≠ 0 → ∃ t, exec (.vcoreRampEnd die) s = .next t ∧
    t = { s with power := { s.power with ramps := t.power.ramps } } ∧ KMap.get t.power.ramps 0 die.toNat = 0 ∧
    ∀ d, d ≠ die.toNat → KMap.get t.power.ramps 0 d = KMap.get s.power.ramps 0 d) ∧
  ∀ (input compute stackW hub loss : BitVec 16) (s : State) (p c cap : Nat) (low stuck : Bool), p = input.toNat →
    c = s.fld Page.sns F.SNS_CAP_cap_w → cap = (if c = 0 ∨ 4400 < c then 4400 else c) →
    low = decide (p + 10 * s.fld Page.sns F.SNS_CAP_hyst < cap) →
    (stuck = true ↔ cap < p ∧ (∀ d, d < 4 → ceilingOf s d ≤ 600) ∧ ∀ r, r < 32 → throttleOf s r = 7) →
    ∃ t, exec (.powerControlPeriod input compute stackW hub loss) s = .next t ∧ PowerFrame s t ∧ PowerShown t ∧
      t.fld Page.sns F.SNS_POWER_input_w = p ∧ t.fld Page.sns F.SNS_POWER_peak_w = max (s.fld Page.sns F.SNS_POWER_peak_w) p ∧
      t.fld Page.sns F.SNS_PWR_CD_compute_w = compute.toNat ∧ t.fld Page.sns F.SNS_PWR_CD_stacks_w = stackW.toNat ∧
      t.fld Page.sns F.SNS_PWR_HUB_hub_w = hub.toNat ∧ t.fld Page.sns F.SNS_PWR_HUB_loss_w = loss.toNat ∧
      (∀ d, d < 4 → ceilingOf t d =
        if cap < p then (if 600 < ceilingOf s d then ceilingOf s d - 5 else ceilingOf s d)
        else if low = true ∧ ∀ r, r < 32 → throttleOf s r = 0 then min 850 (ceilingOf s d + 5) else ceilingOf s d) ∧
      (∀ r, r < 32 → throttleOf t r =
        if cap < p then (if ∃ d, d < 4 ∧ 600 < ceilingOf s d then throttleOf s r else min 7 (throttleOf s r + 1))
        else if low then throttleOf s r - 1 else throttleOf s r) ∧
      (stuck = false → t.power.beyond = 0) ∧ (stuck = true → s.power.beyond < 100 → t.power.beyond = s.power.beyond + 1) ∧
      (stuck = true → s.power.beyond = 99 → errSet t Page.sns Err.sns_cap_unmet = true)

/-- The droop commands (R436, R437) and the thermal ones (R438 to R440, R470, Table 18.4): droop throttles its region until it releases; a reading
meets the thresholds of its die or stack; a trip closes the gates, takes every die to 0.60 V and runs the device-fatal sequence, as does a rail
outside its tolerance. Choices of the model this rests on: notes/assumptions/118.md. -/
def Obligations.DroopAndTemperature : Prop :=
  (∀ (region : BitVec 5) (s : State) (r : Nat), r = region.toNat →
    (bit (s.fld Page.sns F.SNS_DROOP_STAT_regions) r = false → ∃ t, exec (.droopEngage region) s = .next t ∧ PowerFrame s t ∧
      RegsIn [Page.sns] s t ∧ PowerShown t ∧
      (∀ k, k < 32 → bit (t.fld Page.sns F.SNS_DROOP_STAT_regions) k = (decide (k = r) || bit (s.fld Page.sns F.SNS_DROOP_STAT_regions) k)) ∧
      t.fld Page.sns F.SNS_REGION_droop_events r = min (s.fld Page.sns F.SNS_REGION_droop_events r + 1) 65535) ∧
    (bit (s.fld Page.sns F.SNS_DROOP_STAT_regions) r = true →
      (∃ t, exec (.droopRelease region) s = .next t ∧ PowerFrame s t ∧ RegsIn [Page.sns] s t ∧ PowerShown t ∧
        ∀ k, k < 32 → bit (t.fld Page.sns F.SNS_DROOP_STAT_regions) k = (decide (k ≠ r) && bit (s.fld Page.sns F.SNS_DROOP_STAT_regions) k)) ∧
      ∃ t, exec (.droopSustained region) s = .next t ∧ Recorded s t ∧ errSet t Page.sns Err.sns_droop_sustained = true)) ∧
  (∀ (stack : BitVec 5) (engage : Bool) (s : State), KMap.get s.power.droopStacks false stack.toNat ≠ engage →
    ∃ t, exec (.stackDroop stack engage) s = .next t ∧ PowerFrame s t ∧ RegsIn [Page.sns] s t ∧ PowerShown t ∧
      KMap.get t.power.droopStacks false stack.toNat = engage ∧ t.power.hotStacks = s.power.hotStacks ∧
      ∀ k, k < 32 → bit (t.fld Page.sns F.SNS_STK_DROOP_stacks) k =
        (KMap.get t.power.hotStacks false k || KMap.get t.power.droopStacks false k)) ∧
  (∀ (sensor : BitVec 7) (tj : BitVec 16) (s : State) (i v warn hot : Nat), i = sensor.toNat → i < 68 → v = tj.toNat →
    warn = s.fld Page.sns F.SNS_THERM_CTL_warn_c → hot = s.fld Page.sns F.SNS_THERM_CTL_hot_c →
    (v < 16 * min 115 (s.fld Page.sns F.SNS_THERM_CTL_trip_c) → ∃ t, exec (.thermalSample sensor tj) s = .next t ∧ PowerFrame s t ∧
      PowerShown t ∧ t.fld Page.sns F.SNS_TEMP_tj i = v ∧ t.fld Page.sns F.SNS_TEMP_max i = max (s.fld Page.sns F.SNS_TEMP_max i) v ∧
      (∀ j, j < 68 → j ≠ i → t.fld Page.sns F.SNS_TEMP_tj j = s.fld Page.sns F.SNS_TEMP_tj j) ∧
      (∀ j, j < 68 → t.fld Page.sns F.SNS_TEMP_tj j ≤ t.fld Page.sns F.SNS_TEMP_MAX_tj) ∧
      t.fld Page.sns F.SNS_TEMP_MAX_tj = t.fld Page.sns F.SNS_TEMP_tj (t.fld Page.sns F.SNS_TEMP_MAX_sensor) ∧
      (∀ d m, d = i / 8 → i < 32 → (∃ k, k < 8 ∧ m = t.fld Page.sns F.SNS_TEMP_tj (8 * d + k)) →
        (∀ k, k < 8 → t.fld Page.sns F.SNS_TEMP_tj (8 * d + k) ≤ m) →
        KMap.get t.power.hot false d = hotAfter hot m (KMap.get s.power.hot false d) ∧
        (16 * warn ≤ m → KMap.get s.power.warm false d = false → errSet t Page.sns Err.sns_thermal_warn = true) ∧
        (16 * hot ≤ m → KMap.get s.power.hot false d = false → errSet t Page.sns Err.sns_thermal_hot = true)) ∧
      (36 ≤ i → KMap.get t.power.hotStacks false (i - 36) = hotAfter hot v (KMap.get s.power.hotStacks false (i - 36)) ∧
        (16 * hot ≤ v → KMap.get s.power.hotStacks false (i - 36) = false → errSet t Page.sns Err.sns_thermal_hot = true)) ∧
      (32 ≤ i → i < 36 → t.power = { s.power with ramps := t.power.ramps })) ∧
    (s.power.tripped = false → 16 * min 115 (s.fld Page.sns F.SNS_THERM_CTL_trip_c) ≤ v →
      ∃ t, exec (.thermalSample sensor tj) s = .next t ∧ t.power.tripped = true ∧ t.power.gates = true ∧
        (∀ d, d < 4 → t.fld Page.sns F.SNS_VCORE_effective_mv d = 600) ∧ errSet t Page.sns Err.sns_thermal_trip = true ∧
        DeviceFatal s t 0x0515)) ∧
  (∀ s : State, ∃ t, exec .thermalCeilingTick s = .next t ∧ PowerFrame s t ∧ RegsIn [Page.sns] s t ∧ PowerShown t ∧
    ∀ d m, d < 4 → (∃ k, k < 8 ∧ m = s.fld Page.sns F.SNS_TEMP_tj (8 * d + k)) → (∀ k, k < 8 → s.fld Page.sns F.SNS_TEMP_tj (8 * d + k) ≤ m) →
      thermCeilingOf t d = if 16 * s.fld Page.sns F.SNS_THERM_CTL_warn_c ≤ m then max 600 (thermCeilingOf s d - 5)
        else if m + 48 < 16 * s.fld Page.sns F.SNS_THERM_CTL_warn_c then min 850 (thermCeilingOf s d + 5) else thermCeilingOf s d) ∧
  ∀ (rail : BitVec 3) (mv : BitVec 16) (s : State), ∃ t, exec (.railFault rail mv) s = .next t ∧ DeviceFatal s t 0x0514 ∧
    errSet t Page.sns Err.sns_rail_fault = true ∧
    (rail.toNat < 4 → t.fld Page.sns F.SNS_VMEAS_mv rail.toNat = mv.toNat)

/-! ## Starts, resets and the rails -/

/-- The resets and the loss of power (R450, R404, R474, R475, R481, Tables 19.5 and 20.5): a package reset keeps the stacks, the Scorecard, the flash
and the fuses; a fall of power-good or of the 12 V input takes everything outside the management island; the loss of the auxiliary rail leaves
the flash and the fuses. Choices of the model this rests on: notes/assumptions/123.md, notes/assumptions/125.md, notes/assumptions/126.md,
notes/assumptions/127.md. -/
def Obligations.ResetsAndRails : Prop :=
  (∀ (c : Instr) (s : State) (reason : Nat), (c, reason) ∈ ([(.resetNAssert, 2), (.watchdogReset, 5)] : List (Instr × Nat)) →
    s.board.aux = true → NoWindow s → ∃ t, exec c s = .next t ∧ PackageReset s t reason) ∧
  (∀ (h : RegHdr) (s : State), Accepted s h (Page.pkg + 0x5C) → NoWindow s → ∃ t, exec (.fwReset h) s = .next t ∧
    PackageReset (regReply s h RegStatus.ok (Page.pkg + 0x5C) []) t 3) ∧
  (∀ s : State, s.board.pwrgood = true →
    (s.board.dies = true → ∃ t, exec .pwrgoodDeassert s = .next t ∧ RailsLost s t false) ∧
    (s.board.dies = false → exec .pwrgoodDeassert s = .next { s with board := { s.board with pwrgood := false } }) ∧
    ∃ t, exec .vin12Undervoltage s = .next t ∧ RailsLost s t true ∧ errSet t Page.sns Err.sns_rail_fault = true) ∧
  (∀ s : State, s.board.aux = true → ∃ t, exec .v3p3AuxRemoved s = .next t ∧
    t = { State.reset with
          pending := s.pending, outbox := s.outbox, freeCount := s.freeCount, fuses := s.fuses
          flash := { s.flash with act := s.fld Page.pkg F.PKG_ACT_STAT_outcome }, board := { Board.init with aux := false } }) ∧
  (∀ s : State, s.board.aux = false → ∃ t, exec .auxPowerOn s = .next t ∧
    t = { s with regs := t.regs, board := { s.board with aux := true } } ∧ t.fld Page.pkg F.PKG_BOOT_reason = 1 ∧ OnlyPage s t Page.pkg) ∧
  (∀ (level : Bool) (s : State), s.board.aux = true → s.fld Page.pkg F.PKG_HOLDUP_holdup_ok ≠ level.toNat →
    ((s.board.starting = none ∨ level = false) → ∃ t, exec (.holdupOkChange level) s = .next t ∧ t = { s with regs := t.regs } ∧
      t.fld Page.pkg F.PKG_HOLDUP_holdup_ok = level.toNat ∧ ∀ o, o ≠ Page.pkg + 0x70 → t.reg o = s.reg o) ∧
    ∀ i, level = true → s.board.starting = some i → s.board.atStep3 = false → i.badSector = none → s.flash.copied < s.flash.total →
      s.flash.total ≤ s.flash.copied + 1024 → ∃ t, exec (.holdupOkChange level) s = .next t ∧ t.flash.copied = s.flash.total ∧
        ∀ k, KMap.get t.flash.active.chunks [] k = if 32 * s.flash.copied ≤ k ∧ k < 32 * s.flash.total
          then KMap.get s.flash.staging.chunks [] k else KMap.get s.flash.active.chunks [] k) ∧
  ∀ (clock : BitVec 3) (s : State),
    (clock = 4#3 → s.board.pwrgood = true → ∃ t, exec (.refclkLoss clock) s = .next t ∧ DeviceFatal s t 0xF004 ∧
      t.fld Page.pkg F.PKG_HUB_trained = 0) ∧
    (clock = 3#3 → s.board.aux = true → s.board.spDown = false → ∃ t, exec (.refclkLoss clock) s = .next t ∧
      t.board = { s.board with spDown := true } ∧ errSet t Page.sp Err.sp_link_down = true) ∧
    ∀ lo hi, (clock, lo, hi) ∈ ([(0#3, 0, 7), (1#3, 7, 13), (2#3, 13, 19)] : List (BitVec 3 × Nat × Nat)) →
      ∃ t, exec (.refclkLoss clock) s = .next t ∧ t.mem = s.mem ∧ t.regions = s.regions ∧
        ∀ q, q < 19 → portMode t q = if lo ≤ q ∧ q < hi then 0 else portMode s q

/-- The start (R445, R447, R452, R453, R458, R472, R492, R499, Tables 19.5 and 20.4): fuses and strap, the flash, the image and the settings, then
the dies once power-good stands; it waits where its rail is missing, and ends in ready, in recovery, or where a hub link fails. Choices of the
model this rests on: notes/assumptions/3.md, notes/assumptions/119.md, notes/assumptions/122.md. -/
def Obligations.StartSequence : Prop :=
  (∀ (i : StartInput) (s : State), s.board.aux = true → s.fld Page.pkg F.PKG_BOOT_boot_phase = 0 → s.board.starting = none →
    ∃ t, exec (.packageStart i) s = .next t ∧ t.fld Page.pkg F.PKG_SERIAL_LO_serial = s.fuses.serial.toNat % 2 ^ 32 ∧
      t.fld Page.pkg F.PKG_SERIAL_HI_serial = s.fuses.serial.toNat / 2 ^ 32 ∧ t.fld Page.sb F.SB_ADDR_strap = i.strap.toNat ∧
      t.fld Page.sb F.SB_ADDR_address = 0x58 + i.strap.toNat ∧
      (s.board.v1p8 = false → t = { s with regs := t.regs, board := { s.board with starting := some i, atStep3 := true } }) ∧
      (s.board.v1p8 = true → FlashRead s t i)) ∧
  (∀ s : State, s.board.aux = true → s.board.v1p8 = false →
    (s.board.starting = none ∨ s.board.atStep3 = false →
      exec .v1p8InTolerance s = .next { s with board := { s.board with v1p8 := true } }) ∧
    ∀ i, s.board.starting = some i → s.board.atStep3 = true → ∃ t, exec .v1p8InTolerance s = .next t ∧
      FlashRead { s with board := { s.board with v1p8 := true } } t i) ∧
  (∀ s : State, s.board.aux = true → s.board.pwrgood = false → s.fld Page.pkg F.PKG_BOOT_boot_phase = 1 →
    ∃ t, exec .regulatorStartTimeout s = .next t ∧ t.board = { s.board with pwrgood := true } ∧ DeviceFatal s t 0x0514 ∧
      errSet t Page.sns Err.sns_rail_fault = true) ∧
  ∀ (x : StartTests) (s : State), s.board.aux = true → s.board.pwrgood = false →
    (s.fld Page.pkg F.PKG_BOOT_boot_phase ≠ 1 → exec (.pwrgoodAssert x) s = .next { s with board := { s.board with pwrgood := true } }) ∧
    (s.fld Page.pkg F.PKG_BOOT_boot_phase = 1 → x.hub ≠ 0xF#4 → ∃ t, exec (.pwrgoodAssert x) s = .next t ∧ DeviceFatal s t 0xF004 ∧
      t.fld Page.pkg F.PKG_BOOT_boot_phase = 1 ∧ t.fld Page.pkg F.PKG_HUB_trained = x.hub.toNat) ∧
    ∀ b h, b = settingsBlob s → h = slotHeader s.flash.active → s.fld Page.pkg F.PKG_BOOT_boot_phase = 1 → x.hub = 0xF#4 → x.repairOk = true →
      x.faults = [] → s.flash.repair = [] → s.flash.scoreNew = [] → imgLayout h 1 = 1 →
      ∃ t, exec (.pwrgoodAssert x) s = .next t ∧ t.fld Page.pkg F.PKG_BOOT_boot_phase = 3 ∧ t.fld Page.pkg F.PKG_HUB_trained = 0xF ∧
        t.board = { s.board with pwrgood := true, dies := true, scoreLost := false } ∧ t.power.gates = s.power.tripped ∧
        t.flash = s.flash ∧ t.fatal = s.fatal ∧
        (∀ r, r < 32 → t.fld (Page.ump r) F.UMP_RETIRED_clusters = 0 ∧ ∀ p, p < 17 → ClusterMode t (clusterOf r p) (if p = 16 then 6 else 0)) ∧
        (∀ q, q < 19 → x.ports.getLsbD q = false → portMode t q = 0) ∧
        (bit (wordAt b 4) 17 = true → ∀ p ∈ [Page.pkg, Page.flash, Page.sm, Page.sp], t.reg (p + 0x24) = 1#32)

/-! ## Firmware, activation and attestation -/

/-- FLASH_XFER_CTL's commands and the end of each (R445, R449): a transfer begins, takes chunks at the next offset only, is verified and rejected
with the reason of the first check that fails, or ends; nothing is accepted while one is being performed. Choices of the model this rests on:
notes/assumptions/120.md, notes/assumptions/124.md. -/
def Obligations.FlashTransfers : Prop :=
  (∀ (h : RegHdr) (s : State), Accepted s h xferCtlOff →
    (xferState s = 2 → ∀ c ∈ ([.flashBeginFirmware h, .flashBeginSettings h, .flashChunk h, .flashVerify h, .flashAbandon h] : List Instr),
      exec c s = .next (regReply s h RegStatus.denied xferCtlOff [])) ∧
    (xferState s ≠ 2 →
      (s.fld Page.pkg F.PKG_FW_CTL_update_lock = 1 ∨ s.fld Page.pkg F.PKG_ACT_ARM_armed = 1 →
        exec (.flashBeginFirmware h) s = .next (regReply s h RegStatus.denied xferCtlOff [])) ∧
      (s.fld Page.pkg F.PKG_FW_CTL_update_lock = 0 → s.fld Page.pkg F.PKG_ACT_ARM_armed = 0 →
        ∃ t, exec (.flashBeginFirmware h) s = .next (regReply t h RegStatus.ok xferCtlOff []) ∧
          t = { s with regs := t.regs, xfer := some ⟨false, 0, [], 0⟩ } ∧ OnlyPage s t Page.flash ∧ xferState t = 1 ∧
          t.fld Page.flash F.FLASH_XFER_STAT_reason = 0 ∧ t.reg (Page.flash + 0x50) = 0#32) ∧
      (∃ t, exec (.flashBeginSettings h) s = .next (regReply t h RegStatus.ok xferCtlOff []) ∧
        t = { s with regs := t.regs, xfer := some ⟨true, 0, [], 0⟩, score := t.score, spent := t.spent, outbox := t.outbox } ∧
        xferState t = 1 ∧ (s.fld Page.pkg F.PKG_ACT_ARM_armed = 1 → t.fld Page.pkg F.PKG_ACT_ARM_armed = 0 ∧
          t.fld Page.pkg F.PKG_ACT_STAT_outcome = 3 ∧ errSet t Page.pkg Err.pkg_act_dropped = true)) ∧
      (∃ t, exec (.flashAbandon h) s = .next (regReply t h RegStatus.ok xferCtlOff []) ∧ t = { s with regs := t.regs, xfer := none } ∧
        OnlyPage s t Page.flash ∧ xferState t = 0 ∧ t.reg (Page.flash + 0x50) = 0#32) ∧
      (s.xfer = none → ∀ c ∈ ([.flashChunk h, .flashVerify h] : List Instr),
        exec c s = .next (regReply s h RegStatus.denied xferCtlOff [])) ∧
      ∀ x off, s.xfer = some x → off = s.fld Page.flash F.FLASH_XFER_OFF_offset →
        (∃ t, exec (.flashVerify h) s = .next (regReply t h RegStatus.ok xferCtlOff []) ∧
          t = { s with regs := t.regs, xfer := some { x with doing := 4 } } ∧ OnlyPage s t Page.flash ∧ xferState t = 2) ∧
        (xferState s ≠ 1 → exec (.flashChunk h) s = .next (regReply s h RegStatus.denied xferCtlOff [])) ∧
        (xferState s = 1 → (off ≠ x.next ∨ (if x.settings then 65536 else 2 ^ 25) ≤ off) →
          exec (.flashChunk h) s = .next (regReply s h RegStatus.range xferCtlOff [])) ∧
        (xferState s = 1 → off = x.next → off < (if x.settings then 65536 else 2 ^ 25) →
          ∃ t, exec (.flashChunk h) s = .next (regReply t h RegStatus.ok xferCtlOff []) ∧
            t = { s with regs := t.regs, xfer := some { x with doing := 3 } } ∧ OnlyPage s t Page.flash ∧ xferState t = 2))) ∧
  ∀ (s : State) (x : Xfer), s.xfer = some x → xferState s = 2 →
    (x.doing = 3 → ∃ t, exec .flashXferDone s = .next t ∧ xferState t = 1 ∧
      t = { s with regs := t.regs, flash := t.flash, xfer := some { x with
        next := x.next + 2048, buffer := if x.settings then x.buffer ++ winBytes s else [], doing := 0 } } ∧
      (x.settings = true → t.flash = s.flash) ∧
      ∀ k, x.settings = false → k = x.next / 2048 → t.flash = { s.flash with staging := ⟨false, t.flash.staging.chunks⟩ } ∧
        KMap.get t.flash.staging.chunks [] k = winBytes s ∧ ∀ m, m / 32 ≠ k / 32 →
          KMap.get t.flash.staging.chunks [] m = KMap.get s.flash.staging.chunks [] m) ∧
    (x.doing = 4 → x.settings = false → ∃ t, exec .flashXferDone s = .next t ∧ t.flash = s.flash ∧ t.xfer = some { x with doing := 0 } ∧
      t.reg (Page.flash + 0x50) = BitVec.ofNat 32 (imgVersion (slotHeader s.flash.staging)) ∧
      t.fld Page.flash F.FLASH_XFER_STAT_reason = imageReason s s.flash.staging ∧
      (imageReason s s.flash.staging = 0 → xferState t = 3) ∧
      (imageReason s s.flash.staging ≠ 0 → xferState t = 4 ∧ errSet t Page.flash Err.flash_image_rejected = true)) ∧
    (x.doing = 4 → x.settings = true → ∃ t, exec .flashXferDone s = .next t ∧
      (blobOk x.buffer = true → xferState t = 5 ∧ t.xfer = none ∧ t.flash = { s.flash with settings := t.flash.settings } ∧
        t.flash.settings.head? = some (overlay (x.buffer.take (wordAt x.buffer 2)) 4 (wordBytes [wordAt (settingsBlob s) 1 + 1])) ∧
        t.flash.settings.drop 1 = [settingsBlob s]) ∧
      (blobOk x.buffer = false → xferState t = 4 ∧ t.flash = s.flash ∧ errSet t Page.flash Err.flash_image_rejected = true))

/-- Confirm, install, the activation's arm, cancel, restart and window timeout, and the attestation report (R454 to R458, R461, R464): an arm that
nothing stands against is armed; the restart journals a copy of the staged image and resets the package; a report binds the nonce. Choices of the
model this rests on: notes/assumptions/123.md, notes/assumptions/125.md, notes/assumptions/129.md. -/
def Obligations.ActivationAndAttestation : Prop :=
  (∀ (h : RegHdr) (s : State), Accepted s h fwCmdOff →
    (s.fld Page.pkg F.PKG_FW_CTL_confirm_pending = 0 → exec (.fwConfirm h) s = .next (regReply s h RegStatus.denied fwCmdOff [])) ∧
    (s.fld Page.pkg F.PKG_FW_CTL_confirm_pending = 1 → s.fuses.counter < 256 →
      ∃ t x, exec (.fwConfirm h) s = .next (regReply t h RegStatus.ok fwCmdOff []) ∧ x = slotHeader s.flash.active ∧
        t = { s with regs := t.regs, fuses := { s.fuses with counter := max s.fuses.counter (min (imgSecurity x) 255) }
                     flash := { s.flash with confirmed := some (sm3 x), retained := ⟨none, none, none⟩ } } ∧
        OnlyPage s t Page.pkg ∧ t.fld Page.pkg F.PKG_FW_CTL_fuse_counter = t.fuses.counter ∧
        t.fld Page.pkg F.PKG_FW_CTL_confirm_pending = 0) ∧
    (∃ t, exec (.fwCancelArm h) s = .next (regReply t h RegStatus.ok fwCmdOff []) ∧ t.fld Page.pkg F.PKG_ACT_ARM_armed = 0 ∧
      (s.fld Page.pkg F.PKG_ACT_ARM_armed = 0 → t = s) ∧ (s.fld Page.pkg F.PKG_ACT_ARM_armed = 1 → Recorded s t ∧
        t.fld Page.pkg F.PKG_ACT_STAT_outcome = 6 ∧ errSet t Page.pkg Err.pkg_act_dropped = true)) ∧
    (¬ (s.fld Page.pkg F.PKG_BOOT_boot_phase = 4 ∧ s.fld Page.pkg F.PKG_HOLDUP_holdup_ok = 1 ∧
        s.fld Page.pkg F.PKG_FW_CTL_update_lock = 0 ∧ xferState s = 3) →
      exec (.fwInstall h) s = .next (regReply s h RegStatus.denied fwCmdOff [])) ∧
    ∀ n, s.fld Page.pkg F.PKG_BOOT_boot_phase = 4 → s.fld Page.pkg F.PKG_HOLDUP_holdup_ok = 1 →
      s.fld Page.pkg F.PKG_FW_CTL_update_lock = 0 → xferState s = 3 → n = imgSectors (slotHeader s.flash.staging) → n ≤ 1024 →
      ∃ t, exec (.fwInstall h) s = .next t ∧ t.fld Page.pkg F.PKG_BOOT_reason = 3 ∧ t.fld Page.pkg F.PKG_BOOT_boot_phase = 0 ∧
        t.flash.total = n ∧ t.flash.copied = n ∧ t.flash.staging = s.flash.staging ∧ t.fuses = s.fuses ∧
        ∀ k, KMap.get t.flash.active.chunks [] k = if k < 32 * n then KMap.get s.flash.staging.chunks [] k
          else KMap.get s.flash.active.chunks [] k) ∧
  (∀ (h : RegHdr) (group : BitVec 16) (s : State) (r st : Nat) (late : Bool), Accepted s h (Page.pkg + 0x60) →
    (late = true ↔ ∃ i, groupIndex s group.toNat = some i ∧ numDecided (Sys2Proof.Machine.group s i) (actNum s) = true) →
    r = (if s.fld Page.pkg F.PKG_FW_CTL_update_lock = 1 then 1 else if anyWindow s then 2
      else if s.fld Page.pkg F.PKG_HOLDUP_holdup_ok = 0 then 3 else if xferState s ≠ 3 then 4 else if late then 5 else 0) →
    st = (if r = 0 then RegStatus.ok else if r = 5 then RegStatus.range else RegStatus.denied) →
    ∃ t, exec (.activationArm h group) s = .next (regReply t h st (Page.pkg + 0x60) []) ∧ t = { s with regs := t.regs } ∧
      OnlyPage s t Page.pkg ∧ t.fld Page.pkg F.PKG_ACT_STAT_refusal = r ∧
      (r = 0 → t.fld Page.pkg F.PKG_ACT_ARM_armed = 1 ∧ t.fld Page.pkg F.PKG_ACT_ARM_group = group.toNat ∧
        t.fld Page.pkg F.PKG_ACT_STAT_outcome = 1) ∧
      (r ≠ 0 → t.reg (Page.pkg + 0x60) = s.reg (Page.pkg + 0x60))) ∧
  (∀ s : State, s.draining = true → anyWindow s = false → ∃ t, exec .activationRestart s = .next t ∧
    t.fld Page.pkg F.PKG_BOOT_reason = 4 ∧ t.fld Page.pkg F.PKG_BOOT_boot_phase = 0 ∧ t.assign = [] ∧ t.draining = false ∧
    t.flash.act = 2 ∧ t.flash.total = imgSectors (slotHeader s.flash.staging) ∧ t.flash.copied = 0 ∧
    t.flash.staging = s.flash.staging ∧ t.flash.active = s.flash.active ∧ t.flash.scoreOld = s.flash.scoreNew ∧ t.fuses = s.fuses) ∧
  (∀ s : State, s.draining = true → anyWindow s = true → ∃ t, exec .activationWindowTimeout s = .next t ∧
    ∀ n, (caddie s n).window ≠ none → s.fld (Page.caddie n) F.CADDIE_COMMIT_STAT_state ≠ 4 →
      (caddie t n).window = none ∧ (caddie t n).staged = [] ∧ t.fld (Page.caddie n) F.CADDIE_COMMIT_STAT_last_outcome = 2) ∧
  (∀ (h : RegHdr) (s : State), Accepted s h (Page.mc + 0x70) → ∃ t b, exec (.attest h) s = .next (regReply t h RegStatus.ok (Page.mc + 0x70) []) ∧
    t = { s with regs := t.regs, attest := some b } ∧ OnlyPage s t Page.mc ∧ t.fld Page.mc F.MC_ATTEST_STAT_state = 1 ∧
    b.take 6 = [0xA7#8, 0x7E#8, 0x01#8, 0x00#8] ++ beBytes 2 (deviceId s) ∧ (b.drop 16).take 8 = beBytes 8 s.fuses.serial.toNat ∧
    (b.drop 32).take 32 = (List.range 8).flatMap fun i => beBytes 4 (s.fld Page.mc F.MC_NONCE_nonce i)) ∧
  ∀ (s : State) (b : List Byte), s.attest = some b → ∃ t sig, exec .attestDone s = .next t ∧
    t = { s with regs := t.regs, attest := none, report := b ++ sig, freeCount := t.freeCount } ∧ OnlyPage s t Page.mc ∧
    sig.length = 64 ∧ t.fld Page.mc F.MC_ATTEST_STAT_state = 2 ∧
    t.fld Page.mc F.MC_ATTEST_STAT_seq = (s.fld Page.mc F.MC_ATTEST_STAT_seq + 1) % 65536
end

