-- ==== Sys2Proof/Laws/Maps.lean ====
section
/-! SUPPORT. Canonical maps: what a map holds after a key is set, and that the canonical form is kept. -/

namespace Sys2Proof.Laws

open Sys2Proof.Machine

variable {α : Type}

/-- Keys strictly rising, as a pairwise relation. -/
theorem rising_iff (m : KMap α) : KMap.rising m = true ↔ m.Pairwise fun a b => a.1 < b.1 := by
  induction m with
  | nil => simp [KMap.rising]
  | cons e t ih =>
    cases t with
    | nil => simp [KMap.rising]
    | cons f u =>
      obtain ⟨a, v⟩ := e
      obtain ⟨b, w⟩ := f
      simp only [KMap.rising, Bool.and_eq_true, decide_eq_true_eq, ih, List.pairwise_cons]
      constructor
      · rintro ⟨hab, hb, hu⟩
        refine ⟨?_, hb, hu⟩
        intro x hx
        rcases List.mem_cons.1 hx with rfl | hx
        · exact hab
        · exact Nat.lt_trans hab (hb x hx)
      · rintro ⟨h1, h2, h3⟩
        exact ⟨h1 (b, w) (by simp), h2, h3⟩

theorem wf_iff [DecidableEq α] (m : KMap α) (d : Nat → α) :
    KMap.wf m d = true ↔ (m.Pairwise fun a b => a.1 < b.1) ∧ ∀ e ∈ m, e.2 ≠ d e.1 := by
  simp [KMap.wf, rising_iff]

@[simp] theorem get_nil (d : α) (k : Nat) : KMap.get [] d k = d := rfl

theorem get_cons (a : Nat) (v : α) (t : KMap α) (d : α) (k : Nat) :
    KMap.get ((a, v) :: t) d k = if a = k then v else KMap.get t d k := rfl

/-- A key that no entry has reads the default. -/
theorem get_of_not_mem (m : KMap α) (d : α) (k : Nat) (h : ∀ e ∈ m, e.1 ≠ k) : KMap.get m d k = d := by
  induction m with
  | nil => rfl
  | cons e t ih =>
    obtain ⟨a, v⟩ := e
    have : a ≠ k := h (a, v) (by simp)
    simp [get_cons, this, ih fun x hx => h x (by simp [hx])]

theorem get_append (m n : KMap α) (d : α) (k : Nat) (h : ∀ e ∈ m, e.1 ≠ k) :
    KMap.get (m ++ n) d k = KMap.get n d k := by
  induction m with
  | nil => rfl
  | cons e t ih =>
    obtain ⟨a, v⟩ := e
    have : a ≠ k := h (a, v) (by simp)
    simp [get_cons, this, ih fun x hx => h x (by simp [hx])]

theorem get_erase_self (m : KMap α) (d : α) (k : Nat) : KMap.get (KMap.erase m k) d k = d := by
  refine get_of_not_mem _ _ _ fun e he => ?_
  simp [KMap.erase] at he
  exact he.2

theorem get_erase_ne (m : KMap α) (d : α) {j k : Nat} (h : j ≠ k) :
    KMap.get (KMap.erase m k) d j = KMap.get m d j := by
  induction m with
  | nil => rfl
  | cons e t ih =>
    obtain ⟨a, v⟩ := e
    by_cases hk : a = k
    · subst hk
      have : a ≠ j := fun e => h e.symm
      simpa [KMap.erase, get_cons, this] using ih
    · have : KMap.erase ((a, v) :: t) k = (a, v) :: KMap.erase t k := by simp [KMap.erase, hk]
      rw [this, get_cons, get_cons, ih]

/-- What a prefix takes satisfies its test. -/
theorem of_mem_takeWhile {p : α → Bool} {l : List α} {x : α} (h : x ∈ l.takeWhile p) : p x = true := by
  induction l with
  | nil => simp at h
  | cons a t ih =>
    by_cases ha : p a = true
    · simp only [ha, List.takeWhile_cons_of_pos, List.mem_cons] at h
      rcases h with rfl | h
      · exact ha
      · exact ih h
    · simp [ha] at h

/-- Splitting a map at a key and reading another one. -/
theorem get_split (m : KMap α) (d : α) {j k : Nat} (v : α) (h : j ≠ k) :
    KMap.get (m.takeWhile (fun e => e.1 < k) ++ (k, v) :: m.dropWhile (fun e => e.1 < k)) d j = KMap.get m d j := by
  induction m with
  | nil => simp [get_cons, Ne.symm h]
  | cons e t ih =>
    obtain ⟨a, w⟩ := e
    by_cases ha : a < k
    · simp only [List.takeWhile_cons, List.dropWhile_cons, decide_eq_true_eq, ha, ↓reduceIte, List.cons_append, get_cons]
      rw [ih]
    · simp [ha, get_cons, Ne.symm h]

/-- Setting a key: that key reads the value, even the default. -/
@[simp] theorem get_set_self [DecidableEq α] (m : KMap α) (d : α) (k : Nat) (v : α) :
    KMap.get (KMap.set m d k v) d k = v := by
  unfold KMap.set
  by_cases hv : v = d
  · simp [hv, get_erase_self]
  · simp only [hv, ↓reduceIte]
    rw [get_append]
    · simp [get_cons]
    · intro e he
      have := of_mem_takeWhile he
      simp at this
      omega

/-- Setting a key leaves every other key as it was. -/
theorem get_set_ne [DecidableEq α] (m : KMap α) (d d' : α) {j k : Nat} (v : α) (h : j ≠ k) :
    KMap.get (KMap.set m d k v) d' j = KMap.get m d' j := by
  unfold KMap.set
  by_cases hv : v = d
  · simp [hv, get_erase_ne _ _ h]
  · simp only [hv, ↓reduceIte]
    rw [get_split _ _ _ h, get_erase_ne _ _ h]

theorem get_set [DecidableEq α] (m : KMap α) (d : α) (j k : Nat) (v : α) :
    KMap.get (KMap.set m d k v) d j = if j = k then v else KMap.get m d j := by
  by_cases h : j = k
  · subst h; simp
  · simp [h, get_set_ne _ _ _ _ h]

@[simp] theorem get_upd_self [DecidableEq α] (m : KMap α) (d : α) (k : Nat) (f : α → α) :
    KMap.get (KMap.upd m d k f) d k = f (KMap.get m d k) := by simp [KMap.upd]

theorem get_upd_ne [DecidableEq α] (m : KMap α) (d d' : α) {j k : Nat} (f : α → α) (h : j ≠ k) :
    KMap.get (KMap.upd m d k f) d' j = KMap.get m d' j := by simp [KMap.upd, get_set_ne _ _ _ _ h]

theorem erase_sublist (m : KMap α) (k : Nat) : (KMap.erase m k).Sublist m := by
  unfold KMap.erase; exact List.filter_sublist

theorem mem_set [DecidableEq α] {m : KMap α} {d : α} {k : Nat} {v : α} {e : Nat × α} (h : e ∈ KMap.set m d k v) :
    e = (k, v) ∧ v ≠ d ∨ e ∈ m ∧ e.1 ≠ k := by
  have erased {e : Nat × α} (h : e ∈ KMap.erase m k) : e ∈ m ∧ e.1 ≠ k := by
    simpa [KMap.erase] using h
  unfold KMap.set at h
  by_cases hv : v = d
  · simp only [hv, ↓reduceIte] at h
    exact Or.inr (erased h)
  · simp only [hv, ↓reduceIte, List.mem_append, List.mem_cons] at h
    rcases h with h | h | h
    · exact Or.inr (erased ((List.takeWhile_sublist _).subset h))
    · exact Or.inl ⟨h, hv⟩
    · exact Or.inr (erased ((List.dropWhile_sublist _).subset h))

theorem dropWhile_ge {m : KMap α} {k : Nat} (hm : m.Pairwise fun a b => a.1 < b.1) :
    ∀ e ∈ m.dropWhile (fun e => e.1 < k), k ≤ e.1 := by
  induction m with
  | nil => simp
  | cons e t ih =>
    have ht := (List.pairwise_cons.1 hm)
    by_cases ha : e.1 < k
    · simpa [ha] using ih ht.2
    · simp only [ha, decide_false, Bool.false_eq_true, not_false_eq_true, List.dropWhile_cons_of_neg]
      intro x hx
      rcases List.mem_cons.1 hx with rfl | hx
      · omega
      · have := ht.1 x hx; omega

/-- Setting a key keeps the canonical form. -/
theorem set_wf [DecidableEq α] (m : KMap α) (d : Nat → α) (k : Nat) (v : α) (h : KMap.wf m d = true) :
    KMap.wf (KMap.set m (d k) k v) d = true := by
  rw [wf_iff] at h ⊢
  obtain ⟨hp, hd⟩ := h
  have he := hp.sublist (erase_sublist m k)
  refine ⟨?_, ?_⟩
  · unfold KMap.set
    by_cases hv : v = d k
    · simpa [hv] using he
    · simp only [hv, ↓reduceIte]
      rw [List.pairwise_append]
      refine ⟨he.sublist (List.takeWhile_sublist _), ?_, ?_⟩
      · rw [List.pairwise_cons]
        refine ⟨?_, he.sublist (List.dropWhile_sublist _)⟩
        intro e hx
        have h1 := dropWhile_ge he e hx
        have h2 : e.1 ≠ k := by
          have := (List.dropWhile_sublist _).subset hx
          simp [KMap.erase] at this
          exact this.2
        show k < e.1
        omega
      · intro a ha b hb
        have h1 := of_mem_takeWhile ha
        simp at h1
        rcases List.mem_cons.1 hb with rfl | hb
        · exact h1
        · have := dropWhile_ge he b hb; omega
  · intro e hx
    rcases mem_set hx with ⟨rfl, h1⟩ | ⟨h1, _⟩
    · exact h1
    · exact hd e h1

theorem upd_wf [DecidableEq α] (m : KMap α) (d : Nat → α) (k : Nat) (f : α → α) (h : KMap.wf m d = true) :
    KMap.wf (KMap.upd m (d k) k f) d = true := set_wf m d k _ h

theorem wf_nil [DecidableEq α] (d : Nat → α) : KMap.wf ([] : KMap α) d = true := rfl

/-- Taking entries out keeps the canonical form. -/
theorem filter_wf [DecidableEq α] (m : KMap α) (d : Nat → α) (p : Nat × α → Bool) (h : KMap.wf m d = true) :
    KMap.wf (m.filter p) d = true := by
  rw [wf_iff] at h ⊢
  exact ⟨h.1.sublist List.filter_sublist, fun e he => h.2 e (List.mem_filter.1 he).1⟩

end Sys2Proof.Laws
end

