-- ==== Sys2Proof/Laws/State.lean ====
section
/-! SUPPORT. What each update of the state leaves in each field, one lemma per field per update. -/

namespace Sys2Proof.Laws

open Sys2Proof.Machine

@[simp] theorem setReg_pending (s : State) (o : Nat) (v : W32) : (s.setReg o v).pending = s.pending := rfl
@[simp] theorem setReg_assign (s : State) (o : Nat) (v : W32) : (s.setReg o v).assign = s.assign := rfl
@[simp] theorem setReg_mem (s : State) (o : Nat) (v : W32) : (s.setReg o v).mem = s.mem := rfl
@[simp] theorem setReg_trailers (s : State) (o : Nat) (v : W32) : (s.setReg o v).trailers = s.trailers := rfl
@[simp] theorem setReg_pathBad (s : State) (o : Nat) (v : W32) : (s.setReg o v).pathBad = s.pathBad := rfl
@[simp] theorem setReg_stackMap (s : State) (o : Nat) (v : W32) : (s.setReg o v).stackMap = s.stackMap := rfl
@[simp] theorem setReg_score (s : State) (o : Nat) (v : W32) : (s.setReg o v).score = s.score := rfl
@[simp] theorem setReg_rates (s : State) (o : Nat) (v : W32) : (s.setReg o v).rates = s.rates := rfl
@[simp] theorem setReg_spent (s : State) (o : Nat) (v : W32) : (s.setReg o v).spent = s.spent := rfl
@[simp] theorem setReg_saving (s : State) (o : Nat) (v : W32) : (s.setReg o v).saving = s.saving := rfl
@[simp] theorem setReg_snap (s : State) (o : Nat) (v : W32) : (s.setReg o v).snap = s.snap := rfl
@[simp] theorem setReg_snapQueue (s : State) (o : Nat) (v : W32) : (s.setReg o v).snapQueue = s.snapQueue := rfl
@[simp] theorem setReg_flash (s : State) (o : Nat) (v : W32) : (s.setReg o v).flash = s.flash := rfl
@[simp] theorem setReg_fuses (s : State) (o : Nat) (v : W32) : (s.setReg o v).fuses = s.fuses := rfl
@[simp] theorem setReg_board (s : State) (o : Nat) (v : W32) : (s.setReg o v).board = s.board := rfl
@[simp] theorem setReg_xfer (s : State) (o : Nat) (v : W32) : (s.setReg o v).xfer = s.xfer := rfl
@[simp] theorem setReg_attest (s : State) (o : Nat) (v : W32) : (s.setReg o v).attest = s.attest := rfl
@[simp] theorem setReg_report (s : State) (o : Nat) (v : W32) : (s.setReg o v).report = s.report := rfl
@[simp] theorem setReg_regions (s : State) (o : Nat) (v : W32) : (s.setReg o v).regions = s.regions := rfl
@[simp] theorem setReg_pbufs (s : State) (o : Nat) (v : W32) : (s.setReg o v).pbufs = s.pbufs := rfl
@[simp] theorem setReg_clusters (s : State) (o : Nat) (v : W32) : (s.setReg o v).clusters = s.clusters := rfl
@[simp] theorem setReg_roots (s : State) (o : Nat) (v : W32) : (s.setReg o v).roots = s.roots := rfl
@[simp] theorem setReg_caddies (s : State) (o : Nat) (v : W32) : (s.setReg o v).caddies = s.caddies := rfl
@[simp] theorem setReg_flows (s : State) (o : Nat) (v : W32) : (s.setReg o v).flows = s.flows := rfl
@[simp] theorem setReg_lanes (s : State) (o : Nat) (v : W32) : (s.setReg o v).lanes = s.lanes := rfl
@[simp] theorem setReg_paused (s : State) (o : Nat) (v : W32) : (s.setReg o v).paused = s.paused := rfl
@[simp] theorem setReg_groups (s : State) (o : Nat) (v : W32) : (s.setReg o v).groups = s.groups := rfl
@[simp] theorem setReg_plans (s : State) (o : Nat) (v : W32) : (s.setReg o v).plans = s.plans := rfl
@[simp] theorem setReg_runs (s : State) (o : Nat) (v : W32) : (s.setReg o v).runs = s.runs := rfl
@[simp] theorem setReg_relay (s : State) (o : Nat) (v : W32) : (s.setReg o v).relay = s.relay := rfl
@[simp] theorem setReg_noise (s : State) (o : Nat) (v : W32) : (s.setReg o v).noise = s.noise := rfl
@[simp] theorem setReg_draining (s : State) (o : Nat) (v : W32) : (s.setReg o v).draining = s.draining := rfl
@[simp] theorem setReg_jobs (s : State) (o : Nat) (v : W32) : (s.setReg o v).jobs = s.jobs := rfl
@[simp] theorem setReg_kept (s : State) (o : Nat) (v : W32) : (s.setReg o v).kept = s.kept := rfl
@[simp] theorem setReg_solved (s : State) (o : Nat) (v : W32) : (s.setReg o v).solved = s.solved := rfl
@[simp] theorem setReg_umps (s : State) (o : Nat) (v : W32) : (s.setReg o v).umps = s.umps := rfl
@[simp] theorem setReg_rowStrikes (s : State) (o : Nat) (v : W32) : (s.setReg o v).rowStrikes = s.rowStrikes := rfl
@[simp] theorem setReg_power (s : State) (o : Nat) (v : W32) : (s.setReg o v).power = s.power := rfl
@[simp] theorem setReg_sessions (s : State) (o : Nat) (v : W32) : (s.setReg o v).sessions = s.sessions := rfl
@[simp] theorem setReg_cmds (s : State) (o : Nat) (v : W32) : (s.setReg o v).cmds = s.cmds := rfl
@[simp] theorem setReg_stages (s : State) (o : Nat) (v : W32) : (s.setReg o v).stages = s.stages := rfl
@[simp] theorem setReg_outbox (s : State) (o : Nat) (v : W32) : (s.setReg o v).outbox = s.outbox := rfl
@[simp] theorem setReg_lastHuddle (s : State) (o : Nat) (v : W32) : (s.setReg o v).lastHuddle = s.lastHuddle := rfl
@[simp] theorem setReg_courtHuddle (s : State) (o : Nat) (v : W32) : (s.setReg o v).courtHuddle = s.courtHuddle := rfl
@[simp] theorem setReg_fatal (s : State) (o : Nat) (v : W32) : (s.setReg o v).fatal = s.fatal := rfl
@[simp] theorem setReg_freeCount (s : State) (o : Nat) (v : W32) : (s.setReg o v).freeCount = s.freeCount := rfl

@[simp] theorem setFld_pending (s : State) (p : Nat) (f : Fld) (v i : Nat) : (s.setFld p f v i).pending = s.pending := rfl
@[simp] theorem setFld_assign (s : State) (p : Nat) (f : Fld) (v i : Nat) : (s.setFld p f v i).assign = s.assign := rfl
@[simp] theorem setFld_mem (s : State) (p : Nat) (f : Fld) (v i : Nat) : (s.setFld p f v i).mem = s.mem := rfl
@[simp] theorem setFld_trailers (s : State) (p : Nat) (f : Fld) (v i : Nat) : (s.setFld p f v i).trailers = s.trailers := rfl
@[simp] theorem setFld_pathBad (s : State) (p : Nat) (f : Fld) (v i : Nat) : (s.setFld p f v i).pathBad = s.pathBad := rfl
@[simp] theorem setFld_stackMap (s : State) (p : Nat) (f : Fld) (v i : Nat) : (s.setFld p f v i).stackMap = s.stackMap := rfl
@[simp] theorem setFld_score (s : State) (p : Nat) (f : Fld) (v i : Nat) : (s.setFld p f v i).score = s.score := rfl
@[simp] theorem setFld_rates (s : State) (p : Nat) (f : Fld) (v i : Nat) : (s.setFld p f v i).rates = s.rates := rfl
@[simp] theorem setFld_spent (s : State) (p : Nat) (f : Fld) (v i : Nat) : (s.setFld p f v i).spent = s.spent := rfl
@[simp] theorem setFld_saving (s : State) (p : Nat) (f : Fld) (v i : Nat) : (s.setFld p f v i).saving = s.saving := rfl
@[simp] theorem setFld_snap (s : State) (p : Nat) (f : Fld) (v i : Nat) : (s.setFld p f v i).snap = s.snap := rfl
@[simp] theorem setFld_snapQueue (s : State) (p : Nat) (f : Fld) (v i : Nat) : (s.setFld p f v i).snapQueue = s.snapQueue := rfl
@[simp] theorem setFld_flash (s : State) (p : Nat) (f : Fld) (v i : Nat) : (s.setFld p f v i).flash = s.flash := rfl
@[simp] theorem setFld_fuses (s : State) (p : Nat) (f : Fld) (v i : Nat) : (s.setFld p f v i).fuses = s.fuses := rfl
@[simp] theorem setFld_board (s : State) (p : Nat) (f : Fld) (v i : Nat) : (s.setFld p f v i).board = s.board := rfl
@[simp] theorem setFld_xfer (s : State) (p : Nat) (f : Fld) (v i : Nat) : (s.setFld p f v i).xfer = s.xfer := rfl
@[simp] theorem setFld_attest (s : State) (p : Nat) (f : Fld) (v i : Nat) : (s.setFld p f v i).attest = s.attest := rfl
@[simp] theorem setFld_report (s : State) (p : Nat) (f : Fld) (v i : Nat) : (s.setFld p f v i).report = s.report := rfl
@[simp] theorem setFld_regions (s : State) (p : Nat) (f : Fld) (v i : Nat) : (s.setFld p f v i).regions = s.regions := rfl
@[simp] theorem setFld_pbufs (s : State) (p : Nat) (f : Fld) (v i : Nat) : (s.setFld p f v i).pbufs = s.pbufs := rfl
@[simp] theorem setFld_clusters (s : State) (p : Nat) (f : Fld) (v i : Nat) : (s.setFld p f v i).clusters = s.clusters := rfl
@[simp] theorem setFld_roots (s : State) (p : Nat) (f : Fld) (v i : Nat) : (s.setFld p f v i).roots = s.roots := rfl
@[simp] theorem setFld_caddies (s : State) (p : Nat) (f : Fld) (v i : Nat) : (s.setFld p f v i).caddies = s.caddies := rfl
@[simp] theorem setFld_flows (s : State) (p : Nat) (f : Fld) (v i : Nat) : (s.setFld p f v i).flows = s.flows := rfl
@[simp] theorem setFld_lanes (s : State) (p : Nat) (f : Fld) (v i : Nat) : (s.setFld p f v i).lanes = s.lanes := rfl
@[simp] theorem setFld_paused (s : State) (p : Nat) (f : Fld) (v i : Nat) : (s.setFld p f v i).paused = s.paused := rfl
@[simp] theorem setFld_groups (s : State) (p : Nat) (f : Fld) (v i : Nat) : (s.setFld p f v i).groups = s.groups := rfl
@[simp] theorem setFld_plans (s : State) (p : Nat) (f : Fld) (v i : Nat) : (s.setFld p f v i).plans = s.plans := rfl
@[simp] theorem setFld_runs (s : State) (p : Nat) (f : Fld) (v i : Nat) : (s.setFld p f v i).runs = s.runs := rfl
@[simp] theorem setFld_relay (s : State) (p : Nat) (f : Fld) (v i : Nat) : (s.setFld p f v i).relay = s.relay := rfl
@[simp] theorem setFld_noise (s : State) (p : Nat) (f : Fld) (v i : Nat) : (s.setFld p f v i).noise = s.noise := rfl
@[simp] theorem setFld_draining (s : State) (p : Nat) (f : Fld) (v i : Nat) : (s.setFld p f v i).draining = s.draining := rfl
@[simp] theorem setFld_jobs (s : State) (p : Nat) (f : Fld) (v i : Nat) : (s.setFld p f v i).jobs = s.jobs := rfl
@[simp] theorem setFld_kept (s : State) (p : Nat) (f : Fld) (v i : Nat) : (s.setFld p f v i).kept = s.kept := rfl
@[simp] theorem setFld_solved (s : State) (p : Nat) (f : Fld) (v i : Nat) : (s.setFld p f v i).solved = s.solved := rfl
@[simp] theorem setFld_umps (s : State) (p : Nat) (f : Fld) (v i : Nat) : (s.setFld p f v i).umps = s.umps := rfl
@[simp] theorem setFld_rowStrikes (s : State) (p : Nat) (f : Fld) (v i : Nat) : (s.setFld p f v i).rowStrikes = s.rowStrikes := rfl
@[simp] theorem setFld_power (s : State) (p : Nat) (f : Fld) (v i : Nat) : (s.setFld p f v i).power = s.power := rfl
@[simp] theorem setFld_sessions (s : State) (p : Nat) (f : Fld) (v i : Nat) : (s.setFld p f v i).sessions = s.sessions := rfl
@[simp] theorem setFld_cmds (s : State) (p : Nat) (f : Fld) (v i : Nat) : (s.setFld p f v i).cmds = s.cmds := rfl
@[simp] theorem setFld_stages (s : State) (p : Nat) (f : Fld) (v i : Nat) : (s.setFld p f v i).stages = s.stages := rfl
@[simp] theorem setFld_outbox (s : State) (p : Nat) (f : Fld) (v i : Nat) : (s.setFld p f v i).outbox = s.outbox := rfl
@[simp] theorem setFld_lastHuddle (s : State) (p : Nat) (f : Fld) (v i : Nat) : (s.setFld p f v i).lastHuddle = s.lastHuddle := rfl
@[simp] theorem setFld_courtHuddle (s : State) (p : Nat) (f : Fld) (v i : Nat) : (s.setFld p f v i).courtHuddle = s.courtHuddle := rfl
@[simp] theorem setFld_fatal (s : State) (p : Nat) (f : Fld) (v i : Nat) : (s.setFld p f v i).fatal = s.fatal := rfl
@[simp] theorem setFld_freeCount (s : State) (p : Nat) (f : Fld) (v i : Nat) : (s.setFld p f v i).freeCount = s.freeCount := rfl

@[simp] theorem setRegion_pending (s : State) (r : Nat) (x : Region) : (s.setRegion r x).pending = s.pending := rfl
@[simp] theorem setRegion_assign (s : State) (r : Nat) (x : Region) : (s.setRegion r x).assign = s.assign := rfl
@[simp] theorem setRegion_regs (s : State) (r : Nat) (x : Region) : (s.setRegion r x).regs = s.regs := rfl
@[simp] theorem setRegion_mem (s : State) (r : Nat) (x : Region) : (s.setRegion r x).mem = s.mem := rfl
@[simp] theorem setRegion_trailers (s : State) (r : Nat) (x : Region) : (s.setRegion r x).trailers = s.trailers := rfl
@[simp] theorem setRegion_pathBad (s : State) (r : Nat) (x : Region) : (s.setRegion r x).pathBad = s.pathBad := rfl
@[simp] theorem setRegion_stackMap (s : State) (r : Nat) (x : Region) : (s.setRegion r x).stackMap = s.stackMap := rfl
@[simp] theorem setRegion_score (s : State) (r : Nat) (x : Region) : (s.setRegion r x).score = s.score := rfl
@[simp] theorem setRegion_rates (s : State) (r : Nat) (x : Region) : (s.setRegion r x).rates = s.rates := rfl
@[simp] theorem setRegion_spent (s : State) (r : Nat) (x : Region) : (s.setRegion r x).spent = s.spent := rfl
@[simp] theorem setRegion_saving (s : State) (r : Nat) (x : Region) : (s.setRegion r x).saving = s.saving := rfl
@[simp] theorem setRegion_snap (s : State) (r : Nat) (x : Region) : (s.setRegion r x).snap = s.snap := rfl
@[simp] theorem setRegion_snapQueue (s : State) (r : Nat) (x : Region) : (s.setRegion r x).snapQueue = s.snapQueue := rfl
@[simp] theorem setRegion_flash (s : State) (r : Nat) (x : Region) : (s.setRegion r x).flash = s.flash := rfl
@[simp] theorem setRegion_fuses (s : State) (r : Nat) (x : Region) : (s.setRegion r x).fuses = s.fuses := rfl
@[simp] theorem setRegion_board (s : State) (r : Nat) (x : Region) : (s.setRegion r x).board = s.board := rfl
@[simp] theorem setRegion_xfer (s : State) (r : Nat) (x : Region) : (s.setRegion r x).xfer = s.xfer := rfl
@[simp] theorem setRegion_attest (s : State) (r : Nat) (x : Region) : (s.setRegion r x).attest = s.attest := rfl
@[simp] theorem setRegion_report (s : State) (r : Nat) (x : Region) : (s.setRegion r x).report = s.report := rfl
@[simp] theorem setRegion_pbufs (s : State) (r : Nat) (x : Region) : (s.setRegion r x).pbufs = s.pbufs := rfl
@[simp] theorem setRegion_clusters (s : State) (r : Nat) (x : Region) : (s.setRegion r x).clusters = s.clusters := rfl
@[simp] theorem setRegion_roots (s : State) (r : Nat) (x : Region) : (s.setRegion r x).roots = s.roots := rfl
@[simp] theorem setRegion_caddies (s : State) (r : Nat) (x : Region) : (s.setRegion r x).caddies = s.caddies := rfl
@[simp] theorem setRegion_flows (s : State) (r : Nat) (x : Region) : (s.setRegion r x).flows = s.flows := rfl
@[simp] theorem setRegion_lanes (s : State) (r : Nat) (x : Region) : (s.setRegion r x).lanes = s.lanes := rfl
@[simp] theorem setRegion_paused (s : State) (r : Nat) (x : Region) : (s.setRegion r x).paused = s.paused := rfl
@[simp] theorem setRegion_groups (s : State) (r : Nat) (x : Region) : (s.setRegion r x).groups = s.groups := rfl
@[simp] theorem setRegion_plans (s : State) (r : Nat) (x : Region) : (s.setRegion r x).plans = s.plans := rfl
@[simp] theorem setRegion_runs (s : State) (r : Nat) (x : Region) : (s.setRegion r x).runs = s.runs := rfl
@[simp] theorem setRegion_relay (s : State) (r : Nat) (x : Region) : (s.setRegion r x).relay = s.relay := rfl
@[simp] theorem setRegion_noise (s : State) (r : Nat) (x : Region) : (s.setRegion r x).noise = s.noise := rfl
@[simp] theorem setRegion_draining (s : State) (r : Nat) (x : Region) : (s.setRegion r x).draining = s.draining := rfl
@[simp] theorem setRegion_jobs (s : State) (r : Nat) (x : Region) : (s.setRegion r x).jobs = s.jobs := rfl
@[simp] theorem setRegion_kept (s : State) (r : Nat) (x : Region) : (s.setRegion r x).kept = s.kept := rfl
@[simp] theorem setRegion_solved (s : State) (r : Nat) (x : Region) : (s.setRegion r x).solved = s.solved := rfl
@[simp] theorem setRegion_umps (s : State) (r : Nat) (x : Region) : (s.setRegion r x).umps = s.umps := rfl
@[simp] theorem setRegion_rowStrikes (s : State) (r : Nat) (x : Region) : (s.setRegion r x).rowStrikes = s.rowStrikes := rfl
@[simp] theorem setRegion_power (s : State) (r : Nat) (x : Region) : (s.setRegion r x).power = s.power := rfl
@[simp] theorem setRegion_sessions (s : State) (r : Nat) (x : Region) : (s.setRegion r x).sessions = s.sessions := rfl
@[simp] theorem setRegion_cmds (s : State) (r : Nat) (x : Region) : (s.setRegion r x).cmds = s.cmds := rfl
@[simp] theorem setRegion_stages (s : State) (r : Nat) (x : Region) : (s.setRegion r x).stages = s.stages := rfl
@[simp] theorem setRegion_outbox (s : State) (r : Nat) (x : Region) : (s.setRegion r x).outbox = s.outbox := rfl
@[simp] theorem setRegion_lastHuddle (s : State) (r : Nat) (x : Region) : (s.setRegion r x).lastHuddle = s.lastHuddle := rfl
@[simp] theorem setRegion_courtHuddle (s : State) (r : Nat) (x : Region) : (s.setRegion r x).courtHuddle = s.courtHuddle := rfl
@[simp] theorem setRegion_fatal (s : State) (r : Nat) (x : Region) : (s.setRegion r x).fatal = s.fatal := rfl
@[simp] theorem setRegion_freeCount (s : State) (r : Nat) (x : Region) : (s.setRegion r x).freeCount = s.freeCount := rfl

@[simp] theorem updRegion_pending (s : State) (r : Nat) (g : Region → Region) : (s.updRegion r g).pending = s.pending := rfl
@[simp] theorem updRegion_assign (s : State) (r : Nat) (g : Region → Region) : (s.updRegion r g).assign = s.assign := rfl
@[simp] theorem updRegion_regs (s : State) (r : Nat) (g : Region → Region) : (s.updRegion r g).regs = s.regs := rfl
@[simp] theorem updRegion_mem (s : State) (r : Nat) (g : Region → Region) : (s.updRegion r g).mem = s.mem := rfl
@[simp] theorem updRegion_trailers (s : State) (r : Nat) (g : Region → Region) : (s.updRegion r g).trailers = s.trailers := rfl
@[simp] theorem updRegion_pathBad (s : State) (r : Nat) (g : Region → Region) : (s.updRegion r g).pathBad = s.pathBad := rfl
@[simp] theorem updRegion_stackMap (s : State) (r : Nat) (g : Region → Region) : (s.updRegion r g).stackMap = s.stackMap := rfl
@[simp] theorem updRegion_score (s : State) (r : Nat) (g : Region → Region) : (s.updRegion r g).score = s.score := rfl
@[simp] theorem updRegion_rates (s : State) (r : Nat) (g : Region → Region) : (s.updRegion r g).rates = s.rates := rfl
@[simp] theorem updRegion_spent (s : State) (r : Nat) (g : Region → Region) : (s.updRegion r g).spent = s.spent := rfl
@[simp] theorem updRegion_saving (s : State) (r : Nat) (g : Region → Region) : (s.updRegion r g).saving = s.saving := rfl
@[simp] theorem updRegion_snap (s : State) (r : Nat) (g : Region → Region) : (s.updRegion r g).snap = s.snap := rfl
@[simp] theorem updRegion_snapQueue (s : State) (r : Nat) (g : Region → Region) : (s.updRegion r g).snapQueue = s.snapQueue := rfl
@[simp] theorem updRegion_flash (s : State) (r : Nat) (g : Region → Region) : (s.updRegion r g).flash = s.flash := rfl
@[simp] theorem updRegion_fuses (s : State) (r : Nat) (g : Region → Region) : (s.updRegion r g).fuses = s.fuses := rfl
@[simp] theorem updRegion_board (s : State) (r : Nat) (g : Region → Region) : (s.updRegion r g).board = s.board := rfl
@[simp] theorem updRegion_xfer (s : State) (r : Nat) (g : Region → Region) : (s.updRegion r g).xfer = s.xfer := rfl
@[simp] theorem updRegion_attest (s : State) (r : Nat) (g : Region → Region) : (s.updRegion r g).attest = s.attest := rfl
@[simp] theorem updRegion_report (s : State) (r : Nat) (g : Region → Region) : (s.updRegion r g).report = s.report := rfl
@[simp] theorem updRegion_pbufs (s : State) (r : Nat) (g : Region → Region) : (s.updRegion r g).pbufs = s.pbufs := rfl
@[simp] theorem updRegion_clusters (s : State) (r : Nat) (g : Region → Region) : (s.updRegion r g).clusters = s.clusters := rfl
@[simp] theorem updRegion_roots (s : State) (r : Nat) (g : Region → Region) : (s.updRegion r g).roots = s.roots := rfl
@[simp] theorem updRegion_caddies (s : State) (r : Nat) (g : Region → Region) : (s.updRegion r g).caddies = s.caddies := rfl
@[simp] theorem updRegion_flows (s : State) (r : Nat) (g : Region → Region) : (s.updRegion r g).flows = s.flows := rfl
@[simp] theorem updRegion_lanes (s : State) (r : Nat) (g : Region → Region) : (s.updRegion r g).lanes = s.lanes := rfl
@[simp] theorem updRegion_paused (s : State) (r : Nat) (g : Region → Region) : (s.updRegion r g).paused = s.paused := rfl
@[simp] theorem updRegion_groups (s : State) (r : Nat) (g : Region → Region) : (s.updRegion r g).groups = s.groups := rfl
@[simp] theorem updRegion_plans (s : State) (r : Nat) (g : Region → Region) : (s.updRegion r g).plans = s.plans := rfl
@[simp] theorem updRegion_runs (s : State) (r : Nat) (g : Region → Region) : (s.updRegion r g).runs = s.runs := rfl
@[simp] theorem updRegion_relay (s : State) (r : Nat) (g : Region → Region) : (s.updRegion r g).relay = s.relay := rfl
@[simp] theorem updRegion_noise (s : State) (r : Nat) (g : Region → Region) : (s.updRegion r g).noise = s.noise := rfl
@[simp] theorem updRegion_draining (s : State) (r : Nat) (g : Region → Region) : (s.updRegion r g).draining = s.draining := rfl
@[simp] theorem updRegion_jobs (s : State) (r : Nat) (g : Region → Region) : (s.updRegion r g).jobs = s.jobs := rfl
@[simp] theorem updRegion_kept (s : State) (r : Nat) (g : Region → Region) : (s.updRegion r g).kept = s.kept := rfl
@[simp] theorem updRegion_solved (s : State) (r : Nat) (g : Region → Region) : (s.updRegion r g).solved = s.solved := rfl
@[simp] theorem updRegion_umps (s : State) (r : Nat) (g : Region → Region) : (s.updRegion r g).umps = s.umps := rfl
@[simp] theorem updRegion_rowStrikes (s : State) (r : Nat) (g : Region → Region) : (s.updRegion r g).rowStrikes = s.rowStrikes := rfl
@[simp] theorem updRegion_power (s : State) (r : Nat) (g : Region → Region) : (s.updRegion r g).power = s.power := rfl
@[simp] theorem updRegion_sessions (s : State) (r : Nat) (g : Region → Region) : (s.updRegion r g).sessions = s.sessions := rfl
@[simp] theorem updRegion_cmds (s : State) (r : Nat) (g : Region → Region) : (s.updRegion r g).cmds = s.cmds := rfl
@[simp] theorem updRegion_stages (s : State) (r : Nat) (g : Region → Region) : (s.updRegion r g).stages = s.stages := rfl
@[simp] theorem updRegion_outbox (s : State) (r : Nat) (g : Region → Region) : (s.updRegion r g).outbox = s.outbox := rfl
@[simp] theorem updRegion_lastHuddle (s : State) (r : Nat) (g : Region → Region) : (s.updRegion r g).lastHuddle = s.lastHuddle := rfl
@[simp] theorem updRegion_courtHuddle (s : State) (r : Nat) (g : Region → Region) : (s.updRegion r g).courtHuddle = s.courtHuddle := rfl
@[simp] theorem updRegion_fatal (s : State) (r : Nat) (g : Region → Region) : (s.updRegion r g).fatal = s.fatal := rfl
@[simp] theorem updRegion_freeCount (s : State) (r : Nat) (g : Region → Region) : (s.updRegion r g).freeCount = s.freeCount := rfl

@[simp] theorem setCluster_pending (s : State) (c : Nat) (x : Cluster) : (s.setCluster c x).pending = s.pending := rfl
@[simp] theorem setCluster_assign (s : State) (c : Nat) (x : Cluster) : (s.setCluster c x).assign = s.assign := rfl
@[simp] theorem setCluster_regs (s : State) (c : Nat) (x : Cluster) : (s.setCluster c x).regs = s.regs := rfl
@[simp] theorem setCluster_mem (s : State) (c : Nat) (x : Cluster) : (s.setCluster c x).mem = s.mem := rfl
@[simp] theorem setCluster_trailers (s : State) (c : Nat) (x : Cluster) : (s.setCluster c x).trailers = s.trailers := rfl
@[simp] theorem setCluster_pathBad (s : State) (c : Nat) (x : Cluster) : (s.setCluster c x).pathBad = s.pathBad := rfl
@[simp] theorem setCluster_stackMap (s : State) (c : Nat) (x : Cluster) : (s.setCluster c x).stackMap = s.stackMap := rfl
@[simp] theorem setCluster_score (s : State) (c : Nat) (x : Cluster) : (s.setCluster c x).score = s.score := rfl
@[simp] theorem setCluster_rates (s : State) (c : Nat) (x : Cluster) : (s.setCluster c x).rates = s.rates := rfl
@[simp] theorem setCluster_spent (s : State) (c : Nat) (x : Cluster) : (s.setCluster c x).spent = s.spent := rfl
@[simp] theorem setCluster_saving (s : State) (c : Nat) (x : Cluster) : (s.setCluster c x).saving = s.saving := rfl
@[simp] theorem setCluster_snap (s : State) (c : Nat) (x : Cluster) : (s.setCluster c x).snap = s.snap := rfl
@[simp] theorem setCluster_snapQueue (s : State) (c : Nat) (x : Cluster) : (s.setCluster c x).snapQueue = s.snapQueue := rfl
@[simp] theorem setCluster_flash (s : State) (c : Nat) (x : Cluster) : (s.setCluster c x).flash = s.flash := rfl
@[simp] theorem setCluster_fuses (s : State) (c : Nat) (x : Cluster) : (s.setCluster c x).fuses = s.fuses := rfl
@[simp] theorem setCluster_board (s : State) (c : Nat) (x : Cluster) : (s.setCluster c x).board = s.board := rfl
@[simp] theorem setCluster_xfer (s : State) (c : Nat) (x : Cluster) : (s.setCluster c x).xfer = s.xfer := rfl
@[simp] theorem setCluster_attest (s : State) (c : Nat) (x : Cluster) : (s.setCluster c x).attest = s.attest := rfl
@[simp] theorem setCluster_report (s : State) (c : Nat) (x : Cluster) : (s.setCluster c x).report = s.report := rfl
@[simp] theorem setCluster_regions (s : State) (c : Nat) (x : Cluster) : (s.setCluster c x).regions = s.regions := rfl
@[simp] theorem setCluster_pbufs (s : State) (c : Nat) (x : Cluster) : (s.setCluster c x).pbufs = s.pbufs := rfl
@[simp] theorem setCluster_roots (s : State) (c : Nat) (x : Cluster) : (s.setCluster c x).roots = s.roots := rfl
@[simp] theorem setCluster_caddies (s : State) (c : Nat) (x : Cluster) : (s.setCluster c x).caddies = s.caddies := rfl
@[simp] theorem setCluster_flows (s : State) (c : Nat) (x : Cluster) : (s.setCluster c x).flows = s.flows := rfl
@[simp] theorem setCluster_lanes (s : State) (c : Nat) (x : Cluster) : (s.setCluster c x).lanes = s.lanes := rfl
@[simp] theorem setCluster_paused (s : State) (c : Nat) (x : Cluster) : (s.setCluster c x).paused = s.paused := rfl
@[simp] theorem setCluster_groups (s : State) (c : Nat) (x : Cluster) : (s.setCluster c x).groups = s.groups := rfl
@[simp] theorem setCluster_plans (s : State) (c : Nat) (x : Cluster) : (s.setCluster c x).plans = s.plans := rfl
@[simp] theorem setCluster_runs (s : State) (c : Nat) (x : Cluster) : (s.setCluster c x).runs = s.runs := rfl
@[simp] theorem setCluster_relay (s : State) (c : Nat) (x : Cluster) : (s.setCluster c x).relay = s.relay := rfl
@[simp] theorem setCluster_noise (s : State) (c : Nat) (x : Cluster) : (s.setCluster c x).noise = s.noise := rfl
@[simp] theorem setCluster_draining (s : State) (c : Nat) (x : Cluster) : (s.setCluster c x).draining = s.draining := rfl
@[simp] theorem setCluster_jobs (s : State) (c : Nat) (x : Cluster) : (s.setCluster c x).jobs = s.jobs := rfl
@[simp] theorem setCluster_kept (s : State) (c : Nat) (x : Cluster) : (s.setCluster c x).kept = s.kept := rfl
@[simp] theorem setCluster_solved (s : State) (c : Nat) (x : Cluster) : (s.setCluster c x).solved = s.solved := rfl
@[simp] theorem setCluster_umps (s : State) (c : Nat) (x : Cluster) : (s.setCluster c x).umps = s.umps := rfl
@[simp] theorem setCluster_rowStrikes (s : State) (c : Nat) (x : Cluster) : (s.setCluster c x).rowStrikes = s.rowStrikes := rfl
@[simp] theorem setCluster_power (s : State) (c : Nat) (x : Cluster) : (s.setCluster c x).power = s.power := rfl
@[simp] theorem setCluster_sessions (s : State) (c : Nat) (x : Cluster) : (s.setCluster c x).sessions = s.sessions := rfl
@[simp] theorem setCluster_cmds (s : State) (c : Nat) (x : Cluster) : (s.setCluster c x).cmds = s.cmds := rfl
@[simp] theorem setCluster_stages (s : State) (c : Nat) (x : Cluster) : (s.setCluster c x).stages = s.stages := rfl
@[simp] theorem setCluster_outbox (s : State) (c : Nat) (x : Cluster) : (s.setCluster c x).outbox = s.outbox := rfl
@[simp] theorem setCluster_lastHuddle (s : State) (c : Nat) (x : Cluster) : (s.setCluster c x).lastHuddle = s.lastHuddle := rfl
@[simp] theorem setCluster_courtHuddle (s : State) (c : Nat) (x : Cluster) : (s.setCluster c x).courtHuddle = s.courtHuddle := rfl
@[simp] theorem setCluster_fatal (s : State) (c : Nat) (x : Cluster) : (s.setCluster c x).fatal = s.fatal := rfl
@[simp] theorem setCluster_freeCount (s : State) (c : Nat) (x : Cluster) : (s.setCluster c x).freeCount = s.freeCount := rfl

@[simp] theorem updCluster_pending (s : State) (c : Nat) (g : Cluster → Cluster) : (s.updCluster c g).pending = s.pending := rfl
@[simp] theorem updCluster_assign (s : State) (c : Nat) (g : Cluster → Cluster) : (s.updCluster c g).assign = s.assign := rfl
@[simp] theorem updCluster_regs (s : State) (c : Nat) (g : Cluster → Cluster) : (s.updCluster c g).regs = s.regs := rfl
@[simp] theorem updCluster_mem (s : State) (c : Nat) (g : Cluster → Cluster) : (s.updCluster c g).mem = s.mem := rfl
@[simp] theorem updCluster_trailers (s : State) (c : Nat) (g : Cluster → Cluster) : (s.updCluster c g).trailers = s.trailers := rfl
@[simp] theorem updCluster_pathBad (s : State) (c : Nat) (g : Cluster → Cluster) : (s.updCluster c g).pathBad = s.pathBad := rfl
@[simp] theorem updCluster_stackMap (s : State) (c : Nat) (g : Cluster → Cluster) : (s.updCluster c g).stackMap = s.stackMap := rfl
@[simp] theorem updCluster_score (s : State) (c : Nat) (g : Cluster → Cluster) : (s.updCluster c g).score = s.score := rfl
@[simp] theorem updCluster_rates (s : State) (c : Nat) (g : Cluster → Cluster) : (s.updCluster c g).rates = s.rates := rfl
@[simp] theorem updCluster_spent (s : State) (c : Nat) (g : Cluster → Cluster) : (s.updCluster c g).spent = s.spent := rfl
@[simp] theorem updCluster_saving (s : State) (c : Nat) (g : Cluster → Cluster) : (s.updCluster c g).saving = s.saving := rfl
@[simp] theorem updCluster_snap (s : State) (c : Nat) (g : Cluster → Cluster) : (s.updCluster c g).snap = s.snap := rfl
@[simp] theorem updCluster_snapQueue (s : State) (c : Nat) (g : Cluster → Cluster) : (s.updCluster c g).snapQueue = s.snapQueue := rfl
@[simp] theorem updCluster_flash (s : State) (c : Nat) (g : Cluster → Cluster) : (s.updCluster c g).flash = s.flash := rfl
@[simp] theorem updCluster_fuses (s : State) (c : Nat) (g : Cluster → Cluster) : (s.updCluster c g).fuses = s.fuses := rfl
@[simp] theorem updCluster_board (s : State) (c : Nat) (g : Cluster → Cluster) : (s.updCluster c g).board = s.board := rfl
@[simp] theorem updCluster_xfer (s : State) (c : Nat) (g : Cluster → Cluster) : (s.updCluster c g).xfer = s.xfer := rfl
@[simp] theorem updCluster_attest (s : State) (c : Nat) (g : Cluster → Cluster) : (s.updCluster c g).attest = s.attest := rfl
@[simp] theorem updCluster_report (s : State) (c : Nat) (g : Cluster → Cluster) : (s.updCluster c g).report = s.report := rfl
@[simp] theorem updCluster_regions (s : State) (c : Nat) (g : Cluster → Cluster) : (s.updCluster c g).regions = s.regions := rfl
@[simp] theorem updCluster_pbufs (s : State) (c : Nat) (g : Cluster → Cluster) : (s.updCluster c g).pbufs = s.pbufs := rfl
@[simp] theorem updCluster_roots (s : State) (c : Nat) (g : Cluster → Cluster) : (s.updCluster c g).roots = s.roots := rfl
@[simp] theorem updCluster_caddies (s : State) (c : Nat) (g : Cluster → Cluster) : (s.updCluster c g).caddies = s.caddies := rfl
@[simp] theorem updCluster_flows (s : State) (c : Nat) (g : Cluster → Cluster) : (s.updCluster c g).flows = s.flows := rfl
@[simp] theorem updCluster_lanes (s : State) (c : Nat) (g : Cluster → Cluster) : (s.updCluster c g).lanes = s.lanes := rfl
@[simp] theorem updCluster_paused (s : State) (c : Nat) (g : Cluster → Cluster) : (s.updCluster c g).paused = s.paused := rfl
@[simp] theorem updCluster_groups (s : State) (c : Nat) (g : Cluster → Cluster) : (s.updCluster c g).groups = s.groups := rfl
@[simp] theorem updCluster_plans (s : State) (c : Nat) (g : Cluster → Cluster) : (s.updCluster c g).plans = s.plans := rfl
@[simp] theorem updCluster_runs (s : State) (c : Nat) (g : Cluster → Cluster) : (s.updCluster c g).runs = s.runs := rfl
@[simp] theorem updCluster_relay (s : State) (c : Nat) (g : Cluster → Cluster) : (s.updCluster c g).relay = s.relay := rfl
@[simp] theorem updCluster_noise (s : State) (c : Nat) (g : Cluster → Cluster) : (s.updCluster c g).noise = s.noise := rfl
@[simp] theorem updCluster_draining (s : State) (c : Nat) (g : Cluster → Cluster) : (s.updCluster c g).draining = s.draining := rfl
@[simp] theorem updCluster_jobs (s : State) (c : Nat) (g : Cluster → Cluster) : (s.updCluster c g).jobs = s.jobs := rfl
@[simp] theorem updCluster_kept (s : State) (c : Nat) (g : Cluster → Cluster) : (s.updCluster c g).kept = s.kept := rfl
@[simp] theorem updCluster_solved (s : State) (c : Nat) (g : Cluster → Cluster) : (s.updCluster c g).solved = s.solved := rfl
@[simp] theorem updCluster_umps (s : State) (c : Nat) (g : Cluster → Cluster) : (s.updCluster c g).umps = s.umps := rfl
@[simp] theorem updCluster_rowStrikes (s : State) (c : Nat) (g : Cluster → Cluster) : (s.updCluster c g).rowStrikes = s.rowStrikes := rfl
@[simp] theorem updCluster_power (s : State) (c : Nat) (g : Cluster → Cluster) : (s.updCluster c g).power = s.power := rfl
@[simp] theorem updCluster_sessions (s : State) (c : Nat) (g : Cluster → Cluster) : (s.updCluster c g).sessions = s.sessions := rfl
@[simp] theorem updCluster_cmds (s : State) (c : Nat) (g : Cluster → Cluster) : (s.updCluster c g).cmds = s.cmds := rfl
@[simp] theorem updCluster_stages (s : State) (c : Nat) (g : Cluster → Cluster) : (s.updCluster c g).stages = s.stages := rfl
@[simp] theorem updCluster_outbox (s : State) (c : Nat) (g : Cluster → Cluster) : (s.updCluster c g).outbox = s.outbox := rfl
@[simp] theorem updCluster_lastHuddle (s : State) (c : Nat) (g : Cluster → Cluster) : (s.updCluster c g).lastHuddle = s.lastHuddle := rfl
@[simp] theorem updCluster_courtHuddle (s : State) (c : Nat) (g : Cluster → Cluster) : (s.updCluster c g).courtHuddle = s.courtHuddle := rfl
@[simp] theorem updCluster_fatal (s : State) (c : Nat) (g : Cluster → Cluster) : (s.updCluster c g).fatal = s.fatal := rfl
@[simp] theorem updCluster_freeCount (s : State) (c : Nat) (g : Cluster → Cluster) : (s.updCluster c g).freeCount = s.freeCount := rfl

@[simp] theorem setStack_pending (s : State) (n : Nat) (x : Stack) : (s.setStack n x).pending = s.pending := rfl
@[simp] theorem setStack_assign (s : State) (n : Nat) (x : Stack) : (s.setStack n x).assign = s.assign := rfl
@[simp] theorem setStack_regs (s : State) (n : Nat) (x : Stack) : (s.setStack n x).regs = s.regs := rfl
@[simp] theorem setStack_mem (s : State) (n : Nat) (x : Stack) : (s.setStack n x).mem = s.mem := rfl
@[simp] theorem setStack_trailers (s : State) (n : Nat) (x : Stack) : (s.setStack n x).trailers = s.trailers := rfl
@[simp] theorem setStack_pathBad (s : State) (n : Nat) (x : Stack) : (s.setStack n x).pathBad = s.pathBad := rfl
@[simp] theorem setStack_score (s : State) (n : Nat) (x : Stack) : (s.setStack n x).score = s.score := rfl
@[simp] theorem setStack_rates (s : State) (n : Nat) (x : Stack) : (s.setStack n x).rates = s.rates := rfl
@[simp] theorem setStack_spent (s : State) (n : Nat) (x : Stack) : (s.setStack n x).spent = s.spent := rfl
@[simp] theorem setStack_saving (s : State) (n : Nat) (x : Stack) : (s.setStack n x).saving = s.saving := rfl
@[simp] theorem setStack_snap (s : State) (n : Nat) (x : Stack) : (s.setStack n x).snap = s.snap := rfl
@[simp] theorem setStack_snapQueue (s : State) (n : Nat) (x : Stack) : (s.setStack n x).snapQueue = s.snapQueue := rfl
@[simp] theorem setStack_flash (s : State) (n : Nat) (x : Stack) : (s.setStack n x).flash = s.flash := rfl
@[simp] theorem setStack_fuses (s : State) (n : Nat) (x : Stack) : (s.setStack n x).fuses = s.fuses := rfl
@[simp] theorem setStack_board (s : State) (n : Nat) (x : Stack) : (s.setStack n x).board = s.board := rfl
@[simp] theorem setStack_xfer (s : State) (n : Nat) (x : Stack) : (s.setStack n x).xfer = s.xfer := rfl
@[simp] theorem setStack_attest (s : State) (n : Nat) (x : Stack) : (s.setStack n x).attest = s.attest := rfl
@[simp] theorem setStack_report (s : State) (n : Nat) (x : Stack) : (s.setStack n x).report = s.report := rfl
@[simp] theorem setStack_regions (s : State) (n : Nat) (x : Stack) : (s.setStack n x).regions = s.regions := rfl
@[simp] theorem setStack_pbufs (s : State) (n : Nat) (x : Stack) : (s.setStack n x).pbufs = s.pbufs := rfl
@[simp] theorem setStack_clusters (s : State) (n : Nat) (x : Stack) : (s.setStack n x).clusters = s.clusters := rfl
@[simp] theorem setStack_roots (s : State) (n : Nat) (x : Stack) : (s.setStack n x).roots = s.roots := rfl
@[simp] theorem setStack_caddies (s : State) (n : Nat) (x : Stack) : (s.setStack n x).caddies = s.caddies := rfl
@[simp] theorem setStack_flows (s : State) (n : Nat) (x : Stack) : (s.setStack n x).flows = s.flows := rfl
@[simp] theorem setStack_lanes (s : State) (n : Nat) (x : Stack) : (s.setStack n x).lanes = s.lanes := rfl
@[simp] theorem setStack_paused (s : State) (n : Nat) (x : Stack) : (s.setStack n x).paused = s.paused := rfl
@[simp] theorem setStack_groups (s : State) (n : Nat) (x : Stack) : (s.setStack n x).groups = s.groups := rfl
@[simp] theorem setStack_plans (s : State) (n : Nat) (x : Stack) : (s.setStack n x).plans = s.plans := rfl
@[simp] theorem setStack_runs (s : State) (n : Nat) (x : Stack) : (s.setStack n x).runs = s.runs := rfl
@[simp] theorem setStack_relay (s : State) (n : Nat) (x : Stack) : (s.setStack n x).relay = s.relay := rfl
@[simp] theorem setStack_noise (s : State) (n : Nat) (x : Stack) : (s.setStack n x).noise = s.noise := rfl
@[simp] theorem setStack_draining (s : State) (n : Nat) (x : Stack) : (s.setStack n x).draining = s.draining := rfl
@[simp] theorem setStack_jobs (s : State) (n : Nat) (x : Stack) : (s.setStack n x).jobs = s.jobs := rfl
@[simp] theorem setStack_kept (s : State) (n : Nat) (x : Stack) : (s.setStack n x).kept = s.kept := rfl
@[simp] theorem setStack_solved (s : State) (n : Nat) (x : Stack) : (s.setStack n x).solved = s.solved := rfl
@[simp] theorem setStack_umps (s : State) (n : Nat) (x : Stack) : (s.setStack n x).umps = s.umps := rfl
@[simp] theorem setStack_rowStrikes (s : State) (n : Nat) (x : Stack) : (s.setStack n x).rowStrikes = s.rowStrikes := rfl
@[simp] theorem setStack_power (s : State) (n : Nat) (x : Stack) : (s.setStack n x).power = s.power := rfl
@[simp] theorem setStack_sessions (s : State) (n : Nat) (x : Stack) : (s.setStack n x).sessions = s.sessions := rfl
@[simp] theorem setStack_cmds (s : State) (n : Nat) (x : Stack) : (s.setStack n x).cmds = s.cmds := rfl
@[simp] theorem setStack_stages (s : State) (n : Nat) (x : Stack) : (s.setStack n x).stages = s.stages := rfl
@[simp] theorem setStack_outbox (s : State) (n : Nat) (x : Stack) : (s.setStack n x).outbox = s.outbox := rfl
@[simp] theorem setStack_lastHuddle (s : State) (n : Nat) (x : Stack) : (s.setStack n x).lastHuddle = s.lastHuddle := rfl
@[simp] theorem setStack_courtHuddle (s : State) (n : Nat) (x : Stack) : (s.setStack n x).courtHuddle = s.courtHuddle := rfl
@[simp] theorem setStack_fatal (s : State) (n : Nat) (x : Stack) : (s.setStack n x).fatal = s.fatal := rfl
@[simp] theorem setStack_freeCount (s : State) (n : Nat) (x : Stack) : (s.setStack n x).freeCount = s.freeCount := rfl

@[simp] theorem setSession_pending (s : State) (n : Nat) (x : Session) : (s.setSession n x).pending = s.pending := rfl
@[simp] theorem setSession_assign (s : State) (n : Nat) (x : Session) : (s.setSession n x).assign = s.assign := rfl
@[simp] theorem setSession_regs (s : State) (n : Nat) (x : Session) : (s.setSession n x).regs = s.regs := rfl
@[simp] theorem setSession_mem (s : State) (n : Nat) (x : Session) : (s.setSession n x).mem = s.mem := rfl
@[simp] theorem setSession_trailers (s : State) (n : Nat) (x : Session) : (s.setSession n x).trailers = s.trailers := rfl
@[simp] theorem setSession_pathBad (s : State) (n : Nat) (x : Session) : (s.setSession n x).pathBad = s.pathBad := rfl
@[simp] theorem setSession_stackMap (s : State) (n : Nat) (x : Session) : (s.setSession n x).stackMap = s.stackMap := rfl
@[simp] theorem setSession_score (s : State) (n : Nat) (x : Session) : (s.setSession n x).score = s.score := rfl
@[simp] theorem setSession_rates (s : State) (n : Nat) (x : Session) : (s.setSession n x).rates = s.rates := rfl
@[simp] theorem setSession_spent (s : State) (n : Nat) (x : Session) : (s.setSession n x).spent = s.spent := rfl
@[simp] theorem setSession_saving (s : State) (n : Nat) (x : Session) : (s.setSession n x).saving = s.saving := rfl
@[simp] theorem setSession_snap (s : State) (n : Nat) (x : Session) : (s.setSession n x).snap = s.snap := rfl
@[simp] theorem setSession_snapQueue (s : State) (n : Nat) (x : Session) : (s.setSession n x).snapQueue = s.snapQueue := rfl
@[simp] theorem setSession_flash (s : State) (n : Nat) (x : Session) : (s.setSession n x).flash = s.flash := rfl
@[simp] theorem setSession_fuses (s : State) (n : Nat) (x : Session) : (s.setSession n x).fuses = s.fuses := rfl
@[simp] theorem setSession_board (s : State) (n : Nat) (x : Session) : (s.setSession n x).board = s.board := rfl
@[simp] theorem setSession_xfer (s : State) (n : Nat) (x : Session) : (s.setSession n x).xfer = s.xfer := rfl
@[simp] theorem setSession_attest (s : State) (n : Nat) (x : Session) : (s.setSession n x).attest = s.attest := rfl
@[simp] theorem setSession_report (s : State) (n : Nat) (x : Session) : (s.setSession n x).report = s.report := rfl
@[simp] theorem setSession_regions (s : State) (n : Nat) (x : Session) : (s.setSession n x).regions = s.regions := rfl
@[simp] theorem setSession_pbufs (s : State) (n : Nat) (x : Session) : (s.setSession n x).pbufs = s.pbufs := rfl
@[simp] theorem setSession_clusters (s : State) (n : Nat) (x : Session) : (s.setSession n x).clusters = s.clusters := rfl
@[simp] theorem setSession_roots (s : State) (n : Nat) (x : Session) : (s.setSession n x).roots = s.roots := rfl
@[simp] theorem setSession_caddies (s : State) (n : Nat) (x : Session) : (s.setSession n x).caddies = s.caddies := rfl
@[simp] theorem setSession_flows (s : State) (n : Nat) (x : Session) : (s.setSession n x).flows = s.flows := rfl
@[simp] theorem setSession_lanes (s : State) (n : Nat) (x : Session) : (s.setSession n x).lanes = s.lanes := rfl
@[simp] theorem setSession_paused (s : State) (n : Nat) (x : Session) : (s.setSession n x).paused = s.paused := rfl
@[simp] theorem setSession_groups (s : State) (n : Nat) (x : Session) : (s.setSession n x).groups = s.groups := rfl
@[simp] theorem setSession_plans (s : State) (n : Nat) (x : Session) : (s.setSession n x).plans = s.plans := rfl
@[simp] theorem setSession_runs (s : State) (n : Nat) (x : Session) : (s.setSession n x).runs = s.runs := rfl
@[simp] theorem setSession_relay (s : State) (n : Nat) (x : Session) : (s.setSession n x).relay = s.relay := rfl
@[simp] theorem setSession_noise (s : State) (n : Nat) (x : Session) : (s.setSession n x).noise = s.noise := rfl
@[simp] theorem setSession_draining (s : State) (n : Nat) (x : Session) : (s.setSession n x).draining = s.draining := rfl
@[simp] theorem setSession_jobs (s : State) (n : Nat) (x : Session) : (s.setSession n x).jobs = s.jobs := rfl
@[simp] theorem setSession_kept (s : State) (n : Nat) (x : Session) : (s.setSession n x).kept = s.kept := rfl
@[simp] theorem setSession_solved (s : State) (n : Nat) (x : Session) : (s.setSession n x).solved = s.solved := rfl
@[simp] theorem setSession_umps (s : State) (n : Nat) (x : Session) : (s.setSession n x).umps = s.umps := rfl
@[simp] theorem setSession_rowStrikes (s : State) (n : Nat) (x : Session) : (s.setSession n x).rowStrikes = s.rowStrikes := rfl
@[simp] theorem setSession_power (s : State) (n : Nat) (x : Session) : (s.setSession n x).power = s.power := rfl
@[simp] theorem setSession_cmds (s : State) (n : Nat) (x : Session) : (s.setSession n x).cmds = s.cmds := rfl
@[simp] theorem setSession_stages (s : State) (n : Nat) (x : Session) : (s.setSession n x).stages = s.stages := rfl
@[simp] theorem setSession_outbox (s : State) (n : Nat) (x : Session) : (s.setSession n x).outbox = s.outbox := rfl
@[simp] theorem setSession_lastHuddle (s : State) (n : Nat) (x : Session) : (s.setSession n x).lastHuddle = s.lastHuddle := rfl
@[simp] theorem setSession_courtHuddle (s : State) (n : Nat) (x : Session) : (s.setSession n x).courtHuddle = s.courtHuddle := rfl
@[simp] theorem setSession_fatal (s : State) (n : Nat) (x : Session) : (s.setSession n x).fatal = s.fatal := rfl
@[simp] theorem setSession_freeCount (s : State) (n : Nat) (x : Session) : (s.setSession n x).freeCount = s.freeCount := rfl

@[simp] theorem setTrailer_pending (s : State) (n : Nat) (x : Trailer) : (s.setTrailer n x).pending = s.pending := rfl
@[simp] theorem setTrailer_assign (s : State) (n : Nat) (x : Trailer) : (s.setTrailer n x).assign = s.assign := rfl
@[simp] theorem setTrailer_regs (s : State) (n : Nat) (x : Trailer) : (s.setTrailer n x).regs = s.regs := rfl
@[simp] theorem setTrailer_mem (s : State) (n : Nat) (x : Trailer) : (s.setTrailer n x).mem = s.mem := rfl
@[simp] theorem setTrailer_pathBad (s : State) (n : Nat) (x : Trailer) : (s.setTrailer n x).pathBad = s.pathBad := rfl
@[simp] theorem setTrailer_stackMap (s : State) (n : Nat) (x : Trailer) : (s.setTrailer n x).stackMap = s.stackMap := rfl
@[simp] theorem setTrailer_score (s : State) (n : Nat) (x : Trailer) : (s.setTrailer n x).score = s.score := rfl
@[simp] theorem setTrailer_rates (s : State) (n : Nat) (x : Trailer) : (s.setTrailer n x).rates = s.rates := rfl
@[simp] theorem setTrailer_spent (s : State) (n : Nat) (x : Trailer) : (s.setTrailer n x).spent = s.spent := rfl
@[simp] theorem setTrailer_saving (s : State) (n : Nat) (x : Trailer) : (s.setTrailer n x).saving = s.saving := rfl
@[simp] theorem setTrailer_snap (s : State) (n : Nat) (x : Trailer) : (s.setTrailer n x).snap = s.snap := rfl
@[simp] theorem setTrailer_snapQueue (s : State) (n : Nat) (x : Trailer) : (s.setTrailer n x).snapQueue = s.snapQueue := rfl
@[simp] theorem setTrailer_flash (s : State) (n : Nat) (x : Trailer) : (s.setTrailer n x).flash = s.flash := rfl
@[simp] theorem setTrailer_fuses (s : State) (n : Nat) (x : Trailer) : (s.setTrailer n x).fuses = s.fuses := rfl
@[simp] theorem setTrailer_board (s : State) (n : Nat) (x : Trailer) : (s.setTrailer n x).board = s.board := rfl
@[simp] theorem setTrailer_xfer (s : State) (n : Nat) (x : Trailer) : (s.setTrailer n x).xfer = s.xfer := rfl
@[simp] theorem setTrailer_attest (s : State) (n : Nat) (x : Trailer) : (s.setTrailer n x).attest = s.attest := rfl
@[simp] theorem setTrailer_report (s : State) (n : Nat) (x : Trailer) : (s.setTrailer n x).report = s.report := rfl
@[simp] theorem setTrailer_regions (s : State) (n : Nat) (x : Trailer) : (s.setTrailer n x).regions = s.regions := rfl
@[simp] theorem setTrailer_pbufs (s : State) (n : Nat) (x : Trailer) : (s.setTrailer n x).pbufs = s.pbufs := rfl
@[simp] theorem setTrailer_clusters (s : State) (n : Nat) (x : Trailer) : (s.setTrailer n x).clusters = s.clusters := rfl
@[simp] theorem setTrailer_roots (s : State) (n : Nat) (x : Trailer) : (s.setTrailer n x).roots = s.roots := rfl
@[simp] theorem setTrailer_caddies (s : State) (n : Nat) (x : Trailer) : (s.setTrailer n x).caddies = s.caddies := rfl
@[simp] theorem setTrailer_flows (s : State) (n : Nat) (x : Trailer) : (s.setTrailer n x).flows = s.flows := rfl
@[simp] theorem setTrailer_lanes (s : State) (n : Nat) (x : Trailer) : (s.setTrailer n x).lanes = s.lanes := rfl
@[simp] theorem setTrailer_paused (s : State) (n : Nat) (x : Trailer) : (s.setTrailer n x).paused = s.paused := rfl
@[simp] theorem setTrailer_groups (s : State) (n : Nat) (x : Trailer) : (s.setTrailer n x).groups = s.groups := rfl
@[simp] theorem setTrailer_plans (s : State) (n : Nat) (x : Trailer) : (s.setTrailer n x).plans = s.plans := rfl
@[simp] theorem setTrailer_runs (s : State) (n : Nat) (x : Trailer) : (s.setTrailer n x).runs = s.runs := rfl
@[simp] theorem setTrailer_relay (s : State) (n : Nat) (x : Trailer) : (s.setTrailer n x).relay = s.relay := rfl
@[simp] theorem setTrailer_noise (s : State) (n : Nat) (x : Trailer) : (s.setTrailer n x).noise = s.noise := rfl
@[simp] theorem setTrailer_draining (s : State) (n : Nat) (x : Trailer) : (s.setTrailer n x).draining = s.draining := rfl
@[simp] theorem setTrailer_jobs (s : State) (n : Nat) (x : Trailer) : (s.setTrailer n x).jobs = s.jobs := rfl
@[simp] theorem setTrailer_kept (s : State) (n : Nat) (x : Trailer) : (s.setTrailer n x).kept = s.kept := rfl
@[simp] theorem setTrailer_solved (s : State) (n : Nat) (x : Trailer) : (s.setTrailer n x).solved = s.solved := rfl
@[simp] theorem setTrailer_umps (s : State) (n : Nat) (x : Trailer) : (s.setTrailer n x).umps = s.umps := rfl
@[simp] theorem setTrailer_rowStrikes (s : State) (n : Nat) (x : Trailer) : (s.setTrailer n x).rowStrikes = s.rowStrikes := rfl
@[simp] theorem setTrailer_power (s : State) (n : Nat) (x : Trailer) : (s.setTrailer n x).power = s.power := rfl
@[simp] theorem setTrailer_sessions (s : State) (n : Nat) (x : Trailer) : (s.setTrailer n x).sessions = s.sessions := rfl
@[simp] theorem setTrailer_cmds (s : State) (n : Nat) (x : Trailer) : (s.setTrailer n x).cmds = s.cmds := rfl
@[simp] theorem setTrailer_stages (s : State) (n : Nat) (x : Trailer) : (s.setTrailer n x).stages = s.stages := rfl
@[simp] theorem setTrailer_outbox (s : State) (n : Nat) (x : Trailer) : (s.setTrailer n x).outbox = s.outbox := rfl
@[simp] theorem setTrailer_lastHuddle (s : State) (n : Nat) (x : Trailer) : (s.setTrailer n x).lastHuddle = s.lastHuddle := rfl
@[simp] theorem setTrailer_courtHuddle (s : State) (n : Nat) (x : Trailer) : (s.setTrailer n x).courtHuddle = s.courtHuddle := rfl
@[simp] theorem setTrailer_fatal (s : State) (n : Nat) (x : Trailer) : (s.setTrailer n x).fatal = s.fatal := rfl
@[simp] theorem setTrailer_freeCount (s : State) (n : Nat) (x : Trailer) : (s.setTrailer n x).freeCount = s.freeCount := rfl

@[simp] theorem send_pending (s : State) (m : OutMsg) : (s.send m).pending = s.pending := rfl
@[simp] theorem send_assign (s : State) (m : OutMsg) : (s.send m).assign = s.assign := rfl
@[simp] theorem send_regs (s : State) (m : OutMsg) : (s.send m).regs = s.regs := rfl
@[simp] theorem send_mem (s : State) (m : OutMsg) : (s.send m).mem = s.mem := rfl
@[simp] theorem send_trailers (s : State) (m : OutMsg) : (s.send m).trailers = s.trailers := rfl
@[simp] theorem send_pathBad (s : State) (m : OutMsg) : (s.send m).pathBad = s.pathBad := rfl
@[simp] theorem send_stackMap (s : State) (m : OutMsg) : (s.send m).stackMap = s.stackMap := rfl
@[simp] theorem send_score (s : State) (m : OutMsg) : (s.send m).score = s.score := rfl
@[simp] theorem send_rates (s : State) (m : OutMsg) : (s.send m).rates = s.rates := rfl
@[simp] theorem send_spent (s : State) (m : OutMsg) : (s.send m).spent = s.spent := rfl
@[simp] theorem send_saving (s : State) (m : OutMsg) : (s.send m).saving = s.saving := rfl
@[simp] theorem send_snap (s : State) (m : OutMsg) : (s.send m).snap = s.snap := rfl
@[simp] theorem send_snapQueue (s : State) (m : OutMsg) : (s.send m).snapQueue = s.snapQueue := rfl
@[simp] theorem send_flash (s : State) (m : OutMsg) : (s.send m).flash = s.flash := rfl
@[simp] theorem send_fuses (s : State) (m : OutMsg) : (s.send m).fuses = s.fuses := rfl
@[simp] theorem send_board (s : State) (m : OutMsg) : (s.send m).board = s.board := rfl
@[simp] theorem send_xfer (s : State) (m : OutMsg) : (s.send m).xfer = s.xfer := rfl
@[simp] theorem send_attest (s : State) (m : OutMsg) : (s.send m).attest = s.attest := rfl
@[simp] theorem send_report (s : State) (m : OutMsg) : (s.send m).report = s.report := rfl
@[simp] theorem send_regions (s : State) (m : OutMsg) : (s.send m).regions = s.regions := rfl
@[simp] theorem send_pbufs (s : State) (m : OutMsg) : (s.send m).pbufs = s.pbufs := rfl
@[simp] theorem send_clusters (s : State) (m : OutMsg) : (s.send m).clusters = s.clusters := rfl
@[simp] theorem send_roots (s : State) (m : OutMsg) : (s.send m).roots = s.roots := rfl
@[simp] theorem send_caddies (s : State) (m : OutMsg) : (s.send m).caddies = s.caddies := rfl
@[simp] theorem send_flows (s : State) (m : OutMsg) : (s.send m).flows = s.flows := rfl
@[simp] theorem send_lanes (s : State) (m : OutMsg) : (s.send m).lanes = s.lanes := rfl
@[simp] theorem send_paused (s : State) (m : OutMsg) : (s.send m).paused = s.paused := rfl
@[simp] theorem send_groups (s : State) (m : OutMsg) : (s.send m).groups = s.groups := rfl
@[simp] theorem send_plans (s : State) (m : OutMsg) : (s.send m).plans = s.plans := rfl
@[simp] theorem send_runs (s : State) (m : OutMsg) : (s.send m).runs = s.runs := rfl
@[simp] theorem send_relay (s : State) (m : OutMsg) : (s.send m).relay = s.relay := rfl
@[simp] theorem send_noise (s : State) (m : OutMsg) : (s.send m).noise = s.noise := rfl
@[simp] theorem send_draining (s : State) (m : OutMsg) : (s.send m).draining = s.draining := rfl
@[simp] theorem send_jobs (s : State) (m : OutMsg) : (s.send m).jobs = s.jobs := rfl
@[simp] theorem send_kept (s : State) (m : OutMsg) : (s.send m).kept = s.kept := rfl
@[simp] theorem send_solved (s : State) (m : OutMsg) : (s.send m).solved = s.solved := rfl
@[simp] theorem send_umps (s : State) (m : OutMsg) : (s.send m).umps = s.umps := rfl
@[simp] theorem send_rowStrikes (s : State) (m : OutMsg) : (s.send m).rowStrikes = s.rowStrikes := rfl
@[simp] theorem send_power (s : State) (m : OutMsg) : (s.send m).power = s.power := rfl
@[simp] theorem send_sessions (s : State) (m : OutMsg) : (s.send m).sessions = s.sessions := rfl
@[simp] theorem send_cmds (s : State) (m : OutMsg) : (s.send m).cmds = s.cmds := rfl
@[simp] theorem send_stages (s : State) (m : OutMsg) : (s.send m).stages = s.stages := rfl
@[simp] theorem send_lastHuddle (s : State) (m : OutMsg) : (s.send m).lastHuddle = s.lastHuddle := rfl
@[simp] theorem send_courtHuddle (s : State) (m : OutMsg) : (s.send m).courtHuddle = s.courtHuddle := rfl
@[simp] theorem send_fatal (s : State) (m : OutMsg) : (s.send m).fatal = s.fatal := rfl
@[simp] theorem send_freeCount (s : State) (m : OutMsg) : (s.send m).freeCount = s.freeCount := rfl

end Sys2Proof.Laws
end

