-- ==== Sys2Proof/Laws/Registers.lean ====
section
/-! SUPPORT. Registers and their fields, and the parts of the state by index: what is read after a write. -/

namespace Sys2Proof.Laws

open Sys2Proof.Machine

theorem reg_setReg (s : State) (o o' : Nat) (v : W32) : (s.setReg o v).reg o' = if o' = o then v else s.reg o' := by
  unfold State.reg State.setReg
  by_cases h : o' = o
  · subst h; simp
  · simp [h, get_set_ne _ _ _ _ h]

@[simp] theorem reg_setReg_self (s : State) (o : Nat) (v : W32) : (s.setReg o v).reg o = v := by simp [reg_setReg]

theorem reg_setReg_ne (s : State) {o o' : Nat} (v : W32) (h : o' ≠ o) : (s.setReg o v).reg o' = s.reg o' := by
  simp [reg_setReg, h]

/-- Two states with the same registers read the same registers and fields. -/
theorem reg_congr {s t : State} (h : t.regs = s.regs) (o : Nat) : t.reg o = s.reg o := by simp [State.reg, h]

theorem fld_congr {s t : State} (h : t.regs = s.regs) (p : Nat) (f : Fld) (i : Nat) : t.fld p f i = s.fld p f i := by
  simp [State.fld, reg_congr h]

@[simp] theorem reg_setRegion (s : State) (r : Nat) (x : Region) (o : Nat) : (s.setRegion r x).reg o = s.reg o := rfl
@[simp] theorem reg_updRegion (s : State) (r : Nat) (g : Region → Region) (o : Nat) : (s.updRegion r g).reg o = s.reg o := rfl
@[simp] theorem reg_setCluster (s : State) (c : Nat) (x : Cluster) (o : Nat) : (s.setCluster c x).reg o = s.reg o := rfl
@[simp] theorem reg_updCluster (s : State) (c : Nat) (g : Cluster → Cluster) (o : Nat) :
    (s.updCluster c g).reg o = s.reg o := rfl
@[simp] theorem reg_setStack (s : State) (n : Nat) (x : Stack) (o : Nat) : (s.setStack n x).reg o = s.reg o := rfl
@[simp] theorem reg_setSession (s : State) (n : Nat) (x : Session) (o : Nat) : (s.setSession n x).reg o = s.reg o := rfl
@[simp] theorem reg_setTrailer (s : State) (n : Nat) (x : Trailer) (o : Nat) : (s.setTrailer n x).reg o = s.reg o := rfl
@[simp] theorem reg_send (s : State) (m : OutMsg) (o : Nat) : (s.send m).reg o = s.reg o := rfl

/-! ## Fields -/

/-- A number with the bits hi..lo replaced. -/
def patch (n hi lo v : Nat) : Nat := n - bits n hi lo * 2 ^ lo + v % 2 ^ (hi + 1 - lo) * 2 ^ lo

/-- The parts of a patched number: above hi and below lo as before, hi..lo the new value. -/
theorem patch_parts (n hi lo v : Nat) (h : lo ≤ hi) :
    patch n hi lo v = n / 2 ^ (hi + 1) * 2 ^ (hi + 1) + (v % 2 ^ (hi + 1 - lo) * 2 ^ lo + n % 2 ^ lo) := by
  have hw : 2 ^ (hi + 1) = 2 ^ lo * 2 ^ (hi + 1 - lo) := by rw [← Nat.pow_add]; congr 1; omega
  have h1 : n / 2 ^ (hi + 1) = n / 2 ^ lo / 2 ^ (hi + 1 - lo) := by rw [hw, Nat.div_div_eq_div_mul]
  have h2 := Nat.div_add_mod n (2 ^ lo)
  have h3 := Nat.div_add_mod (n / 2 ^ lo) (2 ^ (hi + 1 - lo))
  unfold patch bits
  rw [h1, hw]
  generalize hq : n / 2 ^ lo / 2 ^ (hi + 1 - lo) = q at *
  generalize hb : n / 2 ^ lo % 2 ^ (hi + 1 - lo) = b at *
  generalize hd : n / 2 ^ lo = d at *
  generalize hr : n % 2 ^ lo = r at *
  generalize v % 2 ^ (hi + 1 - lo) = x at *
  generalize 2 ^ (hi + 1 - lo) = w at *
  generalize 2 ^ lo = l at *
  have e : n = q * (l * w) + b * l + r := by
    rw [← h2, ← h3, Nat.mul_add, Nat.mul_comm q, Nat.mul_assoc, Nat.mul_comm l b]
  rw [e]
  omega

theorem patch_lt (n hi lo v k : Nat) (h : lo ≤ hi) (hk : hi < k) (hn : n < 2 ^ k) : patch n hi lo v < 2 ^ k := by
  rw [patch_parts n hi lo v h]
  have hw : 2 ^ (hi + 1) = 2 ^ (hi + 1 - lo) * 2 ^ lo := by rw [← Nat.pow_add]; congr 1; omega
  have hv : v % 2 ^ (hi + 1 - lo) < 2 ^ (hi + 1 - lo) := Nat.mod_lt _ (Nat.two_pow_pos _)
  have hr : n % 2 ^ lo < 2 ^ lo := Nat.mod_lt _ (Nat.two_pow_pos _)
  have hlow : v % 2 ^ (hi + 1 - lo) * 2 ^ lo + n % 2 ^ lo < 2 ^ (hi + 1) := by
    rw [hw]
    calc _ < v % 2 ^ (hi + 1 - lo) * 2 ^ lo + 2 ^ lo := by omega
      _ = (v % 2 ^ (hi + 1 - lo) + 1) * 2 ^ lo := by rw [Nat.add_mul, Nat.one_mul]
      _ ≤ _ := Nat.mul_le_mul_right _ hv
  have hk' : 2 ^ k = 2 ^ (k - (hi + 1)) * 2 ^ (hi + 1) := by rw [← Nat.pow_add]; congr 1; omega
  have hq : n / 2 ^ (hi + 1) < 2 ^ (k - (hi + 1)) := by
    rw [Nat.div_lt_iff_lt_mul (Nat.two_pow_pos _), ← hk']; exact hn
  rw [hk']
  calc _ < n / 2 ^ (hi + 1) * 2 ^ (hi + 1) + 2 ^ (hi + 1) := by omega
    _ = (n / 2 ^ (hi + 1) + 1) * 2 ^ (hi + 1) := by rw [Nat.add_mul, Nat.one_mul]
    _ ≤ _ := Nat.mul_le_mul_right _ hq

/-- The patched bits read the new value. -/
theorem bits_patch_self (n hi lo v : Nat) (h : lo ≤ hi) : bits (patch n hi lo v) hi lo = v % 2 ^ (hi + 1 - lo) := by
  rw [patch_parts n hi lo v h]
  unfold bits
  have hw : 2 ^ (hi + 1) = 2 ^ (hi + 1 - lo) * 2 ^ lo := by rw [← Nat.pow_add]; congr 1; omega
  have hr : n % 2 ^ lo < 2 ^ lo := Nat.mod_lt _ (Nat.two_pow_pos _)
  rw [hw, ← Nat.mul_assoc, ← Nat.add_assoc, ← Nat.add_mul, Nat.mul_comm _ (2 ^ lo),
    Nat.mul_add_div (Nat.two_pow_pos _), Nat.div_eq_of_lt hr, Nat.add_zero, Nat.mul_add_mod', Nat.mod_mod]

/-- Bits above the patched ones are as before. -/
theorem bits_patch_above (n hi lo v hi' lo' : Nat) (h : lo ≤ hi) (h' : hi < lo') :
    bits (patch n hi lo v) hi' lo' = bits n hi' lo' := by
  unfold bits
  have hlow : v % 2 ^ (hi + 1 - lo) * 2 ^ lo + n % 2 ^ lo < 2 ^ (hi + 1) := by
    have := patch_lt (n % 2 ^ lo) hi lo v (hi + 1) h (by omega)
      (Nat.lt_of_lt_of_le (Nat.mod_lt _ (Nat.two_pow_pos _)) (Nat.pow_le_pow_right (by omega) (by omega)))
    rw [patch_parts _ hi lo v h, Nat.mod_mod] at this
    omega
  have e : patch n hi lo v / 2 ^ lo' = n / 2 ^ lo' := by
    have s : 2 ^ lo' = 2 ^ (hi + 1) * 2 ^ (lo' - (hi + 1)) := by rw [← Nat.pow_add]; congr 1; omega
    rw [s, ← Nat.div_div_eq_div_mul, ← Nat.div_div_eq_div_mul, patch_parts n hi lo v h, Nat.mul_comm,
      Nat.mul_add_div (Nat.two_pow_pos _), Nat.div_eq_of_lt hlow, Nat.add_zero]
  rw [e]

/-- Bits below the patched ones are as before. -/
theorem bits_patch_below (n hi lo v hi' lo' : Nat) (h : lo ≤ hi) (h' : hi' < lo) (h2 : lo' ≤ hi') :
    bits (patch n hi lo v) hi' lo' = bits n hi' lo' := by
  have e : patch n hi lo v % 2 ^ (hi' + 1) = n % 2 ^ (hi' + 1) := by
    have s1 : 2 ^ lo = 2 ^ (hi' + 1) * 2 ^ (lo - (hi' + 1)) := by rw [← Nat.pow_add]; congr 1; omega
    have s2 : 2 ^ (hi + 1) = 2 ^ (hi' + 1) * 2 ^ (hi - hi') := by rw [← Nat.pow_add]; congr 1; omega
    rw [patch_parts n hi lo v h]
    have r : n % 2 ^ lo % 2 ^ (hi' + 1) = n % 2 ^ (hi' + 1) := by rw [s1]; exact Nat.mod_mul_right_mod _ _ _
    rw [← r]
    generalize n % 2 ^ lo = m
    rw [s2, Nat.mul_comm (n / _), Nat.mul_assoc, Nat.mul_add_mod]
    generalize v % 2 ^ (hi + 1 - lo) = x
    rw [s1, Nat.mul_comm x, Nat.mul_assoc, Nat.mul_add_mod]
  have b (m : Nat) : bits m hi' lo' = m % 2 ^ (hi' + 1) / 2 ^ lo' := by
    unfold bits
    have s : 2 ^ (hi' + 1) = 2 ^ lo' * 2 ^ (hi' + 1 - lo') := by rw [← Nat.pow_add]; congr 1; omega
    rw [s, Nat.mod_mul_right_div_self]
  rw [b, b, e]

theorem setFld_eq (s : State) (p : Nat) (f : Fld) (v i : Nat) :
    s.setFld p f v i = s.setReg (p + f.off + i * f.stride)
      (BitVec.ofNat 32 (patch (s.reg (p + f.off + i * f.stride)).toNat f.hi f.lo v)) := rfl

theorem reg_setFld_toNat (s : State) (p : Nat) (f : Fld) (v i : Nat) (h : f.lo ≤ f.hi) (h2 : f.hi < 32) :
    ((s.setFld p f v i).reg (p + f.off + i * f.stride)).toNat =
      patch (s.reg (p + f.off + i * f.stride)).toNat f.hi f.lo v := by
  rw [setFld_eq, reg_setReg_self, BitVec.toNat_ofNat, Nat.mod_eq_of_lt]
  exact patch_lt _ _ _ _ _ h h2 (BitVec.isLt _)

/-- A field put reads the value, cut to its width. -/
theorem fld_setFld_self (s : State) (p : Nat) (f : Fld) (v i : Nat) (h : f.lo ≤ f.hi) (h2 : f.hi < 32) :
    (s.setFld p f v i).fld p f i = v % 2 ^ (f.hi + 1 - f.lo) := by
  unfold State.fld
  rw [reg_setFld_toNat s p f v i h h2, bits_patch_self _ _ _ _ h]

/-- A field put leaves every other register. -/
theorem reg_setFld_ne (s : State) (p : Nat) (f : Fld) (v i o : Nat) (h : o ≠ p + f.off + i * f.stride) :
    (s.setFld p f v i).reg o = s.reg o := by
  rw [setFld_eq, reg_setReg_ne _ _ h]

/-- A field put leaves the fields of other registers. -/
theorem fld_setFld_ne (s : State) (p : Nat) (f : Fld) (v i p' : Nat) (f' : Fld) (j : Nat)
    (h : p' + f'.off + j * f'.stride ≠ p + f.off + i * f.stride) :
    (s.setFld p f v i).fld p' f' j = s.fld p' f' j := by
  unfold State.fld
  rw [reg_setFld_ne _ _ _ _ _ _ h]

/-- A field put leaves the other fields of its register. -/
theorem fld_setFld_other (s : State) (p : Nat) (f : Fld) (v i p' : Nat) (f' : Fld) (j : Nat) (h : f.lo ≤ f.hi) (h2 : f.hi < 32)
    (h3 : f'.lo ≤ f'.hi) (h4 : f.hi < f'.lo ∨ f'.hi < f.lo) (h5 : p' + f'.off + j * f'.stride = p + f.off + i * f.stride) :
    (s.setFld p f v i).fld p' f' j = s.fld p' f' j := by
  unfold State.fld
  rw [h5, reg_setFld_toNat s p f v i h h2]
  rcases h4 with h4 | h4
  · exact bits_patch_above _ _ _ _ _ _ h h4
  · exact bits_patch_below _ _ _ _ _ _ h h4 h3

/-! ## Parts by index -/

@[simp] theorem region_setRegion_self (s : State) (r : Nat) (x : Region) : (s.setRegion r x).region r = x := by
  simp [State.region, State.setRegion]
theorem region_setRegion_ne (s : State) {r q : Nat} (x : Region) (h : q ≠ r) : (s.setRegion r x).region q = s.region q := by
  simp [State.region, State.setRegion, get_set_ne _ _ _ _ h]
@[simp] theorem region_updRegion_self (s : State) (r : Nat) (g : Region → Region) :
    (s.updRegion r g).region r = g (s.region r) := by simp [State.updRegion]
theorem region_updRegion_ne (s : State) {r q : Nat} (g : Region → Region) (h : q ≠ r) :
    (s.updRegion r g).region q = s.region q := region_setRegion_ne s _ h
@[simp] theorem cluster_setCluster_self (s : State) (c : Nat) (x : Cluster) : (s.setCluster c x).cluster c = x := by
  simp [State.cluster, State.setCluster]
theorem cluster_setCluster_ne (s : State) {c d : Nat} (x : Cluster) (h : d ≠ c) :
    (s.setCluster c x).cluster d = s.cluster d := by
  simp [State.cluster, State.setCluster, get_set_ne _ _ _ _ h]
@[simp] theorem cluster_updCluster_self (s : State) (c : Nat) (g : Cluster → Cluster) :
    (s.updCluster c g).cluster c = g (s.cluster c) := by simp [State.updCluster]
theorem cluster_updCluster_ne (s : State) {c d : Nat} (g : Cluster → Cluster) (h : d ≠ c) :
    (s.updCluster c g).cluster d = s.cluster d := cluster_setCluster_ne s _ h
@[simp] theorem stack_setStack_self (s : State) (n : Nat) (x : Stack) : (s.setStack n x).stack n = x := by
  simp [State.stack, State.setStack]
theorem stack_setStack_ne (s : State) {n m : Nat} (x : Stack) (h : m ≠ n) : (s.setStack n x).stack m = s.stack m := by
  simp [State.stack, State.setStack, get_set_ne _ _ _ _ h]
@[simp] theorem session_setSession_self (s : State) (n : Nat) (x : Session) : (s.setSession n x).session n = x := by
  simp [State.session, State.setSession]
theorem session_setSession_ne (s : State) {n m : Nat} (x : Session) (h : m ≠ n) :
    (s.setSession n x).session m = s.session m := by
  simp [State.session, State.setSession, get_set_ne _ _ _ _ h]
@[simp] theorem trailer_setTrailer_self (s : State) (n : Nat) (x : Trailer) : (s.setTrailer n x).trailer n = x := by
  simp [State.trailer, State.setTrailer]
theorem trailer_setTrailer_ne (s : State) {n m : Nat} (x : Trailer) (h : m ≠ n) :
    (s.setTrailer n x).trailer m = s.trailer m := by
  simp [State.trailer, State.setTrailer, get_set_ne _ _ _ _ h]

end Sys2Proof.Laws
end

