-- ==== Sys2Proof/Laws/Frames.lean ====
section
/-! SUPPORT. What recording an event, counting and refusing an access may change: registers, the Scorecard, spent tokens and
messages, and no register outside the pages named. -/

namespace Sys2Proof.Laws

open Sys2Proof.Machine

/-- An offset lies in the page at p. -/
def InPage (p o : Nat) : Prop := p ≤ o ∧ o < p + 0x1000

/-- A state that differs from another only in registers, the Scorecard's records, spent tokens and messages sent, and in no
register at an offset outside P. -/
def Noted (P : Nat → Prop) (s t : State) : Prop :=
  t = { s with regs := t.regs, score := t.score, spent := t.spent, outbox := t.outbox } ∧ ∀ o, ¬ P o → t.reg o = s.reg o

namespace Noted

variable {P Q : Nat → Prop} {s t u : State}

theorem refl (P : Nat → Prop) (s : State) : Noted P s s := ⟨rfl, fun _ _ => rfl⟩

theorem trans (h : Noted P s t) (k : Noted P t u) : Noted P s u := by
  refine ⟨k.1.trans ?_, fun o ho => (k.2 o ho).trans (h.2 o ho)⟩
  rw [h.1]

theorem mono (h : Noted P s t) (hq : ∀ o, P o → Q o) : Noted Q s t := ⟨h.1, fun o ho => h.2 o fun x => ho (hq o x)⟩

theorem pending (h : Noted P s t) : t.pending = s.pending := by rw [h.1]
theorem assign (h : Noted P s t) : t.assign = s.assign := by rw [h.1]
theorem mem (h : Noted P s t) : t.mem = s.mem := by rw [h.1]
theorem trailers (h : Noted P s t) : t.trailers = s.trailers := by rw [h.1]
theorem pathBad (h : Noted P s t) : t.pathBad = s.pathBad := by rw [h.1]
theorem stackMap (h : Noted P s t) : t.stackMap = s.stackMap := by rw [h.1]
theorem rates (h : Noted P s t) : t.rates = s.rates := by rw [h.1]
theorem flash (h : Noted P s t) : t.flash = s.flash := by rw [h.1]
theorem fuses (h : Noted P s t) : t.fuses = s.fuses := by rw [h.1]
theorem board (h : Noted P s t) : t.board = s.board := by rw [h.1]
theorem regions (h : Noted P s t) : t.regions = s.regions := by rw [h.1]
theorem pbufs (h : Noted P s t) : t.pbufs = s.pbufs := by rw [h.1]
theorem clusters (h : Noted P s t) : t.clusters = s.clusters := by rw [h.1]
theorem roots (h : Noted P s t) : t.roots = s.roots := by rw [h.1]
theorem caddies (h : Noted P s t) : t.caddies = s.caddies := by rw [h.1]
theorem flows (h : Noted P s t) : t.flows = s.flows := by rw [h.1]
theorem lanes (h : Noted P s t) : t.lanes = s.lanes := by rw [h.1]
theorem groups (h : Noted P s t) : t.groups = s.groups := by rw [h.1]
theorem plans (h : Noted P s t) : t.plans = s.plans := by rw [h.1]
theorem jobs (h : Noted P s t) : t.jobs = s.jobs := by rw [h.1]
theorem umps (h : Noted P s t) : t.umps = s.umps := by rw [h.1]
theorem power (h : Noted P s t) : t.power = s.power := by rw [h.1]
theorem sessions (h : Noted P s t) : t.sessions = s.sessions := by rw [h.1]
theorem cmds (h : Noted P s t) : t.cmds = s.cmds := by rw [h.1]
theorem stages (h : Noted P s t) : t.stages = s.stages := by rw [h.1]
theorem lastHuddle (h : Noted P s t) : t.lastHuddle = s.lastHuddle := by rw [h.1]
theorem courtHuddle (h : Noted P s t) : t.courtHuddle = s.courtHuddle := by rw [h.1]
theorem fatal (h : Noted P s t) : t.fatal = s.fatal := by rw [h.1]

/-- Putting one register. -/
theorem setReg (s : State) (o : Nat) (v : W32) (h : P o) : Noted P s (s.setReg o v) :=
  ⟨rfl, fun _ hx => reg_setReg_ne s v fun e => hx (e ▸ h)⟩

theorem setFld (s : State) (p : Nat) (f : Fld) (v i : Nat) (h : P (p + f.off + i * f.stride)) :
    Noted P s (s.setFld p f v i) := setReg s _ _ h

theorem satFld (s : State) (p : Nat) (f : Fld) (n i : Nat) (h : P (p + f.off + i * f.stride)) :
    Noted P s (s.satFld p f n i) := setReg s _ _ h

theorem maxFld (s : State) (p : Nat) (f : Fld) (n i : Nat) (h : P (p + f.off + i * f.stride)) :
    Noted P s (s.maxFld p f n i) := setReg s _ _ h

theorem setReg64 (s : State) (o v : Nat) (h : P o) (h' : P (o + 4)) : Noted P s (s.setReg64 o v) :=
  (setReg s _ _ h).trans (setReg _ _ _ h')

theorem send (P : Nat → Prop) (s : State) (m : OutMsg) : Noted P s (s.send m) := ⟨rfl, fun _ _ => rfl⟩

/-- Repeating what only notes. -/
theorem forEach {α : Type} (xs : List α) (s : State) (f : State → α → State) (h : ∀ s a, a ∈ xs → Noted P s (f s a)) :
    Noted P s (Machine.forEach xs s f) := by
  unfold Machine.forEach
  induction xs generalizing s with
  | nil => exact refl P s
  | cons a t ih => exact (h s a (by simp)).trans (ih _ fun s b hb => h s b (by simp [hb]))

end Noted

/-! ## Events -/

/-- The pages an event of a page writes: its own, the Scorecard's and the sideband's. -/
def EvPages (p : Nat) (o : Nat) : Prop := InPage p o ∨ InPage Page.sc o ∨ InPage Page.sb o

/-- A set of offsets that holds the block registers of the Scorecard's and the sideband's pages. -/
def HoldsLog (P : Nat → Prop) : Prop :=
  (∀ k, 0x40 ≤ k → k < 0x1000 → P (Page.sc + k)) ∧ ∀ k, 0x40 ≤ k → k < 0x1000 → P (Page.sb + k)

theorem inOwn (p k : Nat) (h : k < 0x1000) : EvPages p (p + k) := Or.inl ⟨by omega, by omega⟩

theorem holdsLog_ev (p : Nat) : HoldsLog (EvPages p) :=
  ⟨fun _ _ _ => Or.inr (Or.inl ⟨by omega, by omega⟩), fun _ _ _ => Or.inr (Or.inr ⟨by omega, by omega⟩)⟩

theorem noted_score (P : Nat → Prop) (s : State) (m : KMap ScRec) : Noted P s { s with score := m } := ⟨rfl, fun _ _ => rfl⟩
theorem noted_spent (P : Nat → Prop) (s : State) (m : KMap Nat) : Noted P s { s with spent := m } := ⟨rfl, fun _ _ => rfl⟩

/-- A Scorecard record writes the Scorecard's page and records only; severities lie in 0 to 4. -/
theorem noted_scRecord {P : Nat → Prop} (hl : HoldsLog P) (s : State) (code sev : Nat) (e : Ev) (h : sev < 5) :
    Noted P s (scRecord s code sev e) := by
  have h0 : Noted P s (s.satFld Page.sc F.SC_TOTAL_count 1 sev) :=
    Noted.satFld _ _ _ _ _ (by
      have := hl.1 (F.SC_TOTAL_count.off + sev * F.SC_TOTAL_count.stride) (by simp [F.SC_TOTAL_count]; omega)
        (by simp [F.SC_TOTAL_count]; omega)
      rwa [← Nat.add_assoc] at this)
  have put (s : State) (v i : Nat) (r : ScRec) :
      Noted P s { (s.setFld Page.sc F.SC_SEQ_seq v) with score := KMap.set (s.setFld Page.sc F.SC_SEQ_seq v).score .free i r } :=
    (Noted.setFld _ _ _ _ _ (hl.1 _ (by decide) (by decide))).trans (noted_score _ _ _)
  unfold scRecord
  refine h0.trans ?_
  simp only
  split
  · exact put _ _ _ _
  · split
    · exact put _ _ _ _
    · split
      · exact (Noted.satFld _ _ _ _ _ (hl.1 _ (by decide) (by decide))).trans (put _ _ _ _)
      · exact Noted.satFld _ _ _ _ _ (hl.1 _ (by decide) (by decide))

theorem noted_notify {P : Nat → Prop} (hl : HoldsLog P) (s : State) (court : Option Nat) (typ : Nat) (ws : List Nat) :
    Noted P s (notify s court typ ws) := by
  unfold notify
  split
  · exact noted_scRecord hl _ _ _ _ (by omega)
  · exact Noted.forEach _ s _ fun s _ _ => Noted.send _ s _

theorem noted_suppress (P : Nat → Prop) (s : State) (code : Nat) (court : Option Nat) : Noted P s (suppress s code court) := by
  unfold suppress
  split
  · exact noted_score _ _ _
  · exact Noted.refl _ _

theorem noted_takeToken (P : Nat → Prop) (s : State) (code sev : Nat) : Noted P s (takeToken s code sev).1 := by
  unfold takeToken
  split
  · exact Noted.refl _ _
  · simp only
    split
    · exact noted_spent _ _ _
    · exact Noted.refl _ _

theorem noted_sendEvent {P : Nat → Prop} (hl : HoldsLog P) (s : State) (code sev : Nat) (e : Ev) :
    Noted P s (sendEvent s code sev e) := by
  unfold sendEvent
  have h := noted_takeToken P s code sev
  generalize takeToken s code sev = x at *
  obtain ⟨t, ok⟩ := x
  simp only at h ⊢
  split
  · exact h.trans (noted_notify hl _ _ _ _)
  · exact h.trans (noted_suppress _ _ _ _)

theorem noted_smbAlert {P : Nat → Prop} (hl : HoldsLog P) (s : State) (code sev : Nat) : Noted P s (smbAlert s code sev) := by
  unfold smbAlert
  simp only
  split
  · exact (Noted.setFld _ _ _ _ _ (hl.2 _ (by decide) (by decide))).trans
      (Noted.setFld _ _ _ _ _ (hl.2 _ (by decide) (by decide)))
  · exact Noted.refl _ _

theorem noted_setErr {P : Nat → Prop} (s : State) (page b : Nat) (h : P (page + 0x18)) : Noted P s (setErr s page b).1 := by
  unfold setErr
  simp only
  split
  · exact Noted.refl _ _
  · exact Noted.setReg _ _ _ h

theorem severityOf_lt (code : Nat) : severityOf code < 5 := by
  unfold severityOf
  split
  · split <;> omega
  · split
    · omega
    · split <;> omega

theorem noted_noteBit {P : Nat → Prop} (hl : HoldsLog P) (s : State) (b : Nat) (e : Ev) (h1 : P (e.page + 0x18))
    (h2 : P (e.page + 0x20)) : Noted P s (noteBit s b e) := by
  unfold noteBit
  have h := noted_setErr (P := P) s e.page b h1
  generalize setErr s e.page b = x at *
  obtain ⟨t, fresh⟩ := x
  simp only at h ⊢
  refine h.trans ?_
  split
  · exact (noted_scRecord hl _ _ _ _ (severityOf_lt _)).trans ((Noted.setReg _ _ _ h2).trans
      ((noted_smbAlert hl _ _ _).trans (noted_sendEvent hl _ _ _ _)))
  · exact (noted_scRecord hl _ _ _ _ (severityOf_lt _)).trans ((Noted.setReg _ _ _ h2).trans
      (noted_smbAlert hl _ _ _))

/-- Recording an event of an error bit. -/
theorem noted_noteEv (s : State) (b : Nat) (e : Ev) : Noted (EvPages e.page) s (noteEv s b e) := by
  have n (s : State) (b : Nat) (x : Ev) (hx : x.page = e.page) : Noted (EvPages e.page) s (noteBit s b x) :=
    noted_noteBit (holdsLog_ev _) s b x (hx ▸ inOwn _ _ (by omega)) (hx ▸ inOwn _ _ (by omega))
  unfold noteEv
  simp only
  split
  · exact (n s b e rfl).trans (n _ 0 _ rfl)
  · exact n s b e rfl

theorem noted_note (s : State) (page b : Nat) : Noted (EvPages page) s (note s page b) := noted_noteEv _ _ _
theorem noted_noteIn (s : State) (page b : Nat) (court : Option Nat) : Noted (EvPages page) s (noteIn s page b court) :=
  noted_noteEv _ _ _

theorem noted_noteDevice (s : State) (code sev : Nat) (e : Ev) (h : sev < 5) :
    Noted (EvPages e.page) s (noteDevice s code sev e) := by
  unfold noteDevice
  exact ((noted_scRecord (holdsLog_ev _) _ _ _ _ h).trans (noted_smbAlert (holdsLog_ev _) _ _ _)).trans
    (noted_sendEvent (holdsLog_ev _) _ _ _ _)

/-! ## Error bits -/

theorem bit_or (n b i : Nat) : bit (n ||| 2 ^ b) i = (bit n i || decide (i = b)) := by
  have e (n i : Nat) : bit n i = n.testBit i := by
    simp [bit, Nat.testBit, Nat.shiftRight_eq_div_pow]
  rw [e, e, Nat.testBit_or, Nat.testBit_two_pow]
  simp [eq_comm]

theorem errSet_setErr (s : State) (page b i : Nat) (hb : b < 32) :
    errSet (setErr s page b).1 page i = (errSet s page i || decide (i = b)) := by
  unfold setErr
  simp only
  split
  · rename_i h
    by_cases hi : i = b
    · subst hi; simp [h]
    · simp [hi]
  · simp only [errSet, reg_setReg_self, BitVec.toNat_ofNat]
    rw [Nat.mod_eq_of_lt, bit_or]
    exact Nat.or_lt_two_pow (BitVec.isLt _) (Nat.pow_lt_pow_right (by omega) hb)

/-- Every register but the error register of the event's page and its last code keeps its value on that page. -/
theorem errSet_noteBit (s : State) (b : Nat) (e : Ev) (i : Nat) (hb : b < 32) (ha : e.page % 0x1000 = 0) :
    errSet (noteBit s b e) e.page i = (errSet s e.page i || decide (i = b)) := by
  have hl : HoldsLog fun o => o ≠ e.page + 0x18 := by
    refine ⟨fun k h1 h2 => ?_, fun k h1 h2 => ?_⟩
    · show 0x6000 + k ≠ e.page + 0x18; omega
    · show 0x5000 + k ≠ e.page + 0x18; omega
  have same {s t : State} (h : Noted (fun o => o ≠ e.page + 0x18) s t) : errSet t e.page i = errSet s e.page i := by
    unfold errSet
    rw [h.2 _ (by simp)]
  unfold noteBit
  have h := errSet_setErr s e.page b i hb
  generalize setErr s e.page b = x at *
  obtain ⟨t, fresh⟩ := x
  simp only at h ⊢
  rw [← h]
  apply same
  split
  · exact (noted_scRecord hl _ _ _ _ (severityOf_lt _)).trans ((Noted.setReg _ _ _ (by omega)).trans
      ((noted_smbAlert hl _ _ _).trans (noted_sendEvent hl _ _ _ _)))
  · exact (noted_scRecord hl _ _ _ _ (severityOf_lt _)).trans ((Noted.setReg _ _ _ (by omega)).trans
      (noted_smbAlert hl _ _ _))

/-- A recorded event sets its bit, and err_overflow where the bit was set already; no bit is cleared (Table 2.9). -/
theorem errSet_noteEv (s : State) (b : Nat) (e : Ev) (i : Nat) (hb : b < 32) (ha : e.page % 0x1000 = 0) :
    errSet (noteEv s b e) e.page i = (errSet s e.page i || decide (i = b) || (errSet s e.page b && decide (i = 0))) := by
  unfold noteEv
  simp only
  split
  · rename_i h
    simp only [Bool.and_eq_true, Bool.not_eq_eq_eq_not, Bool.not_true] at h
    have := errSet_noteBit (noteBit s b e) 0 { page := e.page, court := e.court } i (by omega) ha
    simp only at this
    rw [this, errSet_noteBit s b e i hb ha, h.1]
    simp
  · rename_i h
    rw [errSet_noteBit s b e i hb ha]
    by_cases h0 : i = 0
    · subst h0
      cases hb' : errSet s e.page b <;> simp_all
    · simp [h0]

/-! ## Counters -/

/-- Counting writes the page's counters only. -/
theorem noted_count (s : State) (page sel : Nat) (c : Cnt) : Noted (InPage page) s (count s page sel c) := by
  unfold count
  split
  · exact Noted.refl _ _
  · refine Noted.forEach _ s _ fun s i hi => ?_
    have := List.mem_range.1 hi
    simp only
    split
    · exact Noted.setReg64 _ _ _ ⟨by omega, by omega⟩ ⟨by omega, by omega⟩
    · exact Noted.refl _ _

theorem noted_fixedCount (s : State) (page k n : Nat) (h : k < 100) : Noted (InPage page) s (fixedCount s page k n) := by
  unfold fixedCount
  split
  · exact Noted.refl _ _
  · exact Noted.setReg64 _ _ _ ⟨by omega, by omega⟩ ⟨by omega, by omega⟩

theorem InPage.ev {p o : Nat} (h : InPage p o) : EvPages p o := Or.inl h

/-! ## Refused and failed accesses of a stack -/

theorem noted_stkNote (s : State) (p b : Nat) (court : Option Nat) : Noted (EvPages p) s (stkNote s p b court) := by
  unfold stkNote
  exact (noted_noteIn _ _ _ _).trans ((noted_count _ _ _ _).mono fun _ => InPage.ev)

theorem noted_countTile (s : State) (w : Who) (a : Nat) (write : Bool) :
    Noted (InPage (Page.stk (stackOf a))) s (countTile s w a write) := by
  unfold countTile
  exact (noted_count _ _ _ _).trans (noted_fixedCount _ _ _ _ (by split <;> omega))

theorem noted_lastFail (s : State) (w : Who) (a kind gen : Nat) :
    Noted (InPage (Page.stk (stackOf a))) s (lastFail s w a kind gen) := by
  have k (i : Nat) (h : i < 0x1000) : InPage (Page.stk (stackOf a)) (Page.stk (stackOf a) + i) := ⟨by omega, by omega⟩
  unfold lastFail State.setFld48
  exact ((Noted.setFld _ _ _ _ _ (k _ (by decide))).trans (Noted.setFld _ _ _ _ _ (k _ (by decide)))).trans
    (Noted.setReg _ _ _ (k _ (by decide)))

/-- A refused access raises its error and changes nothing else. -/
theorem noted_noteRefused (s : State) (w : Who) (a : Nat) (r : Refused) :
    Noted (EvPages (Page.stk (stackOf a))) s (noteRefused s w a r) := by
  have c (s : State) (sel : Nat) (x : Cnt) := (noted_count s (Page.stk (stackOf a)) sel x).mono fun _ => InPage.ev
  unfold noteRefused
  cases r with
  | stackRetired => exact noted_stkNote _ _ _ _
  | addressRange => exact noted_stkNote _ _ _ _
  | courtRange => exact (noted_stkNote _ _ _ _).trans (c _ _ _)
  | tagMismatch => exact (noted_stkNote _ _ _ _).trans (c _ _ _)

end Sys2Proof.Laws
end

