-- ==== Sys2Proof/Laws/Issue.lean ====
section
/-! SUPPORT. The issue of an instruction: when it goes, and what moving on to the next instruction changes. -/

namespace Sys2Proof.Laws

open Sys2Proof.Machine

/-! ## Programs of a region -/

@[simp] theorem progOf_setProg_self (x : Region) (task : Bool) (p : Prog) : progOf (setProg x task p) task = p := by
  cases task <;> rfl
theorem progOf_setProg_ne (x : Region) {a b : Bool} (p : Prog) (h : a ≠ b) : progOf (setProg x b p) a = progOf x a := by
  cases a <;> cases b <;> first | rfl | exact absurd rfl h
@[simp] theorem setProg_progOf (x : Region) (task : Bool) : setProg x task (progOf x task) = x := by cases task <;> rfl
@[simp] theorem setProg_setProg (x : Region) (task : Bool) (p q : Prog) : setProg (setProg x task p) task q = setProg x task q := by
  cases task <;> rfl

@[simp] theorem region_updProg_self (s : State) (r : Nat) (task : Bool) (f : Prog → Prog) :
    (updProg s r task f).region r = setProg (s.region r) task (f (progOf (s.region r) task)) := by simp [updProg]
theorem region_updProg_ne (s : State) {r q : Nat} (task : Bool) (f : Prog → Prog) (h : q ≠ r) :
    (updProg s r task f).region q = s.region q := region_updRegion_ne s _ h
@[simp] theorem reg_updProg (s : State) (r : Nat) (task : Bool) (f : Prog → Prog) (o : Nat) :
    (updProg s r task f).reg o = s.reg o := rfl
@[simp] theorem prog_updProg_self (s : State) (h : Hdr) (f : Prog → Prog) :
    (updProg s h.region.toNat h.task f).prog h = f (s.prog h) := by simp [State.prog]
theorem regs_updProg (s : State) (r : Nat) (task : Bool) (f : Prog → Prog) : (updProg s r task f).regs = s.regs := rfl

/-! ## Moving on -/

end Sys2Proof.Laws

namespace Sys2Proof.Machine.OnlyRegion

open Sys2Proof.Laws

variable {r : Nat} {s t u : State}

theorem refl (r : Nat) (s : State) : OnlyRegion r s s := ⟨rfl, fun _ _ => rfl, fun _ _ => rfl⟩

theorem trans (h : OnlyRegion r s t) (k : OnlyRegion r t u) : OnlyRegion r s u := by
  refine ⟨k.1.trans ?_, fun q hq => (k.2.1 q hq).trans (h.2.1 q hq), fun o ho => (k.2.2 o ho).trans (h.2.2 o ho)⟩
  rw [h.1]

theorem updRegion (s : State) (r : Nat) (f : Region → Region) : OnlyRegion r s (s.updRegion r f) :=
  ⟨rfl, fun _ hq => region_updRegion_ne s f hq, fun _ _ => rfl⟩

theorem setRegion (s : State) (r : Nat) (x : Region) : OnlyRegion r s (s.setRegion r x) :=
  ⟨rfl, fun _ hq => region_setRegion_ne s x hq, fun _ _ => rfl⟩

theorem updProg (s : State) (r : Nat) (task : Bool) (f : Prog → Prog) : OnlyRegion r s (updProg s r task f) :=
  updRegion s r _

theorem setReg (s : State) (o : Nat) (v : W32) (h : InPage (Page.rg r) o) : OnlyRegion r s (s.setReg o v) :=
  ⟨rfl, fun _ _ => rfl, fun _ ho => reg_setReg_ne s v fun e => ho (e ▸ h)⟩

theorem setFld (s : State) (f : Fld) (v i : Nat) (h : f.off + i * f.stride < 0x1000) :
    OnlyRegion r s (s.setFld (Page.rg r) f v i) := setReg s _ _ ⟨by omega, by omega⟩

theorem maxFld (s : State) (f : Fld) (v i : Nat) (h : f.off + i * f.stride < 0x1000) :
    OnlyRegion r s (s.maxFld (Page.rg r) f v i) := setReg s _ _ ⟨by omega, by omega⟩

theorem satFld (s : State) (f : Fld) (v i : Nat) (h : f.off + i * f.stride < 0x1000) :
    OnlyRegion r s (s.satFld (Page.rg r) f v i) := setReg s _ _ ⟨by omega, by omega⟩

end Sys2Proof.Machine.OnlyRegion

namespace Sys2Proof.Laws

open Sys2Proof.Machine

/-- A state that differs from another in registers only. -/
def RegsOnly (s t : State) : Prop := t = { s with regs := t.regs }

theorem RegsOnly.trans {s t u : State} (h : RegsOnly s t) (k : RegsOnly t u) : RegsOnly s u := by
  unfold RegsOnly at *
  refine k.trans ?_
  rw [h]

theorem RegsOnly.setReg64 (s : State) (o v : Nat) : RegsOnly s (s.setReg64 o v) := rfl

theorem count_frame (s : State) (page sel : Nat) (c : Cnt) : RegsOnly s (count s page sel c) := by
  unfold count forEach
  split
  · rfl
  · rename_i hf
    clear hf
    generalize List.range 8 = xs
    induction xs generalizing s with
    | nil => rfl
    | cons a t ih =>
      rw [List.foldl_cons]
      refine RegsOnly.trans ?_ (ih _)
      simp only
      split
      · exact RegsOnly.setReg64 _ _ _
      · rfl

theorem fixedCount_frame (s : State) (page k n : Nat) : RegsOnly s (fixedCount s page k n) := by
  unfold fixedCount
  split
  · rfl
  · exact RegsOnly.setReg64 _ _ _

theorem onlyRegion_count (r : Nat) (s : State) (sel : Nat) (c : Cnt) : OnlyRegion r s (count s (Page.rg r) sel c) := by
  have h := noted_count s (Page.rg r) sel c
  refine ⟨?_, fun q _ => by simp [State.region, h.regions], h.2⟩
  rw [h.regions]
  exact count_frame s _ _ _

theorem onlyRegion_fixedCount (r : Nat) (s : State) (k n : Nat) (hk : k < 100) : OnlyRegion r s (fixedCount s (Page.rg r) k n) := by
  have h := noted_fixedCount s (Page.rg r) k n hk
  refine ⟨?_, fun q _ => by simp [State.region, h.regions], h.2⟩
  rw [h.regions]
  exact fixedCount_frame s _ _ _

theorem region_count (s : State) (page sel : Nat) (c : Cnt) (q : Nat) : (count s page sel c).region q = s.region q := by
  simp [State.region, (noted_count s page sel c).regions]

theorem region_fixedCount (s : State) (page k n q : Nat) : (fixedCount s page k n).region q = s.region q := by
  rw [fixedCount_frame]; rfl

theorem region_setFld (s : State) (p : Nat) (f : Fld) (v i r : Nat) : (s.setFld p f v i).region r = s.region r := rfl

/-- The end of a wait takes its record away and leaves the programs. -/
theorem endWait_spec (s : State) (r : Nat) (task : Bool) (addr : Nat) :
    OnlyRegion r s (endWait s r task addr) ∧ ∃ ws, (endWait s r task addr).region r = { s.region r with waits := ws } := by
  unfold endWait
  simp only
  split
  · split
    · exact ⟨(OnlyRegion.setRegion s r _).trans (OnlyRegion.setFld _ _ _ _ (by decide)), _,
        (region_setFld _ _ _ _ _ r).trans (region_setRegion_self s r _)⟩
    · exact ⟨OnlyRegion.setRegion s r _, _, region_setRegion_self s r _⟩
  · exact ⟨OnlyRegion.refl r s, _, rfl⟩

/-- Issue moves the program on to the next word and changes nothing beyond its region and RG page. -/
theorem advance_spec (s : State) (h : Hdr) :
    OnlyRegion h.region.toNat s (advance s h) ∧
      ∃ ws, (advance s h).region h.region.toNat =
        setProg { s.region h.region.toNat with waits := ws } h.task { s.prog h with pc := (s.prog h).pc + 1 } := by
  obtain ⟨h1, ws, h2⟩ := endWait_spec s h.region.toNat h.task (s.prog h).pc
  unfold advance
  simp only
  refine ⟨(h1.trans (onlyRegion_count _ _ _ _)).trans (OnlyRegion.updProg _ _ _ _), ws, ?_⟩
  rw [region_updProg_self, region_count, h2]
  cases hb : h.task <;> simp [progOf, State.prog, hb, setProg]

theorem prog_advance (s : State) (h : Hdr) : (advance s h).prog h = { s.prog h with pc := (s.prog h).pc + 1 } := by
  obtain ⟨_, ws, h2⟩ := advance_spec s h
  show progOf ((advance s h).region h.region.toNat) h.task = _
  rw [h2, progOf_setProg_self]

/-- The other program of the region is left as it was. -/
theorem advance_other (s : State) (h : Hdr) (task : Bool) (hn : task ≠ h.task) :
    progOf ((advance s h).region h.region.toNat) task = progOf (s.region h.region.toNat) task := by
  obtain ⟨_, ws, h2⟩ := advance_spec s h
  rw [h2, progOf_setProg_ne _ _ hn]
  cases task <;> rfl

/-! ## When an instruction goes -/

/-- An effect that leaves the queue and the court assignment alone is the next state as it stands. -/
theorem effect_keeps {s : State} {f : State → State} (h : (f s).pending = s.pending) (k : (f s).assign = s.assign) :
    effect s f = .next (f s) := by
  unfold effect
  rw [← h, ← k]

theorem effect_onlyRegion {r : Nat} {s : State} {f : State → State} (h : OnlyRegion r s (f s)) : effect s f = .next (f s) :=
  effect_keeps (by rw [h.1]) (by rw [h.1])

theorem issueCheck_go (s : State) (h : Hdr) (falls : Bool) (hi : Issuable s h) (hf : falls = true → FallsInside s h) :
    issueCheck s h 0 falls = .go := by
  obtain ⟨h1, h2, h3⟩ := hi
  unfold issueCheck
  have hc : ¬ (falls = true ∧ (s.region h.region.toNat).codeCount ≤ (s.prog h).pc + 1) := by
    rintro ⟨hf', hc⟩
    have := hf hf'
    unfold FallsInside at this
    omega
  simp [h1, h2, h3, hc]

/-- A legal instruction that can issue and waits for nothing has its effect. -/
theorem issue_go (s : State) (h : Hdr) (falls : Bool) (ready : Ready) (body : State → State) (onWait : State → State)
    (hi : Issuable s h) (hf : falls = true → FallsInside s h) (hr : ready = .yes) :
    issue s h 0 falls ready body onWait = effect s fun s => body (advance s h) := by
  unfold issue
  rw [issueCheck_go s h falls hi hf, hr]

/-- An issue answers a next state and changes neither the queue nor the court assignment. -/
theorem issue_next (s : State) (h : Hdr) (reason : Nat) (falls : Bool) (ready : Ready) (body onWait : State → State) :
    ∃ t, issue s h reason falls ready body onWait = .next t ∧ t.pending = s.pending ∧ t.assign = s.assign := by
  unfold issue effect turnedAway
  split
  · exact ⟨_, rfl, rfl, rfl⟩
  · exact ⟨_, rfl, rfl, rfl⟩
  · exact ⟨_, rfl, rfl, rfl⟩
  · split
    · exact ⟨_, rfl, rfl, rfl⟩
    · exact ⟨_, rfl, rfl, rfl⟩
    · exact ⟨_, rfl, rfl, rfl⟩

end Sys2Proof.Laws
end

