-- ==== Sys2Proof/Laws/Memory.lean ====
section
/-! SUPPORT. Bytes of memory: a write gives the bytes written and leaves every other byte, a read gives the bytes, and every
operation over memory keeps its canonical form. -/

namespace Sys2Proof.Laws

open Sys2Proof.Machine

/-- The byte of a run at an address. -/
def byteOf (a : Nat) (bs : List Byte) (k : Nat) : Byte := (bs[k - a]?).getD byteDefault

theorem cells_key {a : Nat} {bs : List Byte} {e : Host.Cell} (h : e ∈ Memory.cells a bs) :
    a ≤ e.1 ∧ e.1 < a + bs.length ∧ e.2 ≠ byteDefault := by
  induction bs generalizing a with
  | nil => simp [Memory.cells] at h
  | cons b t ih =>
    unfold Memory.cells at h
    by_cases hb : b = byteDefault
    · simp only [hb, ↓reduceIte] at h
      have := ih h
      simp only [List.length_cons]
      exact ⟨by omega, by omega, this.2.2⟩
    · simp only [hb, ↓reduceIte, List.mem_cons] at h
      rcases h with rfl | h
      · simp [hb]
      · have := ih h
        simp only [List.length_cons]
        exact ⟨by omega, by omega, this.2.2⟩

theorem cells_pairwise (a : Nat) (bs : List Byte) : (Memory.cells a bs).Pairwise fun x y => x.1 < y.1 := by
  induction bs generalizing a with
  | nil => simp [Memory.cells]
  | cons b t ih =>
    unfold Memory.cells
    by_cases hb : b = byteDefault
    · simp [hb, ih]
    · simp only [hb, ↓reduceIte, List.pairwise_cons]
      refine ⟨fun e he => ?_, ih _⟩
      have := cells_key he
      show a < e.1
      omega

theorem get_cells (a : Nat) (bs : List Byte) (n : List Host.Cell) (k : Nat) :
    KMap.get (Memory.cells a bs ++ n) byteDefault k =
      if a ≤ k ∧ k < a + bs.length then
        (if byteOf a bs k = byteDefault then KMap.get n byteDefault k else byteOf a bs k)
      else KMap.get n byteDefault k := by
  induction bs generalizing a with
  | nil => simp [Memory.cells] <;> intros <;> omega
  | cons b t ih =>
    have step : k ≠ a → ((a ≤ k ∧ k < a + (b :: t).length) ↔ (a + 1 ≤ k ∧ k < a + 1 + t.length)) := by
      intro h; simp only [List.length_cons]; omega
    have shift : a + 1 ≤ k → byteOf a (b :: t) k = byteOf (a + 1) t k := by
      intro h
      unfold byteOf
      have : k - a = (k - (a + 1)) + 1 := by omega
      rw [this]; simp
    unfold Memory.cells
    by_cases hk : k = a
    · subst hk
      have h0 : byteOf k (b :: t) k = b := by simp [byteOf]
      by_cases hb : b = byteDefault
      · simp only [hb, ↓reduceIte]
        rw [ih]
        have : ¬ (k + 1 ≤ k ∧ k < k + 1 + t.length) := by omega
        simp [this, byteOf]
      · simp [hb, get_cons, h0]
    · by_cases hb : b = byteDefault
      · rw [if_pos hb, ih]
        by_cases hr : a + 1 ≤ k ∧ k < a + 1 + t.length
        · rw [if_pos hr, if_pos ((step hk).2 hr), ← shift hr.1]
        · rw [if_neg hr, if_neg (fun h => hr ((step hk).1 h))]
      · simp only [hb, ↓reduceIte, List.cons_append, get_cons]
        rw [if_neg (Ne.symm hk), ih]
        by_cases hr : a + 1 ≤ k ∧ k < a + 1 + t.length
        · rw [if_pos hr, if_pos ((step hk).2 hr), ← shift hr.1]
        · rw [if_neg hr, if_neg (fun h => hr ((step hk).1 h))]

/-- Entries of other keys do not matter to a read. -/
theorem get_filter {α : Type} (m : KMap α) (d : α) (p : Nat × α → Bool) (k : Nat) (h : ∀ e ∈ m, e.1 = k → p e = true) :
    KMap.get (m.filter p) d k = KMap.get m d k := by
  induction m with
  | nil => rfl
  | cons e t ih =>
    obtain ⟨a, v⟩ := e
    have ih := ih fun x hx => h x (by simp [hx])
    by_cases hp : p (a, v) = true
    · simp [hp, get_cons, ih]
    · have : a ≠ k := fun e => hp (h (a, v) (by simp) e)
      simp [hp, get_cons, this, ih]

theorem get_take_drop {α : Type} (m n : KMap α) (p : Nat × α → Bool) (d : α) (k : Nat) (h : ∀ e ∈ n, e.1 ≠ k) :
    KMap.get (m.takeWhile p ++ (n ++ m.dropWhile p)) d k = KMap.get m d k := by
  induction m with
  | nil =>
    simp only [List.takeWhile_nil, List.dropWhile_nil, List.append_nil, List.nil_append, get_nil]
    exact get_of_not_mem _ _ _ h
  | cons e t ih =>
    obtain ⟨a, v⟩ := e
    by_cases hp : p (a, v) = true
    · simp only [hp, List.takeWhile_cons_of_pos, List.dropWhile_cons_of_pos, List.cons_append, get_cons]
      rw [ih]
    · simp only [hp, Bool.false_eq_true, not_false_eq_true, List.takeWhile_cons_of_neg, List.dropWhile_cons_of_neg, List.nil_append]
      exact get_append _ _ _ _ h

/-- A write of bytes: the bytes written read back, every other byte is as it was. -/
theorem byte_write (m : List Host.Cell) (a : Nat) (bs : List Byte) (k : Nat) :
    Memory.byte (Memory.write m a bs) k =
      if a ≤ k ∧ k < a + bs.length then byteOf a bs k else Memory.byte m k := by
  unfold Memory.byte Memory.write
  simp only [List.append_assoc]
  by_cases hk : a ≤ k ∧ k < a + bs.length
  · rw [get_append, get_cells, if_pos hk, if_pos hk]
    · have : KMap.get (List.dropWhile (fun e => decide (e.1 < a))
          (List.filter (fun e => decide (e.1 < a) || decide (a + bs.length ≤ e.1)) m)) byteDefault k = byteDefault := by
        apply get_of_not_mem
        intro e he hek
        have := (List.mem_filter.1 ((List.dropWhile_sublist _).subset he)).2
        simp at this
        omega
      rw [this]
      split <;> simp_all
    · intro e he hek
      have := of_mem_takeWhile he
      simp at this
      omega
  · rw [if_neg hk, get_take_drop, get_filter]
    · intro e _ he
      simp
      omega
    · intro e he hek
      have := cells_key he
      omega

/-- A write keeps the canonical form of memory. -/
theorem write_wf (m : List Host.Cell) (a : Nat) (bs : List Byte) (h : Memory.wf m = true) :
    Memory.wf (Memory.write m a bs) = true := by
  unfold Memory.wf at h ⊢
  have hf := filter_wf m _ (fun e => decide (e.1 < a) || decide (a + bs.length ≤ e.1)) h
  rw [wf_iff] at hf ⊢
  obtain ⟨hp, hd⟩ := hf
  unfold Memory.write
  constructor
  · simp only [List.append_assoc]
    rw [List.pairwise_append]
    refine ⟨hp.sublist (List.takeWhile_sublist _), ?_, ?_⟩
    · rw [List.pairwise_append]
      refine ⟨cells_pairwise _ _, hp.sublist (List.dropWhile_sublist _), ?_⟩
      intro x hx y hy
      have h1 := cells_key hx
      have h2 := dropWhile_ge hp y hy
      have h3 := (List.mem_filter.1 ((List.dropWhile_sublist _).subset hy)).2
      simp at h3
      omega
    · intro x hx y hy
      have h1 := of_mem_takeWhile hx
      simp at h1
      rcases List.mem_append.1 hy with hy | hy
      · have := cells_key hy; omega
      · have := dropWhile_ge hp y hy; omega
  · intro e he
    simp only [List.append_assoc, List.mem_append] at he
    rcases he with he | he | he
    · exact hd e ((List.takeWhile_sublist _).subset he)
    · exact (cells_key he).2.2
    · exact hd e ((List.dropWhile_sublist _).subset he)

/-- Losing tiles keeps the canonical form of memory. -/
theorem loseTiles_wf (s : State) (gone : Nat → Bool) (h : Memory.wf s.mem = true) :
    Memory.wf (loseTiles s gone).mem = true := by
  unfold Memory.wf at h ⊢
  exact filter_wf _ _ _ h

theorem run_eq (m : List Host.Cell) (a n : Nat) (hm : m.Pairwise fun x y => x.1 < y.1) (ha : ∀ e ∈ m, a ≤ e.1) :
    Memory.run m a n = (List.range n).map fun i => Memory.byte m (a + i) := by
  induction n generalizing m a with
  | zero => simp [Memory.run]
  | succ n ih =>
    rw [List.range_succ_eq_map]
    cases m with
    | nil =>
      simp only [Memory.run, List.map_cons, List.map_map, Memory.byte, get_nil]
      rw [ih [] (a + 1) (by simp) (by simp)]
      exact congrArg (List.cons byteDefault) (List.map_congr_left fun i _ => rfl)
    | cons e t =>
      obtain ⟨k, v⟩ := e
      have hp := List.pairwise_cons.1 hm
      have hk : a ≤ k := ha (k, v) (by simp)
      unfold Memory.run
      by_cases hka : k = a
      · subst hka
        have ht : ∀ e ∈ t, k + 1 ≤ e.1 := fun e he => hp.1 e he
        rw [if_pos rfl, ih t (k + 1) hp.2 ht]
        simp only [List.map_cons, List.map_map, Memory.byte, Nat.add_zero, get_cons, ↓reduceIte, List.cons.injEq, true_and]
        apply List.map_congr_left
        intro i _
        have : k ≠ k + (i + 1) := by omega
        simp only [Function.comp_apply, Nat.succ_eq_add_one]
        rw [if_neg this, Nat.add_assoc, Nat.add_comm 1 i]
      · have ht : ∀ e ∈ (k, v) :: t, a + 1 ≤ e.1 := by
          intro e he
          rcases List.mem_cons.1 he with rfl | he
          · show a + 1 ≤ k; omega
          · have := hp.1 e he; simp only at this; omega
        rw [if_neg hka, ih ((k, v) :: t) (a + 1) hm ht]
        have h0 : Memory.byte ((k, v) :: t) a = byteDefault := by
          apply get_of_not_mem
          intro e he
          have := ht e he; omega
        simp only [List.map_cons, List.map_map, Nat.add_zero, h0, List.cons.injEq, true_and]
        apply List.map_congr_left
        intro i _
        simp only [Function.comp_apply, Nat.succ_eq_add_one]
        rw [Nat.add_assoc, Nat.add_comm 1 i]

/-- A read gives the bytes from its address on. -/
theorem read_eq (m : List Host.Cell) (a n : Nat) (h : Memory.wf m = true) :
    Memory.read m a n = (List.range n).map fun i => Memory.byte m (a + i) := by
  unfold Memory.wf at h
  rw [wf_iff] at h
  unfold Memory.read
  rw [run_eq _ _ _ (h.1.sublist (List.dropWhile_sublist _)) (dropWhile_ge h.1)]
  apply List.map_congr_left
  intro i _
  unfold Memory.byte
  have := get_take_drop m ([] : List Host.Cell) (fun e => decide (e.1 < a)) byteDefault (a + i) (by simp)
  rw [List.nil_append] at this
  rw [← this, get_append]
  intro e he
  have := of_mem_takeWhile he
  simp at this
  omega

/-- A read right after a write of the same run gives the bytes written. -/
theorem read_write (m : List Host.Cell) (a : Nat) (bs : List Byte) (h : Memory.wf m = true) :
    Memory.read (Memory.write m a bs) a bs.length = bs := by
  rw [read_eq _ _ _ (write_wf m a bs h)]
  apply List.ext_getElem
  · simp
  · intro i h1 h2
    simp only [List.length_map, List.length_range] at h1
    simp only [List.getElem_map, List.getElem_range]
    rw [byte_write, if_pos ⟨by omega, by omega⟩]
    simp [byteOf, h1]

end Sys2Proof.Laws
end

