-- ==== Sys2Proof/Laws/Tiles.lean ====
section
/-! SUPPORT. Tile accesses: what a read, a write, a merge and a copy of tiles may change, that they keep the canonical form of
memory, and what a written tile holds. -/

namespace Sys2Proof.Laws

open Sys2Proof.Machine

/-- The pages a tile access writes: stack pages, the Scorecard's and the sideband's. -/
def TilePages (o : Nat) : Prop := (∃ n, InPage (Page.stk n) o) ∨ InPage Page.sc o ∨ InPage Page.sb o

/-- A state that differs from another only in registers of those pages, the Scorecard's records, spent tokens, messages and
tiles; its memory is in canonical form if the other's was. -/
def Touched (s t : State) : Prop :=
  t = { s with
        regs := t.regs, score := t.score, spent := t.spent, outbox := t.outbox
        mem := t.mem, trailers := t.trailers, pathBad := t.pathBad }
    ∧ (∀ o, ¬ TilePages o → t.reg o = s.reg o) ∧ (Memory.wf s.mem = true → Memory.wf t.mem = true)

namespace Touched

variable {s t u : State}

theorem refl (s : State) : Touched s s := ⟨rfl, fun _ _ => rfl, id⟩

theorem trans (h : Touched s t) (k : Touched t u) : Touched s u := by
  refine ⟨k.1.trans ?_, fun o ho => (k.2.1 o ho).trans (h.2.1 o ho), fun w => k.2.2 (h.2.2 w)⟩
  rw [h.1]

theorem pending (h : Touched s t) : t.pending = s.pending := by rw [h.1]
theorem assign (h : Touched s t) : t.assign = s.assign := by rw [h.1]
theorem stackMap (h : Touched s t) : t.stackMap = s.stackMap := by rw [h.1]
theorem board (h : Touched s t) : t.board = s.board := by rw [h.1]
theorem regions (h : Touched s t) : t.regions = s.regions := by rw [h.1]
theorem pbufs (h : Touched s t) : t.pbufs = s.pbufs := by rw [h.1]
theorem clusters (h : Touched s t) : t.clusters = s.clusters := by rw [h.1]
theorem roots (h : Touched s t) : t.roots = s.roots := by rw [h.1]
theorem caddies (h : Touched s t) : t.caddies = s.caddies := by rw [h.1]
theorem flows (h : Touched s t) : t.flows = s.flows := by rw [h.1]
theorem groups (h : Touched s t) : t.groups = s.groups := by rw [h.1]
theorem plans (h : Touched s t) : t.plans = s.plans := by rw [h.1]
theorem jobs (h : Touched s t) : t.jobs = s.jobs := by rw [h.1]
theorem sessions (h : Touched s t) : t.sessions = s.sessions := by rw [h.1]
theorem cmds (h : Touched s t) : t.cmds = s.cmds := by rw [h.1]
theorem stages (h : Touched s t) : t.stages = s.stages := by rw [h.1]
theorem fatal (h : Touched s t) : t.fatal = s.fatal := by rw [h.1]

theorem ofNoted {P : Nat → Prop} (h : Noted P s t) (hp : ∀ o, P o → TilePages o) : Touched s t := by
  refine ⟨h.1.trans ?_, fun o ho => h.2 o fun x => ho (hp o x), fun w => by rw [h.mem]; exact w⟩
  rw [h.mem, h.trailers, h.pathBad]

end Touched

theorem inStk (n k : Nat) (h : k < 0x1000) : InPage (Page.stk n) (Page.stk n + k) := ⟨by omega, by omega⟩

theorem tilePages_ev (n o : Nat) (h : EvPages (Page.stk n) o) : TilePages o := by
  rcases h with h | h | h
  · exact Or.inl ⟨n, h⟩
  · exact Or.inr (Or.inl h)
  · exact Or.inr (Or.inr h)

theorem touched_noteRefused (s : State) (w : Who) (a : Nat) (r : Refused) : Touched s (noteRefused s w a r) :=
  .ofNoted (noted_noteRefused s w a r) fun o => tilePages_ev _ o

theorem touched_stkNote (s : State) (n b : Nat) (court : Option Nat) : Touched s (stkNote s (Page.stk n) b court) :=
  .ofNoted (noted_stkNote _ _ _ _) fun o => tilePages_ev _ o

theorem touched_count (s : State) (n sel : Nat) (c : Cnt) : Touched s (count s (Page.stk n) sel c) :=
  .ofNoted (noted_count _ _ _ _) fun _ h => Or.inl ⟨n, h⟩

theorem touched_countTile (s : State) (w : Who) (a : Nat) (write : Bool) : Touched s (countTile s w a write) :=
  .ofNoted (noted_countTile s w a write) fun _ h => Or.inl ⟨_, h⟩

theorem touched_lastFail (s : State) (w : Who) (a kind gen : Nat) : Touched s (lastFail s w a kind gen) :=
  .ofNoted (noted_lastFail s w a kind gen) fun _ h => Or.inl ⟨_, h⟩

/-- A state that differs as `Touched` says, with the same tiles. -/
def Reads (s t : State) : Prop := Touched s t ∧ t.mem = s.mem ∧ t.trailers = s.trailers

theorem Reads.ofNoted {P : Nat → Prop} {s t u : State} (h : Reads s t) (k : Noted P t u) (hp : ∀ o, P o → TilePages o) :
    Reads s u := ⟨h.1.trans (.ofNoted k hp), k.mem.trans h.2.1, k.trailers.trans h.2.2⟩

theorem reads_refl (s : State) : Reads s s := ⟨Touched.refl s, rfl, rfl⟩

theorem reads_noteRefused (s : State) (w : Who) (a : Nat) (r : Refused) : Reads s (noteRefused s w a r) :=
  (reads_refl s).ofNoted (noted_noteRefused s w a r) fun o => tilePages_ev _ o

theorem reads_tileDelivered (s : State) (w : Who) (a : Nat) (t : Trailer) : Reads s (tileDelivered s w a t) := by
  have lost {u : State} (h : Reads s u) (k gen : Nat) : Reads s (lastFail u w a k gen) :=
    h.ofNoted (noted_lastFail u w a k gen) fun _ h => Or.inl ⟨_, h⟩
  have noted {u : State} (h : Reads s u) (b : Nat) : Reads s (stkNote u (Page.stk (stackOf a)) b w.court) :=
    h.ofNoted (noted_stkNote _ _ _ _) fun o => tilePages_ev _ o
  have counted {u : State} (h : Reads s u) (sel : Nat) (c : Cnt) : Reads s (count u (Page.stk (stackOf a)) sel c) :=
    h.ofNoted (noted_count _ _ _ _) fun _ h => Or.inl ⟨_, h⟩
  have base : Reads s (countTile { s with pathBad := KMap.set s.pathBad false (a / tileBytes) false } w a false) :=
    Reads.ofNoted (t := { s with pathBad := KMap.set s.pathBad false (a / tileBytes) false })
      ⟨⟨rfl, fun _ _ => rfl, id⟩, rfl, rfl⟩ (noted_countTile _ w a false) fun _ h => Or.inl ⟨_, h⟩
  unfold tileDelivered
  simp only
  split
  · split
    · split
      · exact lost (counted (noted (lost (noted base _) _ _) _) _ _) _ _
      · exact lost (counted (noted base _) _ _) _ _
    · split
      · exact counted (noted (lost (noted base _) _ _) _) _ _
      · exact counted (noted base _) _ _
  · split
    · exact lost (noted base _) _ _
    · exact base

/-- A read of a tile changes no tile. -/
theorem reads_readTile (s : State) (w : Who) (a : Nat) : Reads s (readTile s w a).1 := by
  unfold readTile
  cases admits s w a with
  | some r => exact reads_noteRefused s w a r
  | none =>
    simp only
    split
    · exact reads_noteRefused s w a .tagMismatch
    · exact reads_tileDelivered s w a _

theorem touched_readTile (s : State) (w : Who) (a : Nat) : Touched s (readTile s w a).1 := (reads_readTile s w a).1

theorem touched_putTile (s : State) (a : Nat) (bs : List Byte) (format : BitVec 4) (gen : BitVec 15) (poison : Bool) :
    Touched s (putTile s a bs format gen poison) := by
  unfold putTile
  exact ⟨rfl, fun _ _ => rfl, fun h => write_wf _ _ _ h⟩

theorem touched_writeTile (s : State) (w : Who) (a : Nat) (bs : List Byte) (format : Nat) :
    Touched s (writeTile s w a bs format).1 := by
  unfold writeTile
  cases admits s w a with
  | some r => exact touched_noteRefused s w a r
  | none => exact (touched_putTile _ _ _ _ _ _).trans (touched_countTile _ _ _ _)

theorem touched_writeCopy (s : State) (w : Who) (a : Nat) (bs : List Byte) (t : Trailer) (poison : Bool) :
    Touched s (writeCopy s w a bs t poison).1 := by
  unfold writeCopy
  cases admits s w a with
  | some r => exact touched_noteRefused s w a r
  | none => exact (touched_putTile _ _ _ _ _ _).trans (touched_countTile _ _ _ _)

theorem touched_mergeTile (s : State) (w : Who) (a : Nat) (bs : List Byte) (format : Nat) :
    Touched s (mergeTile s w a bs format).1 := by
  unfold mergeTile
  cases admits s w a with
  | some r => exact touched_noteRefused s w a r
  | none =>
    simp only
    split
    · exact (touched_count _ _ _ _).trans (touched_countTile _ _ _ _)
    · exact (touched_count _ _ _ _).trans ((touched_putTile _ _ _ _ _ _).trans (touched_countTile _ _ _ _))

/-- Folding an access that may be refused over tiles. -/
theorem touched_foldl {α β : Type} (xs : List α) (g : State × β → α → State × β)
    (h : ∀ acc a, Touched acc.1 (g acc a).1) (acc : State × β) : Touched acc.1 (xs.foldl g acc).1 := by
  induction xs generalizing acc with
  | nil => exact Touched.refl _
  | cons a t ih => exact (h acc a).trans (ih _)

theorem touched_writeSpan (s : State) (w : Who) (a : Nat) (bs : List Byte) (format : Nat) :
    Touched s (writeSpan s w a bs format).1 := by
  unfold writeSpan
  refine touched_foldl _ _ ?_ (s, none)
  rintro ⟨s, o⟩ tile
  cases o with
  | some r => exact Touched.refl s
  | none =>
    simp only
    split
    · exact touched_writeTile _ _ _ _ _
    · exact touched_mergeTile _ _ _ _ _

theorem touched_readTiles (s : State) (w : Who) (tiles : List Nat) : Touched s (readTiles s w tiles).1 := by
  unfold readTiles
  refine touched_foldl _ _ ?_ (s, _)
  rintro ⟨s, o⟩ a
  have h := touched_readTile s w a
  cases o with
  | refused r => exact Touched.refl s
  | poisoned p =>
    simp only
    generalize readTile s w a = x at *
    obtain ⟨t, y⟩ := x
    cases y <;> exact h
  | bytes bs fs =>
    simp only
    generalize readTile s w a = x at *
    obtain ⟨t, y⟩ := x
    cases y with
    | refused r => exact h
    | data b tr => simp only; split <;> exact h

theorem touched_readSpan (s : State) (w : Who) (a n : Nat) : Touched s (readSpan s w a n).1 := by
  unfold readSpan
  have h := touched_readTiles s w (spanTiles a n)
  generalize readTiles s w (spanTiles a n) = x at *
  obtain ⟨t, y⟩ := x
  cases y <;> exact h

theorem touched_copyTile (s : State) (w : Who) (src dst : Nat) : Touched s (copyTile s w src dst).1 := by
  unfold copyTile
  have h := touched_readTile s { w with reader := 6 } src
  generalize readTile s { w with reader := 6 } src = x at *
  obtain ⟨t, y⟩ := x
  cases y with
  | refused r => exact h
  | data b tr => exact h.trans (touched_writeCopy _ _ _ _ _ _)

theorem touched_copyTiles (s : State) (w : Who) (src dst n : Nat) : Touched s (copyTiles s w src dst n).1 := by
  unfold copyTiles
  refine touched_foldl _ _ ?_ (s, none)
  rintro ⟨s, o⟩ i
  cases o with
  | some r => exact Touched.refl s
  | none => exact touched_copyTile _ _ _ _

/-! ## What a written tile holds -/

/-- A whole tile put reads back, with its new trailer. -/
theorem putTile_read (s : State) (a : Nat) (bs : List Byte) (format : BitVec 4) (gen : BitVec 15) (poison : Bool)
    (hm : Memory.wf s.mem = true) (hb : bs.length = tileBytes) :
    Memory.read (putTile s a bs format gen poison).mem (a / tileBytes * tileBytes) tileBytes = bs := by
  have h : (putTile s a bs format gen poison).mem = Memory.write s.mem (a / tileBytes * tileBytes) bs := by
    show Memory.write s.mem _ (bs.take tileBytes) = _
    rw [List.take_of_length_le (by omega)]
  rw [h, ← hb]
  exact read_write _ _ _ hm

theorem putTile_trailer (s : State) (a : Nat) (bs : List Byte) (format : BitVec 4) (gen : BitVec 15) (poison : Bool) :
    trailerAt (putTile s a bs format gen poison) a =
      ⟨tileCheck bs (tagAt s a) format gen, tagAt s a, poison, format, gen, .written⟩ := by
  unfold putTile trailerAt
  simp

/-- A tile put leaves every byte outside the tile. -/
theorem putTile_byte (s : State) (a : Nat) (bs : List Byte) (format : BitVec 4) (gen : BitVec 15) (poison : Bool) (k : Nat)
    (h : k < a / tileBytes * tileBytes ∨ a / tileBytes * tileBytes + tileBytes ≤ k) :
    Memory.byte (putTile s a bs format gen poison).mem k = Memory.byte s.mem k := by
  show Memory.byte (Memory.write s.mem _ (bs.take tileBytes)) k = _
  rw [byte_write, if_neg]
  have := List.length_take_le tileBytes bs
  omega

theorem putTile_trailer_ne (s : State) (a : Nat) (bs : List Byte) (format : BitVec 4) (gen : BitVec 15) (poison : Bool)
    (k : Nat) (h : k ≠ a / tileBytes) : (putTile s a bs format gen poison).trailer k = s.trailer k := by
  unfold putTile
  rw [trailer_setTrailer_ne _ _ h]
  rfl

end Sys2Proof.Laws
end

