-- ==== Sys2Proof/Laws/Raise.lean ====
section
/-! SUPPORT. Raising an error below severity 3 only records it; the first-NaN trap records and may stop its court's regions. -/

namespace Sys2Proof.Laws

open Sys2Proof.Machine

/-! ## Pages -/

theorem pageAt_tu {c : Nat} (h : c < 544) : pageAt (Page.tu c) = some (.tu, c) := by
  have e : Page.tu c / 4096 = 0x100 + c := by unfold Page.tu; omega
  unfold pageAt
  simp only [e]
  rw [if_neg (by unfold Page.tu; omega), if_neg (by omega), if_pos (by omega), Nat.add_sub_cancel_left]

theorem pageAt_acc {c : Nat} (h : c < 544) : pageAt (Page.acc c) = some (.acc, c) := by
  have e : Page.acc c / 4096 = 0x400 + c := by unfold Page.acc; omega
  unfold pageAt
  simp only [e]
  rw [if_neg (by unfold Page.acc; omega), if_neg (by omega), if_neg (by omega), if_pos (by omega), Nat.add_sub_cancel_left]

theorem pageAt_ve {c : Nat} (h : c < 544) : pageAt (Page.ve c) = some (.ve, c) := by
  have e : Page.ve c / 4096 = 0x700 + c := by unfold Page.ve; omega
  unfold pageAt
  simp only [e]
  rw [if_neg (by unfold Page.ve; omega), if_neg (by omega), if_neg (by omega), if_neg (by omega), if_pos (by omega), Nat.add_sub_cancel_left]

theorem pageAt_st {c : Nat} (h : c < 544) : pageAt (Page.st c) = some (.st, c) := by
  have e : Page.st c / 4096 = 0xA00 + c := by unfold Page.st; omega
  unfold pageAt
  simp only [e]
  rw [if_neg (by unfold Page.st; omega), if_neg (by omega), if_neg (by omega), if_neg (by omega), if_neg (by omega), if_pos (by omega), Nat.add_sub_cancel_left]

theorem pageAt_rg {n : Nat} (h : n < 32) : pageAt (Page.rg n) = some (.rg, n) := by
  have : ∀ n, n < 32 → pageAt (Page.rg n) = some (.rg, n) := by decide
  exact this n h

theorem pageAt_re {n : Nat} (h : n < 32) : pageAt (Page.re n) = some (.re, n) := by
  have : ∀ n, n < 32 → pageAt (Page.re n) = some (.re, n) := by decide
  exact this n h

theorem pageAt_ump {n : Nat} (h : n < 32) : pageAt (Page.ump n) = some (.ump, n) := by
  have : ∀ n, n < 32 → pageAt (Page.ump n) = some (.ump, n) := by decide
  exact this n h

theorem pageAt_stk {n : Nat} (h : n < 32) : pageAt (Page.stk n) = some (.stk, n) := by
  have : ∀ n, n < 32 → pageAt (Page.stk n) = some (.stk, n) := by decide
  exact this n h

theorem pageAt_caddie {n : Nat} (h : n < 32) : pageAt (Page.caddie n) = some (.caddie, n) := by
  have : ∀ n, n < 32 → pageAt (Page.caddie n) = some (.caddie, n) := by decide
  exact this n h

theorem pageAt_court {n : Nat} (h : n < 16) : pageAt (Page.court n) = some (.court, n) := by
  have : ∀ n, n < 16 → pageAt (Page.court n) = some (.court, n) := by decide
  exact this n h

theorem codeOf_page {page i b : Nat} {k : Block} (h : pageAt page = some (k, i)) : codeOf page b = k.code * 256 + b := by
  simp [codeOf, h]

theorem pageRegion_rg {r : Nat} (h : r < 32) : pageRegion (Page.rg r) = some r := by simp [pageRegion, pageAt_rg h]
theorem pageRegion_tu {c : Nat} (h : c < 544) : pageRegion (Page.tu c) = some (c / 17) := by simp [pageRegion, pageAt_tu h]
theorem pageRegion_acc {c : Nat} (h : c < 544) : pageRegion (Page.acc c) = some (c / 17) := by simp [pageRegion, pageAt_acc h]
theorem pageRegion_ve {c : Nat} (h : c < 544) : pageRegion (Page.ve c) = some (c / 17) := by simp [pageRegion, pageAt_ve h]
theorem pageRegion_st {c : Nat} (h : c < 544) : pageRegion (Page.st c) = some (c / 17) := by simp [pageRegion, pageAt_st h]

/-! ## Raising -/

/-- An error below severity 3 is recorded and does nothing else (R383). -/
theorem raiseEv_low (s : State) (b : Nat) (e : Ev) (h : severityOf (codeOf e.page b) < 3) : raiseEv s b e = noteEv s b e := by
  have h4 : severityOf (codeOf e.page b) ≠ 4 := by omega
  have h3 : severityOf (codeOf e.page b) ≠ 3 := by omega
  simp [raiseEv, act, h4, h3]

theorem noted_raiseEv (s : State) (b : Nat) (e : Ev) (h : severityOf (codeOf e.page b) < 3) :
    Noted (EvPages e.page) s (raiseEv s b e) := by rw [raiseEv_low s b e h]; exact noted_noteEv s b e

theorem noted_raise (s : State) (page b : Nat) (h : severityOf (codeOf page b) < 3) : Noted (EvPages page) s (raise s page b) :=
  noted_raiseEv s b _ h

/-- Codes of severity below 3: every error bit of the TU, ACC, VE, ST, RG and RE pages, and of the offsets between them. -/
theorem severity_die {page : Nat} (h1 : 0x100 ≤ page / 4096) (h2 : page / 4096 < 0xD40) (b : Nat) (hb : b < 32) :
    severityOf (codeOf page b) < 3 := by
  have low : ∀ k : Block, k = .tu ∨ k = .acc ∨ k = .ve ∨ k = .st ∨ k = .rg ∨ k = .re →
      severityOf (k.code * 256 + b) < 3 := by
    have h : ∀ k ∈ [Block.tu, .acc, .ve, .st, .rg, .re], ∀ b, b < 32 → severityOf (k.code * 256 + b) < 3 := by decide
    intro k hk
    exact h k (by simpa using hk) b hb
  have none : severityOf b < 3 := by
    have h : ∀ b, b < 32 → severityOf b < 3 := by decide
    exact h b hb
  unfold codeOf pageAt
  simp only
  rw [if_neg (by omega), if_neg (by omega)]
  by_cases g1 : page / 4096 < 0x100 + 544
  · rw [if_pos g1]; exact low _ (by simp)
  rw [if_neg g1]
  by_cases g2 : 0x400 ≤ page / 4096 ∧ page / 4096 < 0x400 + 544
  · rw [if_pos g2]; exact low _ (by simp)
  rw [if_neg g2]
  by_cases g3 : 0x700 ≤ page / 4096 ∧ page / 4096 < 0x700 + 544
  · rw [if_pos g3]; exact low _ (by simp)
  rw [if_neg g3]
  by_cases g4 : 0xA00 ≤ page / 4096 ∧ page / 4096 < 0xA00 + 544
  · rw [if_pos g4]; exact low _ (by simp)
  rw [if_neg g4]
  by_cases g5 : 0xD00 ≤ page / 4096 ∧ page / 4096 < 0xD20
  · rw [if_pos g5]; exact low _ (by simp)
  rw [if_neg g5]
  by_cases g6 : 0xD20 ≤ page / 4096 ∧ page / 4096 < 0xD40
  · rw [if_pos g6]; exact low _ (by simp)
  rw [if_neg g6, if_neg (by omega), if_neg (by omega), if_neg (by omega)]
  exact none

/-- A physical index read from the repair map's mirror fits a byte. -/
theorem physOf_lt {s : State} {r c p : Nat} (h : s.physOf r c = some p) : p < 255 := by
  unfold State.physOf at h
  simp only at h
  split at h
  · simp at h
  · simp only [Option.some.injEq] at h; omega

theorem parts_lt {s : State} {r : Nat} {e : Nat × Nat} (h : e ∈ parts s r) : e.2 < 255 := by
  unfold parts at h
  obtain ⟨c, _, hc⟩ := List.mem_filterMap.1 h
  cases hp : s.physOf r c with
  | none => simp [hp] at hc
  | some p =>
    simp only [hp, Option.map_some, Option.some.injEq] at hc
    rw [← hc]
    exact physOf_lt hp

theorem severity_ve {c : Nat} (h : c < 800) (b : Nat) (hb : b < 32) : severityOf (codeOf (Page.ve c) b) < 3 :=
  severity_die (by unfold Page.ve; omega) (by unfold Page.ve; omega) b hb
theorem severity_acc {c : Nat} (h : c < 800) (b : Nat) (hb : b < 32) : severityOf (codeOf (Page.acc c) b) < 3 :=
  severity_die (by unfold Page.acc; omega) (by unfold Page.acc; omega) b hb
theorem severity_tu {c : Nat} (h : c < 800) (b : Nat) (hb : b < 32) : severityOf (codeOf (Page.tu c) b) < 3 :=
  severity_die (by unfold Page.tu; omega) (by unfold Page.tu; omega) b hb
theorem severity_st {c : Nat} (h : c < 800) (b : Nat) (hb : b < 32) : severityOf (codeOf (Page.st c) b) < 3 :=
  severity_die (by unfold Page.st; omega) (by unfold Page.st; omega) b hb
theorem severity_rg {r : Nat} (h : r < 32) (b : Nat) (hb : b < 32) : severityOf (codeOf (Page.rg r) b) < 3 :=
  severity_die (by unfold Page.rg; omega) (by unfold Page.rg; omega) b hb
theorem severity_re {r : Nat} (h : r < 32) (b : Nat) (hb : b < 32) : severityOf (codeOf (Page.re r) b) < 3 :=
  severity_die (by unfold Page.re; omega) (by unfold Page.re; omega) b hb
theorem clusterOf_lt {r p : Nat} (hr : r < 32) (hp : p < 255) : clusterOf r p < 800 := by unfold clusterOf; omega

theorem severity_stk {n : Nat} (h : n < 32) (b : Nat) (hb : b < 32) : severityOf (codeOf (Page.stk n) b) < 3 := by
  rw [codeOf_page (pageAt_stk h)]
  have : ∀ b, b < 32 → severityOf (Block.stk.code * 256 + b) < 3 := by decide
  exact this b hb
theorem severity_nanTrap {n : Nat} (h : n < 16) : severityOf (codeOf (Page.court n) Err.court_nan_trap) < 3 := by
  rw [codeOf_page (pageAt_court h)]
  decide

theorem courtOf_lt {s : State} {r n : Nat} (h : s.courtOf r = some n) : n < 16 := by
  have := List.mem_of_find?_eq_some h
  exact List.mem_range.1 this

/-! ## The first-NaN trap -/

/-- A state that differs from another in registers, the Scorecard's records, spent tokens, messages, and in regions only by
their stop. -/
def Trapped (s t : State) : Prop :=
  t = { s with regs := t.regs, score := t.score, spent := t.spent, outbox := t.outbox, regions := t.regions } ∧
    ∀ q, t.region q = { s.region q with stopped := (t.region q).stopped }

namespace Trapped

variable {s t u : State}

theorem refl (s : State) : Trapped s s := ⟨rfl, fun _ => rfl⟩

theorem trans (h : Trapped s t) (k : Trapped t u) : Trapped s u := by
  refine ⟨k.1.trans ?_, fun q => (k.2 q).trans ?_⟩
  · rw [h.1]
  · rw [h.2 q]

theorem ofNoted {P : Nat → Prop} (h : Noted P s t) : Trapped s t := by
  refine ⟨h.1.trans ?_, fun q => ?_⟩
  · rw [h.regions]
  · have : t.region q = s.region q := by simp [State.region, h.regions]
    rw [this]

theorem clusters (h : Trapped s t) : t.clusters = s.clusters := by rw [h.1]
theorem mem (h : Trapped s t) : t.mem = s.mem := by rw [h.1]
theorem pending (h : Trapped s t) : t.pending = s.pending := by rw [h.1]
theorem assign (h : Trapped s t) : t.assign = s.assign := by rw [h.1]

theorem progOf (h : Trapped s t) (q : Nat) (task : Bool) : progOf (t.region q) task = progOf (s.region q) task := by
  rw [h.2 q]; cases task <;> rfl

theorem stream (h : Trapped s t) (q : Nat) : (t.region q).stream = (s.region q).stream := by rw [h.2 q]

theorem forEach {α : Type} (xs : List α) (s : State) (f : State → α → State) (h : ∀ s a, a ∈ xs → Trapped s (f s a)) :
    Trapped s (Machine.forEach xs s f) := by
  unfold Machine.forEach
  induction xs generalizing s with
  | nil => exact refl s
  | cons a t ih => exact (h s a (by simp)).trans (ih _ fun s b hb => h s b (by simp [hb]))

end Trapped

theorem trapped_count (s : State) (page sel : Nat) (c : Cnt) : Trapped s (count s page sel c) := .ofNoted (noted_count s page sel c)
theorem trapped_fixedCount (s : State) (page k n : Nat) (h : k < 100) : Trapped s (fixedCount s page k n) :=
  .ofNoted (noted_fixedCount s page k n h)
theorem trapped_setReg (s : State) (o : Nat) (v : W32) : Trapped s (s.setReg o v) :=
  .ofNoted (P := fun _ => True) (Noted.setReg s o v trivial)
theorem trapped_setFld (s : State) (p : Nat) (f : Fld) (v i : Nat) : Trapped s (s.setFld p f v i) := trapped_setReg _ _ _

theorem trapped_setStopped (s : State) (r : Nat) : Trapped s (setStopped s r) := by
  refine ⟨rfl, fun q => ?_⟩
  by_cases h : q = r
  · subst h; simp [setStopped]
  · simp [setStopped, region_updRegion_ne _ _ h]

/-- The trap records a NaN and may stop regions; nothing else. -/
theorem trapped_nanTrap (s : State) (court : Option Nat) (t : NanRec) (h : ∀ n, court = some n → n < 16) :
    Trapped s (nanTrap s court t) := by
  unfold nanTrap
  cases court with
  | none => exact Trapped.refl s
  | some n =>
    have hn := h n rfl
    have fill (s : State) (ws : List Nat) : Trapped s
        (raiseEv (Machine.forEach (ws.zip (List.range 8)) s fun s e => s.setReg (Page.court n + 0x60 + 4 * e.2) (BitVec.ofNat 32 e.1))
          Err.court_nan_trap { page := Page.court n, court := some n, detail := ws }) :=
      (Trapped.forEach _ _ _ fun s _ _ => trapped_setReg s _ _).trans
        (.ofNoted (noted_raiseEv _ _ { page := Page.court n, court := some n, detail := ws } (severity_nanTrap hn)))
    simp only
    split
    · exact Trapped.refl s
    · split
      · exact trapped_setReg _ _ _
      · split
        · exact (fill s _).trans (Trapped.forEach _ _ _ fun s r _ => trapped_setStopped s r)
        · exact fill s _

theorem trapped_nanTrap_of (s : State) (r : Nat) (t : NanRec) : Trapped s (nanTrap s (s.courtOf r) t) :=
  trapped_nanTrap s _ t fun _ h => courtOf_lt h

end Sys2Proof.Laws
end

