-- ==== Sys2Proof/Laws/Vector.lean ====
section
/-! SUPPORT. A vector instruction: what its run over the participating clusters leaves in each of them, and what lane results
put into registers and masks. -/

namespace Sys2Proof.Laws

open Sys2Proof.Machine

/-! ## Registers and masks of a cluster -/

theorem vReg_setVReg (x : Cluster) (n m : Nat) (v : List W32) : vReg (setVReg x n v) m = if m = n then v else vReg x m := by
  unfold vReg setVReg
  by_cases h : m = n
  · subst h; simp
  · simp [h, get_set_ne _ _ _ _ h]

theorem maskReg_zero (x : Cluster) : maskReg x 0 = BitVec.allOnes 128 := by simp [maskReg]

theorem maskReg_setMask (x : Cluster) (n m : Nat) (v : BitVec 128) :
    maskReg (setMask x n v) m = if m = n ∧ n ≠ 0 then v else maskReg x m := by
  unfold maskReg setMask
  by_cases hn : n = 0
  · simp [hn]
  · by_cases hm : m = 0
    · have : ¬ (0 = n) := fun h => hn h.symm
      simp [hm, this]
    · by_cases h : m = n
      · subst h; simp [hm]
      · simp [hn, hm, h, get_set_ne _ _ _ _ h]

/-- Elements of a register written lane by lane. -/
theorem lane_writeLanes (x : Cluster) (o : VecOp) (rs : List (Nat × Nat)) (i : Nat) (hi : i < 128) :
    lane (writeLanes x o rs) o.vd.toNat i =
      match rs.find? fun e => e.1 == i with
      | some e => e.2 % 2 ^ 32
      | none => if o.zmode then 0 else lane x o.vd.toNat i := by
  unfold lane writeLanes
  simp only
  rw [vReg_setVReg, if_pos rfl]
  rw [List.getD_eq_getElem?_getD, List.getElem?_map, List.getElem?_range hi]
  simp only [Option.map_some, Option.getD_some]
  cases rs.find? fun e => e.1 == i with
  | some e => simp
  | none =>
    cases o.zmode
    · simp
    · simp

theorem vReg_writeLanes_ne (x : Cluster) (o : VecOp) (rs : List (Nat × Nat)) (n : Nat) (h : n ≠ o.vd.toNat) :
    vReg (writeLanes x o rs) n = vReg x n := by
  unfold writeLanes
  simp only
  rw [vReg_setVReg, if_neg h]

/-- The lanes of an instruction are distinct and below 128. -/
theorem activeLanes_nodup (x : Cluster) (o : VecOp) : (activeLanes x o).Nodup :=
  List.Nodup.sublist List.filter_sublist List.nodup_range

theorem mem_activeLanes (x : Cluster) (o : VecOp) (i : Nat) :
    i ∈ activeLanes x o ↔ i < 128 ∧ (maskReg x o.mask.toNat).getLsbD i = true := by
  simp [activeLanes]

/-- Draws are taken for the lanes listed, in their order, and change only the generators. -/
theorem takeDraws_spec (x : Cluster) (ls : List Nat) (b : Bool) :
    ((takeDraws x ls b).1.map (·.1)) = ls ∧ (takeDraws x ls b).2 = { x with gens := (takeDraws x ls b).2.gens }
      ∧ (b = false → (takeDraws x ls b).2 = x ∧ (takeDraws x ls b).1 = ls.map fun i => (i, 0)) := by
  unfold takeDraws
  cases b with
  | false =>
    simp only [Bool.false_eq_true, ↓reduceIte, List.map_map, true_implies, and_self, and_true]
    simp [Function.comp_def]
  | true =>
    simp only [↓reduceIte, Bool.true_eq_false, false_implies, and_true]
    have go (ls : List Nat) (acc : List (Nat × Nat)) (x : Cluster) :
        ((ls.foldl (fun (acc : List (Nat × Nat) × Cluster) i => (acc.1 ++ [(i, (drawLane acc.2 i).1)], (drawLane acc.2 i).2)) (acc, x)).1.map (·.1))
          = acc.map (·.1) ++ ls ∧
        (ls.foldl (fun (acc : List (Nat × Nat) × Cluster) i => (acc.1 ++ [(i, (drawLane acc.2 i).1)], (drawLane acc.2 i).2)) (acc, x)).2
          = { x with gens := (ls.foldl (fun (acc : List (Nat × Nat) × Cluster) i => (acc.1 ++ [(i, (drawLane acc.2 i).1)], (drawLane acc.2 i).2)) (acc, x)).2.gens } := by
      induction ls generalizing acc x with
      | nil => exact ⟨by simp, rfl⟩
      | cons i t ih =>
        simp only [List.foldl_cons]
        obtain ⟨h1, h2⟩ := ih (acc ++ [(i, (drawLane x i).1)]) (drawLane x i).2
        refine ⟨by rw [h1]; simp, ?_⟩
        rw [h2]
        rfl
    exact go ls [] x

/-- The first entry of a lane in a list of distinct lanes is its own. -/
theorem find_lane {α : Type} {l : List α} (f : α → Nat) (g : α → Nat) (hn : (l.map f).Nodup) {d : α} (hd : d ∈ l) :
    ((l.map fun e => (f e, g e)).find? fun e => e.1 == f d) = some (f d, g d) := by
  induction l with
  | nil => simp at hd
  | cons a t ih =>
    simp only [List.map_cons, List.nodup_cons] at hn
    by_cases ha : f a = f d
    · rcases List.mem_cons.1 hd with rfl | hd
      · simp
      · exact absurd (List.mem_map.2 ⟨d, hd, ha.symm⟩) hn.1
    · rcases List.mem_cons.1 hd with rfl | hd
      · exact absurd rfl ha
      · simp only [List.map_cons, List.find?_cons]
        rw [show (f a == f d) = false from by simp [ha]]
        exact ih hn.2 hd

theorem find_lane_none {α : Type} {l : List α} (f : α → Nat) (g : α → Nat) {i : Nat} (h : ∀ d ∈ l, f d ≠ i) :
    ((l.map fun e => (f e, g e)).find? fun e => e.1 == i) = none := by
  simp only [List.find?_eq_none, List.mem_map, beq_iff_eq, forall_exists_index, and_imp]
  rintro e d hd rfl
  exact h d hd

/-! ## The bits of a mask built lane by lane -/

theorem maskSum_bit (f : Nat → Bool) (n i : Nat) :
    ((List.range n).foldl (fun acc i => if f i then acc + 2 ^ i else acc) 0) < 2 ^ n ∧
      ((List.range n).foldl (fun acc i => if f i then acc + 2 ^ i else acc) 0).testBit i = (decide (i < n) && f i) := by
  induction n generalizing i with
  | zero => simp
  | succ n ih =>
    obtain ⟨hlt, _⟩ := ih 0
    rw [List.range_succ, List.foldl_append]
    simp only [List.foldl_cons, List.foldl_nil]
    generalize hm : (List.range n).foldl (fun acc i => if f i then acc + 2 ^ i else acc) 0 = m at *
    have hpow : 2 ^ (n + 1) = 2 ^ n + 2 ^ n := by rw [Nat.pow_succ]; omega
    refine ⟨by split <;> omega, ?_⟩
    by_cases hf : f n = true
    · simp only [hf, ↓reduceIte]
      by_cases hi : i = n
      · subst hi
        rw [Nat.add_comm, Nat.testBit_two_pow_add_eq, Nat.testBit_lt_two_pow hlt]
        simp [hf]
      · by_cases hlt' : i < n
        · rw [Nat.add_comm, Nat.testBit_two_pow_add_gt hlt', (ih i).2]
          simp [hlt', Nat.lt_succ_of_lt hlt']
        · have : n < i := by omega
          rw [Nat.testBit_lt_two_pow (Nat.lt_of_lt_of_le (show m + 2 ^ n < 2 ^ (n + 1) by omega)
            (Nat.pow_le_pow_right (by omega) (by omega)))]
          simp [show ¬ i < n + 1 by omega]
    · simp only [hf, ↓reduceIte, Bool.false_eq_true]
      rw [(ih i).2]
      by_cases hi : i = n
      · subst hi; simp [hf]
      · have : (i < n + 1) ↔ i < n := by omega
        simp [this]

theorem maskBits_getLsbD (f : Nat → Bool) (i : Nat) (hi : i < 128) :
    (BitVec.ofNat 128 ((List.range 128).foldl (fun acc i => if f i then acc + 2 ^ i else acc) 0)).getLsbD i = f i := by
  rw [BitVec.getLsbD_ofNat]
  simp [(maskSum_bit f 128 i).2, hi]

theorem mask_writeMask (x : Cluster) (o : VecOp) (md : Nat) (f : Nat → Bool) (i : Nat) (hi : i < 128) (h : md ≠ 0) :
    (maskReg (writeMask x o md f) md).getLsbD i =
      if (maskReg x o.mask.toNat).getLsbD i then f i else !o.zmode && (maskReg x md).getLsbD i := by
  unfold writeMask
  simp only
  rw [maskReg_setMask, if_pos ⟨rfl, h⟩]
  exact maskBits_getLsbD (fun i => if (maskReg x o.mask.toNat).getLsbD i then f i else !o.zmode && (maskReg x md).getLsbD i) i hi

/-! ## One cluster of a run -/

theorem trapped_veErr (s : State) {c : Nat} (hc : c < 800) (b : Nat) (hb : b < 32) : Trapped s (veErr s c b) := by
  unfold veErr
  exact (Trapped.ofNoted (noted_raise s _ b (severity_ve hc b hb))).trans (trapped_count _ _ _ _)

theorem trapped_gather (s : State) {c : Nat} (hc : c < 800) (addr : Nat) (egress : Bool) (fl : List (Nat × Flags)) :
    Trapped s (gather s c addr egress fl) := by
  have tr (u : State) (o : Nat) (v : W32) (k : Trapped s u) : Trapped s (u.setReg o v) := k.trans (trapped_setReg u o v)
  have sf (u : State) (p : Nat) (f : Fld) (v i : Nat) (k : Trapped s u) : Trapped s (u.setFld p f v i) :=
    k.trans (trapped_setFld u p f v i)
  have ct (u : State) (p n : Nat) (x : Cnt) (k : Trapped s u) : Trapped s (count u p n x) := k.trans (trapped_count u p n x)
  have rs (u : State) (k : Trapped s u) : Trapped s (raise u (Page.ve c) Err.ve_flag_trap) :=
    k.trans (Trapped.ofNoted (noted_raise u (Page.ve c) Err.ve_flag_trap (severity_ve hc _ (by decide))))
  unfold gather
  simp only
  split
  · exact Trapped.refl s
  · split
    · exact ct _ _ _ _ (tr _ _ _ (tr _ _ _ (tr _ _ _ (sf _ _ _ _ _ (Trapped.refl s)))))
    · refine ct _ _ _ _ (rs _ ?_)
      split
      · exact ct _ _ _ _ (tr _ _ _ (tr _ _ _ (tr _ _ _ (sf _ _ _ _ _ (Trapped.refl s)))))
      · exact tr _ _ _ (tr _ _ _ (ct _ _ _ _ (tr _ _ _ (tr _ _ _ (tr _ _ _ (sf _ _ _ _ _ (Trapped.refl s)))))))

theorem trapped_laneNan (s : State) (r p addr step ln : Nat) (fl : Flags) (e : LaneNan) :
    Trapped s (laneNan s r p addr step ln fl e) := trapped_nanTrap_of s r _

/-- An instruction's outcome at one cluster is put there; everything else it does is recording. -/
theorem veApply_spec (s : State) (r p addr step : Nat) (kind : VeKind) (n : Nat) (out : VeOut) (hr : r < 32) (hp : p < 255)
    (he : ∀ b ∈ out.errs, b < 32) :
    Trapped (s.setCluster (clusterOf r p) out.cluster) (veApply s r p addr step kind n out) := by
  have hc := clusterOf_lt hr hp
  have ct (s : State) (p k : Nat) (x : Cnt) := trapped_count s p k x
  unfold veApply
  simp only
  have h0 := Trapped.forEach out.errs (s.setCluster (clusterOf r p) out.cluster) (fun s b => veErr s (clusterOf r p) b)
    fun s b hb => trapped_veErr s hc b (he b hb)
  split
  · exact h0
  · refine h0.trans ?_
    refine Trapped.trans ?_ (trapped_gather _ hc _ _ _)
    refine Trapped.trans ?_ (Trapped.forEach _ _ _ fun s e _ => ?_)
    · have co (u v : State) (p k : Nat) (x : Cnt) (k' : Trapped u v) : Trapped u (count v p k x) := k'.trans (ct v p k x)
      have fc (u v : State) (p k n : Nat) (hk : k < 100) (k' : Trapped u v) : Trapped u (fixedCount v p k n) :=
        k'.trans (trapped_fixedCount v p k n hk)
      refine co _ _ _ _ _ (fc _ _ _ _ _ (by decide) ?_)
      cases kind <;> repeat first | (with_reducible refine co _ _ _ _ _ ?_) | (with_reducible refine fc _ _ _ _ _ (by decide) ?_) | (with_reducible exact Trapped.refl _)
    · split
      · exact Trapped.refl _
      · exact trapped_laneNan _ _ _ _ _ _ _ _

/-- What a run over clusters leaves: recordings, region stops, and clusters. -/
def Ran (s t : State) : Prop :=
  t = { s with
        regs := t.regs, score := t.score, spent := t.spent, outbox := t.outbox, regions := t.regions, clusters := t.clusters } ∧
    ∀ q, t.region q = { s.region q with stopped := (t.region q).stopped }

theorem Ran.trans {s t u : State} (h : Ran s t) (k : Ran t u) : Ran s u := by
  refine ⟨k.1.trans ?_, fun q => (k.2 q).trans ?_⟩
  · rw [h.1]
  · rw [h.2 q]

theorem Ran.refl (s : State) : Ran s s := ⟨rfl, fun _ => rfl⟩

theorem Ran.ofTrapped {s t : State} (h : Trapped s t) : Ran s t := by
  refine ⟨h.1.trans ?_, h.2⟩
  rw [h.clusters]

theorem Ran.setCluster (s : State) (c : Nat) (x : Cluster) : Ran s (s.setCluster c x) := ⟨rfl, fun _ => rfl⟩

theorem ran_veApply (s : State) (r p addr step : Nat) (kind : VeKind) (n : Nat) (out : VeOut) (hr : r < 32) (hp : p < 255)
    (he : ∀ b ∈ out.errs, b < 32) : Ran s (veApply s r p addr step kind n out) :=
  (Ran.setCluster s _ _).trans (.ofTrapped (veApply_spec s r p addr step kind n out hr hp he))

theorem clusterOf_inj {r p q : Nat} (h : clusterOf r p = clusterOf r q) : p = q := by unfold clusterOf at h; omega

/-- A run over clusters: each cluster that one entry names gets that entry's result on what it held before; others stay. -/
theorem run_clusters (r addr step : Nat) (kind : VeKind) (o : VecOp) (f : Cluster → VeOut) (hr : r < 32)
    (he : ∀ x, ∀ b ∈ (f x).errs, b < 32) (ps : List (Nat × Nat)) (hp : ∀ e ∈ ps, e.2 < 255) (hn : (ps.map (·.2)).Nodup)
    (s : State) :
    let t := forEach ps s fun s e =>
      veApply s r e.2 addr step kind (activeLanes (s.cluster (clusterOf r e.2)) o).length (f (s.cluster (clusterOf r e.2)))
    Ran s t ∧ (∀ e ∈ ps, t.cluster (clusterOf r e.2) = (f (s.cluster (clusterOf r e.2))).cluster) ∧
      ∀ c, (∀ e ∈ ps, c ≠ clusterOf r e.2) → t.cluster c = s.cluster c := by
  unfold forEach
  induction ps generalizing s with
  | nil => exact ⟨Ran.refl s, by simp, fun _ _ => rfl⟩
  | cons a l ih =>
    simp only [List.foldl_cons]
    simp only [List.map_cons, List.nodup_cons] at hn
    have ha := hp a (by simp)
    obtain ⟨i1, i2, i3⟩ := ih (fun e h => hp e (by simp [h])) hn.2
      (veApply s r a.2 addr step kind (activeLanes (s.cluster (clusterOf r a.2)) o).length (f (s.cluster (clusterOf r a.2))))
    have hcl := (veApply_spec s r a.2 addr step kind (activeLanes (s.cluster (clusterOf r a.2)) o).length
      (f (s.cluster (clusterOf r a.2))) hr ha (he _)).clusters
    have hself : (veApply s r a.2 addr step kind (activeLanes (s.cluster (clusterOf r a.2)) o).length
        (f (s.cluster (clusterOf r a.2)))).cluster (clusterOf r a.2) = (f (s.cluster (clusterOf r a.2))).cluster := by
      show KMap.get (State.clusters _) _ _ = _
      rw [hcl]
      exact cluster_setCluster_self s _ _
    have hne (c : Nat) (h : c ≠ clusterOf r a.2) : (veApply s r a.2 addr step kind
        (activeLanes (s.cluster (clusterOf r a.2)) o).length (f (s.cluster (clusterOf r a.2)))).cluster c = s.cluster c := by
      show KMap.get (State.clusters _) _ _ = _
      rw [hcl]
      exact cluster_setCluster_ne s _ h
    refine ⟨(ran_veApply _ _ _ _ _ _ _ _ hr ha (he _)).trans i1, ?_, ?_⟩
    · intro e hm
      rcases List.mem_cons.1 hm with rfl | hm
      · rw [i3 _ fun x hx e => hn.1 (List.mem_map.2 ⟨x, hx, (clusterOf_inj e).symm⟩)]
        exact hself
      · rw [i2 e hm, hne]
        intro e'
        exact hn.1 (List.mem_map.2 ⟨e, hm, clusterOf_inj e'⟩)
    · intro c hc
      rw [i3 c fun e h => hc e (by simp [h])]
      exact hne c (hc a (by simp))

end Sys2Proof.Laws
end

