-- ==== Sys2Proof/WellFormed.lean ====
section
/-! DEFINITION. The commands that can be sent at all: payloads of whole tiles, register messages of the size they name,
and numbers of pages, ports, clusters and sensors that the package has. -/

namespace Sys2Proof

/-- Whole tiles of 4,096 bytes (11_stacks_and_tiles.md, "Tiles"). -/
def tilesOk (ts : List WireTile) : Bool := ts.all fun t => t.data.length == 4096

/-- A write carries burst_m1 + 1 words, a read none (13_fabric_and_collectives.md Table 13.4). -/
def requestOk (q : RegReq) : Bool := if q.write then q.data.length == q.burst.toNat + 1 else q.data.isEmpty

/-- Clusters are numbered 0 to 543 (02_register_pages.md Table 2.1). -/
def clusterOk (c : BitVec 10) : Bool := decide (c.toNat < 544)

def physicalOk (p : BitVec 5) : Bool := decide (p.toNat < 17)

/-- Port 0 is H, port 1 + p is Ep. -/
def portOk (q : BitVec 5) : Bool := decide (q.toNat ≤ 18)

/-- 1 to 16 registers (20_package_and_pins.md R483). -/
def wordsOk (n : Nat) : Bool := decide (1 ≤ n ∧ n ≤ 16)

def wellFormed : Instr → Bool
  | .nop _ => true
  | .setA _ _ _ => true
  | .addA _ _ _ => true
  | .setCount _ _ _ => true
  | .loop _ _ _ => true
  | .jump _ _ => true
  | .waitStep _ => true
  | .waitStepComplete _ => true
  | .halt _ => true
  | .taskEnd _ => true
  | .illegalInstruction _ _ _ => true
  | .matrix _ _ => true
  | .regionStep _ => true
  | .groupCloseFold _ _ => true
  | .preload _ _ => true
  | .accjoin _ _ _ => true
  | .egress _ _ _ => true
  | .veAdd _ _ => true
  | .veSub _ _ => true
  | .veMul _ _ => true
  | .veMin _ _ => true
  | .veMax _ _ => true
  | .veFma _ _ => true
  | .veNeg _ _ => true
  | .veAbs _ _ => true
  | .veCopy _ _ => true
  | .veDiv _ _ => true
  | .veSqrt _ _ => true
  | .veRsqrt _ _ => true
  | .veExp2 _ _ => true
  | .veLog2 _ _ => true
  | .veCompareEq _ _ _ => true
  | .veCompareNe _ _ _ => true
  | .veCompareLt _ _ _ => true
  | .veCompareLe _ _ _ => true
  | .veCompareGt _ _ _ => true
  | .veCompareGe _ _ _ => true
  | .maskAnd _ _ _ _ _ => true
  | .maskOr _ _ _ _ _ => true
  | .maskXor _ _ _ _ _ => true
  | .maskNot _ _ _ _ _ => true
  | .convert _ _ _ => true
  | .tileRead _ _ _ => true
  | .veLoad _ _ _ => true
  | .veStore _ _ _ => true
  | .reduceSum _ _ _ => true
  | .reduceMax _ _ _ => true
  | .reduceMin _ _ _ => true
  | .randomRaw _ _ => true
  | .randomUniform _ _ => true
  | .dropout _ _ _ _ _ => true
  | .seed _ _ _ => true
  | .broadcast _ _ _ => true
  | .tapArm _ _ _ => true
  | .tapClose _ _ => true
  | .tapDrain _ _ => true
  | .rootRequest _ _ => true
  | .rootRun _ => true
  | .rootWaitExpiry _ _ => true
  | .weightLoad _ _ _ => true
  | .fetch _ _ _ => true
  | .moveStore _ _ _ => true
  | .joinSend _ _ _ => true
  | .send _ _ => true
  | .receive _ _ => true
  | .moveCopy _ _ _ _ => true
  | .rootFetch _ _ _ => true
  | .offload _ _ _ _ _ => true
  | .valveMigrate _ => true
  | .valveRestore _ _ _ _ => true
  | .markRecompute _ _ _ _ => true
  | .enqueue _ _ _ => true
  | .benchTaskStart _ => true
  | .fence _ => true
  | .arrive _ _ _ _ => true
  | .huddleWait _ _ _ => true
  | .arriveAndWait _ _ _ _ => true
  | .substituteSwitchIn _ p => physicalOk p
  | .stageDeadline _ _ _ => true
  | .stageDone _ _ => true
  | .sessionOpen _ _ _ _ _ => true
  | .sessionClose _ _ => true
  | .courtCreate _ _ => true
  | .courtRelease _ => true
  | .dataWrite _ _ ts => tilesOk ts && !ts.isEmpty
  | .dataRead _ _ _ => true
  | .stageStart _ _ => true
  | .step _ _ => true
  | .stepRedo _ _ => true
  | .quiesce _ => true
  | .quiesceDone _ => true
  | .resume _ => true
  | .save _ _ _ => true
  | .restore _ _ _ => true
  | .abortCourt _ => true
  | .abortCommand _ _ => true
  | .regionResume _ _ _ _ => true
  | .registerRequest _ q => requestOk q
  | .registerWrite _ _ _ => true
  | .pageQuiesceWrite _ _ _ => true
  | .pageEnableWrite _ _ _ => true
  | .pageLockSet _ _ => true
  | .pcntSelWrite _ _ _ _ => true
  | .accDiscard _ c _ => clusterOk c
  | .veReseed _ c _ => clusterOk c
  | .flagTrapRearm _ c _ => clusterOk c
  | .nanTrapRearm _ _ _ => true
  | .stkRangeSelect _ _ _ => true
  | .stkRangeApply _ _ => true
  | .stkRetireCmd _ _ _ _ => true
  | .tileRetry _ _ _ _ _ => true
  | .scrubTile _ _ _ => true
  | .channelRetire _ _ _ => true
  | .pkgReturn _ _ _ _ => true
  | .gradientPart g => g.data.length % 4096 == 0
  | .stagedPartApply _ => true
  | .caddieReady _ => true
  | .readyTimeout _ => true
  | .caddieCommit _ => true
  | .caddieCmdDiscard _ _ => true
  | .caddieCmdDigest _ _ => true
  | .caddieCmdAuthority _ _ _ => true
  | .digestPass _ ds => ds.all fun d => d.copies.all fun c => c.2.length == 4096
  | .caddiePtCountWrite _ _ _ => true
  | .caddieTransfer _ m => tilesOk m.tiles
  | .parityRebuild _ => true
  | .huddleArriveMsg _ _ _ _ _ => true
  | .packageArrive _ _ => true
  | .huddleComplete _ _ _ _ => true
  | .huddleFail _ _ _ _ _ => true
  | .huddleTimeout _ _ => true
  | .huddleOrphan _ _ => true
  | .huddleDeclareComplete _ _ => true
  | .huddleDeclareFail _ _ => true
  | .ceHgLoad _ _ => true
  | .cePlanLoad _ _ => true
  | .collectiveData _ m => tilesOk m.tiles
  | .collectiveRunEnd _ => true
  | .relayArm _ _ => true
  | .relayCopyRestart _ _ => true
  | .relayTiles _ m => tilesOk m.tiles
  | .relayStaged => true
  | .ack _ => true
  | .nak _ => true
  | .credit _ => true
  | .passBufferEntry _ _ _ _ => true
  | .ackTimer _ _ => true
  | .retransmitTimeout _ _ => true
  | .cwndUpdate _ _ _ => true
  | .chesyReopen _ => true
  | .clearDup _ _ => true
  | .neighbourFrame q _ => portOk q
  | .pfcFrame q _ _ _ => portOk q
  | .linkDown q => portOk q || q == 19#5
  | .laneFecWindow q _ _ _ _ _ => portOk q
  | .laneSignalLoss q _ => portOk q
  | .laneRetry q _ => portOk q
  | .laneProbationEnd q _ => portOk q
  | .umpireVote _ => true
  | .strikeExpiry _ => true
  | .umpireLocalise _ i _ _ => decide (i.toNat < 68)
  | .clusterTakeover _ => true
  | .umpReturnProbation _ _ p => physicalOk p
  | .umpRetire _ _ p => physicalOk p
  | .probationJobEnd _ _ _ => true
  | .linkFatal _ => true
  | .seSubmit _ _ _ _ => true
  | .seJobStart _ => true
  | .seJobEnd => true
  | .seDeadline _ => true
  | .seCancel _ _ _ => true
  | .scLoadIndex _ _ => true
  | .scLoadNext _ _ => true
  | .scLoadKey _ => true
  | .scClearRecord _ _ => true
  | .scClearAll _ => true
  | .scSave _ => true
  | .rateTokenTick _ => true
  | .ctrFreeze _ => true
  | .ctrUnfreeze _ => true
  | .ctrSnapshotReturn _ => true
  | .ctrSnapshotHold _ => true
  | .ctrClear _ => true
  | .ctrArm _ _ _ => true
  | .vcoreModeWrite _ _ _ => true
  | .paceModeWrite _ _ _ => true
  | .powerControlPeriod _ _ _ _ _ => true
  | .droopEngage _ => true
  | .droopRelease _ => true
  | .droopSustained _ => true
  | .stackDroop _ _ => true
  | .thermalSample i _ => decide (i.toNat < 68)
  | .thermalCeilingTick => true
  | .railFault _ _ => true
  | .vin12Undervoltage => true
  | .auxPowerOn => true
  | .packageStart _ => true
  | .pwrgoodAssert _ => true
  | .regulatorStartTimeout => true
  | .pwrgoodDeassert => true
  | .resetNAssert => true
  | .watchdogReset => true
  | .holdupOkChange _ => true
  | .refclkLoss c => decide (c.toNat < 5)
  | .flashBeginFirmware _ => true
  | .flashBeginSettings _ => true
  | .flashChunk _ => true
  | .flashVerify _ => true
  | .flashAbandon _ => true
  | .fwConfirm _ => true
  | .fwInstall _ => true
  | .fwReset _ => true
  | .fwCancelArm _ => true
  | .activationArm _ _ => true
  | .activationRestart => true
  | .activationWindowTimeout => true
  | .attest _ => true
  | .attestDone => true
  | .sidebandWrite _ d wf _ => !wf || wordsOk d.length
  | .sidebandRead _ n wf _ => !wf || wordsOk n.toNat
  | .sbAlertClear _ => true
  | .bypass => true
  | .idcode => true
  | .samplePreload => true
  | .extest => true
  | .extestPulse => true
  | .extestTrain => true
  | .clamp => true
  | .highz => true
  | .dbgreg _ q => requestOk q
  | .strikeWindowExpiry _ _ => true
  | .v3p3AuxRemoved => true
  | .v1p8InTolerance => true
  | .linkUp q => portOk q || q == 19#5
  | .flashXferDone => true
  | .scSaveDone _ => true
  | .snapshotCopyDone => true
  | .vcoreRampEnd _ => true
  | .regionBlockFailure _ => true
  | .trstNChange _ => true

end Sys2Proof
end

