-- ==== Sys2Proof/Tests/Slice0.lean ====
section
/-! SUPPORT. Witnesses that the statements' hypotheses can be met together, the spec's worked examples and check values, and well-formed and
ill-formed commands. -/

open Sys2Proof Sys2Proof.Machine
set_option maxRecDepth 20000
namespace Sys2Proof.Tests
def tile (f : BitVec 4) : Trailer := ⟨0#32, 0x100#12, false, f, 0#15, .written⟩
def owned (f : BitVec 4) (n : Nat) : KMap Trailer := (List.range n).map fun i => (i, tile f)
def grant : Stack := { Stack.init with ranges := [(0, ⟨true, false, 0, 256, 0x100#12⟩)] }
def up : State := { State.reset with
  regs := [(0x4C, 0x30000001#32)], board := { Board.init with v1p8 := true, pwrgood := true, dies := true }
  assign := [(1, 1#32)], stackMap := [(0, grant)]
  sessions := [(0, ⟨true, true, 0, 0, 0, 0, 0, 0, 0⟩)] }
def region0 : Region := { Region.init with started := true, codeCount := 8, clusters := 1#16 }
def with0 (r : Region) : State := { up with
  trailers := owned 0#4 8
  regions := [(0, r)] }
def running : State := with0 region0
def h0 : Hdr := ⟨0#5, false, false, 0#3, 0#7⟩
def hTask : Hdr := ⟨0#5, true, false, 0#3, 0#7⟩
theorem get_range {α : Type} (m n : Nat) (v d : α) (k : Nat) (hk : m ≤ k ∧ k < m + n) :
    KMap.get ((List.range' m n).map fun i => (i, v)) d k = v := by
  induction n generalizing m with
  | zero => omega
  | succ n ih =>
    rw [List.range'_succ, List.map_cons]
    unfold KMap.get
    split
    · rfl
    · exact ih (m + 1) (by omega)

theorem zero_bytes (n : Nat) : leNat (List.replicate n 0#8) = 0 := by
  induction n with
  | zero => rfl
  | succ n ih =>
    rw [List.replicate_succ]
    unfold leNat
    rw [ih]
    rfl

/-- A region whose bench task runs. -/
def benchRegion : Region := { region0 with taskRunning := true }

theorem test_scalar_premises : Issuable running h0 ∧ FallsInside running h0 ∧ (3#4).toNat ≤ 3 ∧
    (7#32).toNat < (running.region h0.region.toNat).codeCount := by unfold Issuable FallsInside; decide

/-- A main program at a wait_step, in a court whose Caddie holds step 5. -/
def waiting0 : State := with0 { region0 with main := { Prog.init with waiting := true } }

theorem test_enqueue_premises : Issuable running h0 ∧ h0.task = false ∧ FallsInside running h0 ∧ (7#32).toNat < (running.region 0).codeCount ∧
  (running.region 0).bench.length + (running.region 0).taskRunning.toNat < 256 ∧ (running.region 0).enqueued ≤ (running.region 0).completedTasks := by
   unfold Issuable FallsInside; decide
def queued : State := with0 { region0 with bench := [⟨4, 9, [], 0#48⟩], enqueued := 1 }
theorem test_bench_premises : (queued.region 0).bench ≠ [] ∧
    (queued.region 0).taskRunning = false ∧ (queued.region 0).started = true ∧ (queued.region 0).stopped = false ∧
    isHeld queued 0 = false ∧ queued.fatal = false ∧ Issuable queued h0 ∧ FallsInside queued h0 ∧ (queued.region 0).completedTasks < (queued.region 0).enqueued := by unfold Issuable FallsInside; decide
theorem test_taskEnd_premises : Issuable (with0 benchRegion) hTask ∧ ((with0 benchRegion).prog hTask).inflight = [] := by unfold Issuable; decide
theorem test_illegal_premises : wordReason running (wordHdr 0#5 false 0xFF) 0xFF ≠ 0 ∧
    mayIssue running (wordHdr 0#5 false 0xFF) = true ∧ fetchOk running (wordHdr 0#5 false 0xFF) = true ∧ (running.prog (wordHdr 0#5 false 0xFF)).pc < 2 ^ 32 := by decide
def late : State := with0 { region0 with waits := [⟨1, 0, false, 3, 100, 0⟩] }
theorem test_deadline_premises : (late.region 0).waits[(0#8).toNat]? = some ⟨1, 0, false, 3, 100, 0⟩ ∧ (100 : Nat) ≤ (100#32).toNat ∧ (102#32).toNat < 100 + 3 := by decide

/-- A vector instruction on mask register 0 with rounding to nearest even. -/
def vec (vd va vb vc : BitVec 5) : VecOp := ⟨vd, va, vb, vc, 0#3, false, 0#2, false⟩

theorem test_vector_premises : Issuable running h0 ∧ FallsInside running h0 ∧ PartsApart running h0.region.toNat ∧
    (running.prog h0).pc < 2 ^ 32 ∧ parts running 0 = [(0, 0)] := by
  unfold Issuable FallsInside PartsApart; decide

theorem test_vector_operand_premises :
    ((vec 1 2 3 0).vc = 0#5 ∧ ((vec 1 2 0 0).vb = 0#5) ∧ 2 ≤ (2#4).toNat ∧ (13#4).toNat ≤ 13) ∧
    isPacked 13#4 = true ∧ Fmt.isMx 6 = true ∧ Fmt.isMx 2 = false := by decide

/-- An unpacked MX access and a plain one. -/
def mxMem : VecMem := ⟨0#21, 6#4, 0#4, 0x1000#21⟩
def bfMem : VecMem := ⟨0#21, 2#4, 0#4, 0#21⟩

/-- A cluster whose store's first line has format code 1. -/
def typed : Cluster := { Cluster.init with lineFmt := [(0, 1)] }

theorem test_load_premises : (accesses typed (vec 1 0 0 0) bfMem 0 = true ∧
    storeAgrees typed (laneAt bfMem 0).1 (laneBytes bfMem (laneAt bfMem 0).2.1) bfMem.fmt.toNat = false) ∧
    ∀ i, i < 128 → accesses Cluster.init (vec 1 0 0 0) bfMem i = true ∧
      storeAgrees Cluster.init (laneAt bfMem i).1 (laneBytes bfMem (laneAt bfMem i).2.1) bfMem.fmt.toNat = true := by decide

/-- The last lanes of an access at the end of the store lie outside it. -/
theorem test_load_edge : (laneAt ⟨BitVec.ofNat 21 (storeSize - 254), 2#4, 0#4, 0#21⟩ 126).2.2 = true ∧
    (laneAt ⟨BitVec.ofNat 21 (storeSize - 254), 2#4, 0#4, 0#21⟩ 127).2.2 = false := by decide

theorem test_mx_store_premises : (∀ i, i < 128 → accesses Cluster.init (vec 0 1 0 0) mxMem i = true →
      (laneAt mxMem i).1 + laneBytes mxMem (laneAt mxMem i).2.1 ≤ mxMem.scaleCs.toNat) ∧
    Memory.wf Cluster.init.store = true ∧
    mxLanes Cluster.init (vec 0 1 0 0) (accesses Cluster.init (vec 0 1 0 0) mxMem) 3 ≠ [] := by decide

theorem test_reduce_premises : (7#3 : BitVec 3) ≠ 0#3 ∧ (vec 1 2 0 0).vb = 0#5 ∧ (vec 1 2 0 0).vc = 0#5 := by decide

/-! ## Tensor units, accumulators, readers -/

/-- A weight bank of BF16 and of MXFP8. -/
def bankOf (fmt : Nat) : Bank := ⟨fmt, true, [], [], .none, .none⟩

def unitsOf (u : TUnit) : KMap TUnit := (List.range 4).map fun k => (k, u)

def matrixOf (fmt : BitVec 4) (srcPb : Bool := false) (scaleAreg : BitVec 4 := 0#4) : MatrixOp :=
  { start := true, drain := true, swap := true, tap := false, tapIndex := 0#3, opens := true, closes := true, depth := 2#4
    tile := 0#5, lenM1 := 0#6, wfmt := fmt, afmt := fmt, srcPb := srcPb, src := ⟨0#4, 0#32⟩, scaleAreg := scaleAreg, rowBase := 0#31 }

/-- The shadow banks are loaded; tile 0 holds elements, tile 1 scales. -/
def loaded (fmt : BitVec 4) : State := { with0 { region0 with main := { Prog.init with a := [(1, 4096#48)] } } with
  trailers := [(0, tile fmt), (1, tile 15#4)]
  clusters := [(0, { Cluster.init with units := unitsOf { TUnit.init with shadow := bankOf fmt.toNat } })] }

theorem test_matrix_premises : Issuable (loaded 2#4) h0 ∧ FallsInside (loaded 2#4) h0 ∧ PartsApart (loaded 2#4) 0 ∧
    matrixReason (loaded 2#4) h0 (matrixOf 2#4) = 0 ∧ matrixCheck (loaded 2#4) h0 (matrixOf 2#4) = .go ∧
    FeedReadable (loaded 2#4) h0 (matrixOf 2#4) ∧
    ∀ e ∈ bankChecks (loaded 2#4) 0 true 2 1, e.2 = .none := by
  unfold Issuable FallsInside PartsApart FeedReadable Readable Formatted
  refine ⟨by decide, by decide, by decide, by decide, by decide, ⟨by decide, fun h => by cases h⟩, by decide⟩

theorem test_matrix_mx_premises : matrixReason (loaded 6#4) h0 (matrixOf 6#4 false 1#4) = 0 ∧
    matrixCheck (loaded 6#4) h0 (matrixOf 6#4 false 1#4) = .go ∧
    FeedReadable (loaded 6#4) h0 (matrixOf 6#4 false 1#4) ∧ Fmt.isMx 6 = true := by
  unfold FeedReadable Readable Formatted
  refine ⟨by decide, by decide, ⟨by decide, fun h => by cases h⟩, by decide⟩

/-- A pass buffer of BF16 rows on this package. -/
def pbBf : PbDesc := ⟨0, 0, 0, 0, 0, 0, 2, 128, 4, 0, 0⟩
def pbJoin : PbDesc := ⟨0, 0, 0, 0, 0, 0, 14, 64, 4, 0, 0⟩
def held (d : PbDesc) (n : Nat) : PassBuf := { PassBuf.init d true with
  store := List.replicate n ⟨List.replicate d.entryBytes 1#8, false⟩
  produced := n }
def buffered (d : PbDesc) (n : Nat) (s : State) : State := { s with
  regions := s.regions.map fun e => (e.1, { e.2 with pbs := [d] })
  pbufs := [held d n] }

theorem test_matrix_buffer_premises : matrixReason (buffered pbBf 1 (loaded 2#4)) h0 (matrixOf 2#4 true) = 0 ∧
    matrixCheck (buffered pbBf 1 (loaded 2#4)) h0 (matrixOf 2#4 true) = .go ∧
    FeedReadable (buffered pbBf 1 (loaded 2#4)) h0 (matrixOf 2#4 true) := by
  unfold FeedReadable
  refine ⟨by decide, by decide, ⟨(fun h => by cases h), fun _ => ⟨pbBf, by decide, by unfold AtHand; decide⟩⟩⟩

/-- A stream of one instruction and one row, at its last region step, whose group closes. -/
def inst0 : Matrix := ⟨0, 1, 1, 0, 1, true, true, 2, none, 0, 0⟩
def stream0 : Stream := ⟨false, 0, 2, 2, 1, [inst0], [⟨0, 0, List.replicate 128 0#8, []⟩], 0, true, false, [], []⟩
def group0 (folds : Bool) : Group := ⟨0, 1, 2, true, folds, false, 0, 0⟩
def grouped (folds : Bool) : Cluster :=
  { Cluster.init with units := unitsOf { TUnit.init with active := bankOf 2, groups := [group0 folds] } }
def streaming : State := { with0 { region0 with stream := some stream0 } with clusters := [(0, grouped false)] }

theorem test_groups_fit (folds : Bool) : GroupsFit (grouped folds) := by
  intro u
  match u with
  | 0 | 1 | 2 | 3 => cases folds <;> decide
  | n + 4 => exact ⟨List.nodup_nil, fun g hg => absurd hg List.not_mem_nil⟩

theorem test_region_step_premises : (streaming.region 0).stream = some stream0 ∧ streaming.power.gates = false ∧
    instAt stream0 stream0.pos = some (0, inst0) ∧ PartsApart streaming 0 ∧ stream0.pos < inst0.start + 64 ∧
    (∀ e ∈ parts streaming 0, GroupsFit (streaming.cluster (clusterOf 0 e.2))) ∧
    (stream0.drained = true ∧ stream0.pos + 1 = streamEnd stream0) ∧ stream0.pos + 1 = inst0.start + inst0.cover ∧
    wordFor stream0 stream0.pos (offsetOf streaming 0 0) ≠ none := by
  refine ⟨by decide, by decide, by decide, by unfold PartsApart; decide, by decide, ?_, by decide, by decide, by decide⟩
  intro e he
  rw [show parts streaming 0 = [(0, 0)] by decide] at he
  rw [List.mem_singleton.1 he]
  exact test_groups_fit false

/-- The groups of tile 0 fold. -/
def foldingNow : State := { running with clusters := [(0, grouped true)] }

theorem test_fold_premises : (∃ e, e ∈ folding foldingNow 0 0) ∧ ∀ p, p < 17 → GroupsFit (foldingNow.cluster (clusterOf 0 p)) := by
  refine ⟨⟨(0, 0, group0 true), by decide⟩, ?_⟩
  intro p hp
  match p with
  | 0 => exact test_groups_fit true
  | n + 1 =>
    have h : foldingNow.cluster (clusterOf 0 (n + 1)) = .init := by
      show KMap.get _ _ (clusterOf 0 (n + 1)) = _
      unfold clusterOf
      simp [KMap.get, foldingNow]
    rw [h]
    exact fun u => ⟨List.nodup_nil, fun g hg => absurd hg List.not_mem_nil⟩

def preload0 : PreloadOp := ⟨0#5, 0#2, 15#4, false, 0#6, true, 2#4, 0#12, 0#12, 2#4, ⟨0#4, 0#32⟩⟩
def preloading : State := { running with trailers := owned 2#4 1 }

theorem test_preload_premises : Issuable preloading h0 ∧ FallsInside preloading h0 ∧ PartsApart preloading 0 ∧ preloadReason preload0 = 0 ∧
    (∀ e ∈ groupChecks preloading 0 15 true 0 1 2, e.2.2 = .ok) ∧ Memory.wf preloading.mem = true ∧
    (∀ e ∈ preloadSpans preloading h0 preload0, Readable preloading (regionWho preloading h0 0) e.2 (stripeRow 15 1 2) ∧
      Formatted preloading e.2 (stripeRow 15 1 2) 2) ∧
    (∀ e ∈ parts preloading 0, GroupsFit (preloading.cluster (clusterOf 0 e.2))) := by
  unfold Issuable FallsInside PartsApart Readable Formatted
  refine ⟨by decide, by decide, by decide, by decide, by decide, by decide, by decide, ?_⟩
  intro e he u
  exact ⟨List.nodup_nil, fun g hg => absurd hg List.not_mem_nil⟩

/-- Unit 0 holds the closed row 0 of the map that the program drained. -/
def marked : Cluster := { Cluster.init with acc := [(0, ⟨markOf 0, List.replicate 64 0#40⟩)] }
def results : State := { with0 { region0 with main := { Prog.init with map := some [⟨0, 64, 0, 1, true⟩] } } with
  clusters := [(0, marked)] }
def part0 : ReadPart := ⟨0, 0, 0, [⟨0, 0, 0, 1⟩]⟩
def read0 : TileReadOp := ⟨0#12, false, 0#2, 0#3, false, 0#6⟩
def rows0 : RowsOp := ⟨1#4, false, 0#6, 0#12, 0#12⟩

def parts0 (n : Nat) : List ReadPart := [⟨0, 0, 0, (List.range n).map fun i => ⟨i, 0, i, 1⟩⟩]
def marks (n : Nat) : State := { results with clusters := [(0, { Cluster.init with
    acc := (List.range n).map fun i => (i, ⟨markOf i, List.replicate 64 0#40⟩) })] }

theorem test_tile_read_premises : Issuable (marks 2) h0 ∧ FallsInside (marks 2) h0 ∧ PartsApart (marks 2) 0 ∧ tileReadReason read0 = 0 ∧
    ((readParts (marks 2) h0 false 0#6 0 2).bind fun l => l.mapM (shiftBlock read0.b.toNat)) = some (parts0 2) ∧
    ResultsReady (marks 2) h0 (tileReadUnits read0) (parts0 2) := by
  unfold Issuable FallsInside PartsApart ResultsReady; decide

theorem test_join_premises : pbDesc (buffered pbJoin 6 (marks 1)) 0 (0#8).toNat = some pbJoin ∧ pbJoin.format = 14 ∧
    readParts (buffered pbJoin 6 (marks 1)) h0 false 0#6 0 1 = some (parts0 1) ∧
    ResultsReady (buffered pbJoin 6 (marks 1)) h0 1 (parts0 1) ∧
    AtHand (buffered pbJoin 6 (marks 1)) pbJoin (joinBytes (buffered pbJoin 6 (marks 1)) h0 rows0) ∧
    ((joinOrder 1 (parts0 1) 1).map fun e => (e.1, rowKey e.2.1 (e.2.2.1.tile + e.2.2.2) e.2.2.1.row)).Nodup ∧
    (joinOrder 1 (parts0 1) 1).length * joinGroup ≤ joinBytes (buffered pbJoin 6 (marks 1)) h0 rows0 ∧
    consumedHere (buffered pbJoin 6 (marks 1)) pbJoin = true ∧ (bufOf (buffered pbJoin 6 (marks 1)) pbJoin).queue = [] := by
  unfold ResultsReady AtHand
  refine ⟨by decide, by decide, by decide, by decide, by decide, by decide, by decide, by decide, by decide⟩

/-! ## The tap and the root engines -/

/-- A tap descriptor: one range, Q 1, one group, BF16, beta 0, ring of 16 slots at 0, record at tile 2. -/
def tapDesc : List Byte := wordBytes [0x7A900100, 0x200, 0x10101, 0, 0, 16, 0, 0, 0x2000, 0, 0, 0, 0, 0, 0, 0]
def tapArm0 : TapArm := ⟨1, tapDesc, 0, 0, 0⟩
def tapReady : State := { running with mem := Memory.write [] 0 tapDesc }

theorem test_tap_arm_premises : bytesAt tapReady 0 64 = tapDesc ∧ Readable tapReady (regionWho tapReady h0 3) 0 64 ∧ tapValid tapDesc = true ∧
    Memory.wf tapReady.mem = true ∧ parts tapReady 0 = [(0, 0)] ∧ (∀ k ∈ (tapReady.region 0).taps, k.tap ≠ 1) ∧
    (∀ x ∈ tapGroup (tapFields tapDesc) 0, x.pos < 2 * (parts tapReady 0).length) ∧ tapGroup (tapFields tapDesc) 0 ≠ [] ∧
    tapOverlaps tapReady 0 (tapGroup (tapFields tapDesc) 0) = false ∧ tapDraining tapReady 0 (tapGroup (tapFields tapDesc) 0) = false := by
  unfold Readable; decide

/-- An armed index with a live pair at cluster 0. -/
def tapped (closed : Bool) (rows : List TapBlock) : State := { with0 { region0 with taps := [tapArm0] } with
  trailers := owned 0#4 140
  clusters := [(0, { Cluster.init with pairs := [(0, { TapPair.free with used := true, arm := tapArm0, closed := closed, formed := rows })] })] }

theorem test_tap_close_premises : (∃ k ∈ ((tapped false []).region 0).taps, k.tap = (1#3).toNat) ∧ (0 ∈ clustersOf 0) ∧
    (pairOf ((tapped false []).cluster 0) 0).live 1 = true ∧ (∀ k ∈ ((tapped false []).region 0).taps, k.tap ≠ (2#3).toNat) := by
  refine ⟨⟨tapArm0, by decide⟩, by decide, by decide, by decide⟩

/-- The ten blocks of a diagonal tile's row. -/
def formed0 : List TapBlock := List.replicate 10 ⟨0, 0, 0, [], []⟩
theorem test_tap_drain_premises : closedPairs (tapped true []) 0 1 = [(0, 0)] ∧ (pairOf ((tapped true []).cluster 0) 0).rows = [] ∧
    closedPairs (tapped true formed0) 0 1 = [(0, 0)] ∧ (pairOf ((tapped true formed0).cluster 0) 0).rows ≠ [] ∧
    (pairOf ((tapped true formed0).cluster 0) 0).arm.d.record = 0x2000 ∧
    Readable (tapped true formed0) ⟨some 1, 3, 0⟩ 0x2000 64 ∧ Readable (tapped true formed0) ⟨some 1, 3, 0⟩ (0x2000 + 65 * tileBytes) 64 ∧
    Stores (tapped true formed0) ⟨some 1, 3, 0⟩ 0x2000 (65 * tileBytes) ∧
    copySeq (bytesAt (tapped true formed0) 0x2000 64) = none ∧
    copySeq (bytesAt (tapped true formed0) (0x2000 + 65 * tileBytes) 64) = none := by
  unfold Readable Stores; decide

/-- A valid request at 0, one that is not (cap 0), and its slot at tile 1. -/
def request (cap : Nat) : List Byte := wordBytes [0x40070100, 0x2000, cap, f1, f1, 0, 0, 0, 0, 0, 4096, 0, 0, 0, 0, 0]
def asking (cap : Nat) : State := { running with
  trailers := owned 0#4 132
  mem := Memory.write [] 0 (request cap) }

theorem test_root_request_premises : Issuable (asking 1) h0 ∧ FallsInside (asking 1) h0 ∧ pageAccepts (asking 1) (Page.re 0) = true ∧
    bytesAt (asking 1) 0 64 = request 1 ∧ Readable (asking 1) (regionWho (asking 1) h0 4) 0 64 ∧ Memory.wf (asking 1).mem = true ∧
    reqValid (request 1) = true ∧ HeadsReadable (asking 1) (regionWho (asking 1) h0 4) (reqSlot (request 1)) (reqQ (request 1)) ∧
    slotUseFrom (rootQueue (asking 1) 0) (reqSlot (request 1)) (newestRoot (headsOf (asking 1) (reqSlot (request 1)) (reqQ (request 1)))) ≤
      reqUseFrom (request 1) ∧ (rootQueue (asking 1) 0).length < 64 ∧ reqValid (request 0) = false := by
  unfold Issuable FallsInside HeadsReadable Readable; decide

/-- A slot at 0: the control tile of layer 0 asks for fresh roots only up to staleness 5, and copy 0 holds a root of step 0. -/
def control (select pending : Nat) : List Byte := wordBytes [0x4C070110, 0, 5 * 65536 + select * 32768, pending, 0, 0, 0, 0]
def rootSlot (select pending : Nat) : State := { running with
  trailers := owned 0#4 132
  mem := Memory.write (Memory.write [] 0 (control select pending)) 4096 (wordBytes [0xB0070101, 0, 0, 0, 0, 0, 0, 0, 0, 1]) }
def fetch0 : RootFetchOp := ⟨0#21, 0#20, 0#15, 0#4⟩

theorem test_root_fetch_premises : partOf running 0 0 = some 0 ∧
    rootWaits (rootSlot 1 1) (regionWho (rootSlot 1 1) h0 1) 0 0 = true ∧ rebuildWaits (rootSlot 1 1) 0 32 = false ∧
    rootWaits (rootSlot 0 0) (regionWho (rootSlot 0 0) h0 1) 0 0 = false ∧ Memory.wf (rootSlot 0 0).mem = true ∧
    Readable (rootSlot 0 0) (regionWho (rootSlot 0 0) h0 1) 0 32 ∧
    Readable (rootSlot 0 0) (regionWho (rootSlot 0 0) h0 1) (copyAddr 0 1 0) 64 ∧
    Readable (rootSlot 0 0) (regionWho (rootSlot 0 0) h0 1) (copyAddr 0 1 1) 64 ∧
    eligible (bytesAt (rootSlot 0 0) (copyAddr 0 1 0) 64) (bytesAt (rootSlot 0 0) (copyAddr 0 1 1) 64) 0 =
      some (0, bytesAt (rootSlot 0 0) (copyAddr 0 1 0) 64) ∧
    0 - step48 (bytesAt (rootSlot 0 0) (copyAddr 0 1 0) 64) 3 ≤ bits (wordAt (bytesAt (rootSlot 0 0) 0 32) 2) 31 16 ∧
    0 < min 64 (4 * 65536 - 0) ∧ Readable (rootSlot 0 0) (regionWho (rootSlot 0 0) h0 1) (copyAddr 0 1 0 + tileBytes) 64 := by
  unfold Readable; decide

def fetchUse : List Nat := [0, 0, 0, 0, 64, 0, 0]
def fetchWaits : State := with0 { region0 with main := { Prog.init with inflight := [⟨0, 0, 6, .rootFetch fetchUse⟩] } }
theorem test_root_wait_premises : waitingFetch (fetchWaits.region 0) = some (false, fetchUse) ∧ fetchUse.length = 7 := by decide

/-! Root of a zero factor. -/
def Zeros (vs : List Nat) : Prop := ∀ v ∈ vs, v = 0 ∨ v = 0x80000000
def ZeroMat (x : Mat) : Prop := ∀ r ∈ x, Zeros r
def Ones (vs : List Nat) : Prop := ∀ v ∈ vs, v = 0 ∨ v = f1

theorem zero_getD {vs : List Nat} (h : Zeros vs) (i : Nat) : vs.getD i 0 = 0 ∨ vs.getD i 0 = 0x80000000 := by
  rw [List.getD_eq_getElem?_getD]
  cases e : vs[i]? with
  | none => exact .inl rfl
  | some v => exact h v (List.mem_of_getElem? e)

theorem row_getD {x : Mat} (h : ZeroMat x) (i : Nat) : Zeros (x.getD i []) := by
  rw [List.getD_eq_getElem?_getD]
  cases e : x[i]? with
  | none => exact fun v hv => absurd hv List.not_mem_nil
  | some v => exact h v (List.mem_of_getElem? e)

theorem zero_fma {x y acc : Nat} (hx : x = 0 ∨ x = 0x80000000) (hy : y = 0 ∨ y = f1) (ha : acc = 0 ∨ acc = 0x80000000) :
    ffma x y acc = 0 ∨ ffma x y acc = 0x80000000 := by
  rcases hx with rfl | rfl <;> rcases hy with rfl | rfl <;> rcases ha with rfl | rfl <;> decide

theorem zero_add {x y : Nat} (hx : x = 0 ∨ x = 0x80000000) (hy : y = 0 ∨ y = 0x80000000) : fadd x y = 0 ∨ fadd x y = 0x80000000 := by
  rcases hx with rfl | rfl <;> rcases hy with rfl | rfl <;> decide

theorem zero_chain {xs ys : List Nat} (hx : Zeros xs) (hy : Ones ys) : chain xs ys = 0 ∨ chain xs ys = 0x80000000 := by
  unfold chain
  have : ∀ (l : List (Nat × Nat)) (acc : Nat), (∀ e ∈ l, (e.1 = 0 ∨ e.1 = 0x80000000) ∧ (e.2 = 0 ∨ e.2 = f1)) → (acc = 0 ∨ acc = 0x80000000) →
      l.foldl (fun acc e => ffma e.1 e.2 acc) acc = 0 ∨ l.foldl (fun acc e => ffma e.1 e.2 acc) acc = 0x80000000 := by
    intro l
    induction l with
    | nil => exact fun acc _ h => h
    | cons e l ih =>
      intro acc hl ha
      exact ih _ (fun k hk => hl k (List.mem_cons_of_mem _ hk)) (zero_fma (hl e (List.mem_cons_self ..)).1 (hl e (List.mem_cons_self ..)).2 ha)
  exact this _ _ (fun e he => ⟨hx _ (List.of_mem_zip he).1, hy _ (List.of_mem_zip he).2⟩) (.inr rfl)

theorem zero_dot (k : Nat) : ∀ (xs ys : List Nat) (acc : Option Nat), Zeros xs → Ones ys → (∀ a, acc = some a → a = 0 ∨ a = 0x80000000) →
    dotGo k xs ys acc = 0 ∨ dotGo k xs ys acc = 0x80000000 := by
  induction k with
  | zero =>
    intro xs ys acc _ _ ha
    unfold dotGo
    cases acc with
    | none => exact .inl rfl
    | some a => exact ha a rfl
  | succ k ih =>
    intro xs ys acc hx hy ha
    unfold dotGo
    split
    · cases acc with
      | none => exact .inl rfl
      | some a => exact ha a rfl
    · have hc := zero_chain (fun v hv => hx v (List.mem_of_mem_take hv) : Zeros (xs.take 64)) (fun v hv => hy v (List.mem_of_mem_take hv) : Ones (ys.take 64))
      refine ih _ _ _ (fun v hv => hx v (List.mem_of_mem_drop hv)) (fun v hv => hy v (List.mem_of_mem_drop hv)) ?_
      intro a e
      cases acc with
      | none => injection e with e; exact e ▸ hc
      | some b => injection e with e; exact e ▸ zero_add (ha b rfl) hc

theorem mm_zero {x y : Mat} (n : Nat) (hx : ZeroMat x) (hy : ∀ r ∈ y, Ones r) : ZeroMat (mm x y n) := by
  intro r hr v hv
  unfold mm at hr
  obtain ⟨r0, h0, rfl⟩ := List.mem_map.1 hr
  obtain ⟨c, hc, rfl⟩ := List.mem_map.1 hv
  refine zero_dot _ _ _ _ (hx r0 h0) ?_ (fun a e => by cases e)
  unfold transpose at hc
  obtain ⟨j, _, rfl⟩ := List.mem_map.1 hc
  intro w hw
  obtain ⟨q, hq, rfl⟩ := List.mem_map.1 hw
  rw [List.getD_eq_getElem?_getD]
  cases e : q[j]? with
  | none => exact .inl rfl
  | some z => exact hy q hq z (List.mem_of_getElem? e)

theorem transpose_zero {x : Mat} (n : Nat) (hx : ZeroMat x) : ZeroMat (transpose x n) := by
  intro r hr v hv
  unfold transpose at hr
  obtain ⟨j, _, rfl⟩ := List.mem_map.1 hr
  obtain ⟨q, hq, rfl⟩ := List.mem_map.1 hv
  exact zero_getD (hx q hq) j

theorem putCols_zero {x new : Mat} {idx : List Nat} (hx : ZeroMat x) (hn : ZeroMat new) : ZeroMat (putCols x new idx) := by
  intro r hr v hv
  unfold putCols at hr
  obtain ⟨e, he, rfl⟩ := List.mem_map.1 hr
  obtain ⟨u, hu, rfl⟩ := List.mem_map.1 hv
  split
  · exact zero_getD (hn _ (List.of_mem_zip he).2) _
  · exact hx _ (List.of_mem_zip he).1 _ (List.of_mem_zip hu).1

theorem identity_ones (n : Nat) : ∀ r ∈ identity n f1, Ones r := by
  intro r hr v hv
  unfold identity at hr
  obtain ⟨i, _, rfl⟩ := List.mem_map.1 hr
  obtain ⟨j, _, rfl⟩ := List.mem_map.1 hv
  split
  · exact .inr rfl
  · exact .inl rfl

theorem applyCols_zero {x : Mat} (idx : List Nat) (hx : ZeroMat x) : ZeroMat (applyCols x (identity 128 f1) idx) := by
  unfold applyCols
  refine putCols_zero hx (mm_zero _ ?_ (identity_ones 128))
  intro r hr v hv
  obtain ⟨q, hq, rfl⟩ := List.mem_map.1 hr
  obtain ⟨i, _, rfl⟩ := List.mem_map.1 hv
  exact zero_getD (hx q hq) i

theorem sumSquares_zero {vs : List Nat} (h : Zeros vs) : sumSquares vs = 0 := by
  unfold sumSquares
  induction vs with
  | nil => rfl
  | cons v vs ih =>
    have : fadd 0 (fmul v v) = 0 := by rcases h v (List.mem_cons_self ..) with rfl | rfl <;> decide
    rw [List.foldl_cons, this]
    exact ih fun w hw => h w (List.mem_cons_of_mem _ hw)

theorem innerGo_zero (n tol : Nat) (k : Nat) {a : Mat} (j : Mat) (h : ZeroMat a) (ht : fle 0 (fmul tol 0) = true) : innerGo n tol k a j = j := by
  cases k with
  | zero => rfl
  | succ k =>
    unfold innerGo
    have h1 : offFro a = 0 := by
      unfold offFro
      rw [sumSquares_zero]
      · decide
      · intro v hv
        obtain ⟨e, he, hv⟩ := List.mem_flatMap.1 hv
        exact h _ (List.of_mem_zip he).1 _ (List.mem_of_mem_eraseIdx hv)
    have h2 : fro a = 0 := by
      unfold fro
      rw [sumSquares_zero]
      · decide
      · intro v hv
        obtain ⟨r, hr, hv⟩ := List.mem_flatten.1 hv
        exact h r hr v hv
    rw [h1, h2, ht]
    rfl

theorem putCols_length (x new : Mat) (idx : List Nat) (h : new.length = x.length) : (putCols x new idx).length = x.length := by
  unfold putCols
  rw [List.length_map, List.length_zip, h, Nat.min_self]

theorem mm_length (x y : Mat) (n : Nat) : (mm x y n).length = x.length := by unfold mm; rw [List.length_map]

theorem applyCols_length (x j : Mat) (idx : List Nat) : (applyCols x j idx).length = x.length := by
  unfold applyCols
  exact putCols_length _ _ _ (by rw [mm_length, List.length_map])

theorem pairStep_zero (n tol : Nat) (av : Mat × Mat) (e : Nat × Nat) (h : ZeroMat av.1) (ht : fle 0 (fmul tol 0) = true) :
    ZeroMat (pairStep n tol av e).1 ∧ (pairStep n tol av e).2.length = av.2.length := by
  unfold pairStep
  simp only
  rw [innerGo_zero _ _ _ _ _ ht]
  · exact ⟨applyCols_zero _ (transpose_zero _ (applyCols_zero _ (transpose_zero _ h))), applyCols_length _ _ _⟩
  · intro r hr v hv
    obtain ⟨i, _, rfl⟩ := List.mem_map.1 hr
    obtain ⟨k, _, rfl⟩ := List.mem_map.1 hv
    exact zero_getD (row_getD h i) k

theorem eigenSweep_zero (n tol : Nat) (av : Mat × Mat) (h : ZeroMat av.1) (ht : fle 0 (fmul tol 0) = true) :
    ZeroMat (eigenSweep n tol av).1 ∧ (eigenSweep n tol av).2.length = av.2.length := by
  unfold eigenSweep
  simp only
  generalize List.flatMap _ _ = l
  induction l generalizing av with
  | nil => exact ⟨h, rfl⟩
  | cons e l ih =>
    have hp := pairStep_zero n tol av e h ht
    exact ⟨(ih _ hp.1).1, (ih _ hp.1).2.trans hp.2⟩

theorem zip_range_length {α : Type} (x : List α) : (x.zip (List.range x.length)).length = x.length := by
  rw [List.length_zip, List.length_range, Nat.min_self]

/-- The eigen method of a zero factor converges after one sweep on an n × n root. -/
theorem eigen_zero (n tol cap eps : Nat) (av : Mat × Mat) (h : ZeroMat av.1) (hv : av.2.length = n) (hc : 0 < cap)
    (ht : fle 0 (fmul tol 0) = true) (hr : fle 0 tol = true)
    (he : ∀ l, l = 0 ∨ l = 0x80000000 → ffinite (eigenF 0 (fadd (if flt l 0 then 0 else l) eps)) = true) :
    (eigen av n 0 tol cap eps 0).att.fate = .converged ∧ (eigen av n 0 tol cap eps 0).att.root.length = n ∧
      ∀ r ∈ (eigen av n 0 tol cap eps 0).att.root, r.length = n := by
  obtain ⟨c, rfl⟩ : ∃ c, cap = c + 1 := ⟨cap - 1, by omega⟩
  have hs := eigenSweep_zero n tol av h ht
  have hgo : eigenGo n tol 0 (c + 1) (c + 1) av 0 = (eigenSweep n tol av, 0, 1, true) := by
    unfold eigenGo
    have : eigenResidual (eigenSweep n tol av).1 0 = 0 := by
      unfold eigenResidual
      rw [show (num32 0).isZero = true by decide]
      rfl
    simp only [this, hr, if_true]
    rw [Nat.add_sub_cancel_left]
  unfold eigen
  simp only [hgo]
  have hfin : ((List.map (fun l => eigenF 0 (fadd (if flt l 0 = true then 0 else l) eps))
      (List.map (fun k => matAt (eigenSweep n tol av).1 k k) (List.range n))).any fun x => !ffinite x) = false := by
    rw [List.any_eq_false]
    intro x hx
    obtain ⟨l, hl, rfl⟩ := List.mem_map.1 hx
    obtain ⟨k, _, rfl⟩ := List.mem_map.1 hl
    have hk := he (matAt (eigenSweep n tol av).1 k k) (zero_getD (row_getD hs.1 k) k)
    rw [hk]
    decide
  simp only [Bool.not_true, Bool.false_eq_true, if_false, hfin]
  refine ⟨trivial, ?_, ?_⟩
  · unfold symmetrise
    rw [List.length_map, zip_range_length, mm_length, mm_length, hs.2, hv]
  · intro r hr
    unfold symmetrise at hr
    obtain ⟨e, he, rfl⟩ := List.mem_map.1 hr
    rw [List.length_map, zip_range_length]
    have hm := (List.of_mem_zip he).1
    unfold mm at hm
    obtain ⟨q, _, hq⟩ := List.mem_map.1 hm
    rw [← hq]
    simp [transpose]

/-! ## A root run whose hypotheses hold: a zero factor -/

/-- A request for q 1, method 2, exponent 1, fixed damping 1, cap 1, tolerance 1, its record at 0 and its slot at tile 130. -/
def rootReq : List Byte := wordBytes [0x40070100, 0x4000, 1, f1, f1, 0, 0, 0, 0, 0, 130 * 4096, 0, 0, 0, 0, 0]
def recordHead : List Byte := wordBytes [0xFAC70101, 0, 0, 0, 0, 1, 1, 0, 16, 0, 0, 0, 0, 0, 0, 0]
def rooted : State := { running with
  trailers := owned 0#4 400
  stackMap := [(0, { Stack.init with ranges := [(0, ⟨true, false, 0, 512, 0x100#12⟩)] })]
  mem := Memory.write [] 0 recordHead
  roots := [(0, [⟨rootReq, some 1⟩])] }
def rootWho : Who := ⟨some 1, 4, 0⟩
@[irreducible] def rootEls : List Nat := unpackBits 32 65536 (bytesAt rooted 4096 (64 * 4096))
def rootTs : List ((Nat × Nat) × Nat × List Nat) := [((0, 0), 0, rootEls)]
theorem rooted_trailer (a : Nat) (h : a / tileBytes < 400) : trailerAt rooted a = tile 0#4 := by
  show KMap.get (owned 0#4 400) _ _ = _
  unfold owned
  rw [List.range_eq_range']
  exact get_range 0 400 _ _ _ ⟨Nat.zero_le _, by omega⟩

theorem test_root_run_record : RecordHeld rooted rootWho rootReq 0 0 0 rootEls := by
  refine ⟨0, 0, 0, 1, 0, by decide, by decide, by decide, by unfold Readable; decide, by unfold Readable; decide, by decide, by decide, by decide,
    by unfold Readable; decide, by decide, by unfold rootEls; rfl⟩
theorem rooted_byte (a : Nat) (h : 64 ≤ a) : Memory.byte rooted.mem a = 0#8 := by
  show Memory.byte (Memory.write [] 0 recordHead) a = 0#8
  rw [Laws.byte_write, if_neg]
  · rfl
  · have : recordHead.length = 64 := by decide
    omega

theorem rooted_els : Zeros rootEls := by
  intro v hv
  unfold rootEls unpackBits at hv
  obtain ⟨i, _, rfl⟩ := List.mem_map.1 hv
  have : bytesAt rooted 4096 (64 * 4096) = List.replicate (64 * 4096) 0#8 := by
    unfold bytesAt
    rw [List.eq_replicate_iff]
    refine ⟨by rw [List.length_map, List.length_range], ?_⟩
    intro b hb
    obtain ⟨k, _, rfl⟩ := List.mem_map.1 hb
    exact rooted_byte _ (by omega)
  rw [this, zero_bytes]
  left
  simp

theorem zero_factor (st : Nat) (els : List Nat) (hz : Zeros els) : ZeroMat (factorMat 1 [((0, 0), st, els)]) := by
  intro r hr v hv
  unfold factorMat at hr
  obtain ⟨x, hx, rfl⟩ := List.mem_map.1 hr
  obtain ⟨y, hy, rfl⟩ := List.mem_map.1 hv
  have h (n : Nat) (h : n ∈ List.range (256 * 1)) : n / 256 = 0 := Nat.div_eq_of_lt (List.mem_range.1 h)
  simp only [h x hx, h y hy]
  exact zero_getD hz _

theorem attempts_eigen (b : List Byte) (a ad : Mat) (ee : Nat) (g : EigenOut) (hm : reqMethod b = 2)
    (hg : eigen (a, identity (reqF b) f1) (reqF b) (reqPLog b) (reqTol b) (reqCap b) ee (fro a) = g) (hc : g.att.fate = .converged) :
    (attempts b a ad ee none false).root = some g.att.root := by
  unfold attempts coldAttempt addEigen
  simp [hg, hm, hc, RunOut.empty]

/-- A zero factor gives this request a root of 256 rows of 256 elements. -/
theorem zero_root (a : Mat) (hz : ZeroMat a) : ∃ x, (attempts rootReq a (dampedFactor a (epsEff rootReq a)) (epsEff rootReq a) none false).root =
    some x ∧ (matBytes x).length = 64 * 1 * 1 * tileBytes := by
  generalize dampedFactor a (epsEff rootReq a) = ad
  have he : epsEff rootReq a = f1 := by
    unfold epsEff
    rw [show reqDamp rootReq = 0 by decide]
    show reqEps rootReq = f1
    decide
  have hfro : fro a = 0 := by
    unfold fro
    rw [sumSquares_zero]
    · decide
    · intro v hv
      obtain ⟨r, hr, hv⟩ := List.mem_flatten.1 hv
      exact hz r hr v hv
  have hid : (identity 256 f1).length = 256 := by unfold identity; rw [List.length_map, List.length_range]
  obtain ⟨h1, h2, h3⟩ := eigen_zero 256 (reqTol rootReq) (reqCap rootReq) f1 (a, identity 256 f1) hz
    hid (by decide) (by decide) (by decide) (by rintro l (rfl | rfl) <;> decide)
  refine ⟨(eigen (a, identity 256 f1) 256 0 (reqTol rootReq) (reqCap rootReq) f1 0).att.root, ?_, ?_⟩
  · refine attempts_eigen rootReq a ad _ _ (by decide) ?_ h1
    rw [he, show reqF rootReq = 256 by decide, show reqPLog rootReq = 0 by decide, hfro]
  · unfold matBytes
    have : ∀ (l : Mat), (∀ r ∈ l, r.length = 256) → (l.flatMap wordBytes).length = l.length * 1024 := by
      intro l
      induction l with
      | nil => exact fun _ => rfl
      | cons r l ih =>
        intro hl
        rw [List.flatMap_cons, List.length_append, ih fun q hq => hl q (List.mem_cons_of_mem _ hq), List.length_cons]
        have hw : ∀ ws : List Nat, (wordBytes ws).length = 4 * ws.length := by
          intro ws
          induction ws with
          | nil => rfl
          | cons w ws ihw =>
            unfold wordBytes at ihw ⊢
            rw [List.flatMap_cons, List.length_append, ihw, List.length_cons]
            show 4 + _ = _
            omega
        rw [hw, hl r (List.mem_cons_self ..)]
        omega
    rw [this _ h3, h2]
    decide

theorem test_root_run_premises : rootQueue rooted 0 = [⟨rootReq, some 1⟩] ∧ reqQ rootReq = 1 ∧ Memory.wf rooted.mem = true ∧
    rootTs.map (·.1) = factorTiles 1 ∧ (∀ e ∈ rootTs, RecordHeld rooted rootWho rootReq e.1.1 e.1.2 e.2.1 e.2.2) ∧
    (∀ v ∈ (factorMat 1 rootTs).flatten, ffinite v = true) ∧ reqF rootReq ≤ 512 ∧ reqWarm rootReq = false ∧
    (∃ x, (attempts rootReq (factorMat 1 rootTs) (dampedFactor (factorMat 1 rootTs) (epsEff rootReq (factorMat 1 rootTs)))
      (epsEff rootReq (factorMat 1 rootTs)) none false).root = some x ∧ (matBytes x).length = 64 * 1 * 1 * tileBytes) ∧
    HeadsReadable rooted rootWho (reqSlot rootReq) 1 ∧ rootSeq (headsOf rooted (reqSlot rootReq) 1).1 = none ∧
    rootSeq (headsOf rooted (reqSlot rootReq) 1).2 = none ∧ reqSlot rootReq % tileBytes = 0 ∧
    reqSlot rootReq + (3 + 256 * 1 * 1) * tileBytes ≤ 2 ^ 48 ∧
    Stores rooted rootWho (reqSlot rootReq + tileBytes) ((1 + 128 * 1 * 1) * tileBytes) ∧
    (∀ e ∈ rooted.regions, e.2.main.inflight ++ e.2.task.inflight = []) := by
  refine ⟨by decide, by decide, by decide, by decide, ?_, ?_, by decide, by decide, zero_root _ (zero_factor 0 rootEls rooted_els), ?_, by decide, by decide, by decide,
    by decide, ?_, by decide⟩
  · intro e he
    rw [List.mem_singleton.1 he]
    exact test_root_run_record
  · intro v hv
    obtain ⟨r, hr, hv⟩ := List.mem_flatten.1 hv
    rcases zero_factor 0 rootEls rooted_els r hr v hv with rfl | rfl <;> decide
  · unfold HeadsReadable Readable; decide
  · intro a ha
    have h : ∀ a ∈ spanTiles (reqSlot rootReq + tileBytes) ((1 + 128 * 1 * 1) * tileBytes), admits rooted rootWho a = none ∧
        a / tileBytes < 400 := by decide
    exact ⟨(h a ha).1, by rw [rooted_trailer a (h a ha).2]; rfl⟩

/-! ## Moves and the valve -/

def load0 (version : BitVec 2) (roundAware : Bool) : WeightLoadOp := ⟨2#4, 1#16, 1#8, roundAware, version, 0#8, false⟩
def loading : State := { running with trailers := owned 2#4 16 }

theorem test_weight_load_premises : loadReason (load0 0#2 false) = 0 ∧ maskAbsent loading 0 1#16 = false ∧ isRing (load0 0#2 false) = false ∧
    loadUnits loading 0 1#16 ≠ [] ∧ Memory.wf loading.mem = true ∧
    ∀ e ∈ loadUnits loading 0 1#16, BlockReadable loading (loadWho (loading.courtOf 0)) 2 false (unitOff (load0 0#2 false) e) := by
  refine ⟨by decide, by decide, by decide, by decide, by decide, ?_⟩
  unfold BlockReadable Readable; decide

/-- A version ring of one slot of 17 tiles at 0, whose version 0 is committed: 8 tiles of high halves, then the bitmap. -/
def ringHead0 : List Byte := wordBytes ([0x51D70110, 17, 0, 0xC0000000] ++ List.replicate 12 0)
def ring0 : State := { with0 { region0 with main := { Prog.init with step := 1#48 } } with
  trailers := (0, tile 0#4) :: (List.range 16).map (fun i => (i + 1, tile 2#4)) ++ [(17, tile 0#4)]
  mem := Memory.write [] 0 ringHead0 }
theorem test_ring_load_premises : isRing (load0 1#2 true) = true ∧ loadVersion (load0 1#2 true) (stepOf ring0 h0) = some (some 0) ∧
    Readable ring0 (loadWho (ring0.courtOf 0)) 0 64 ∧ bytesAt ring0 0 64 = ringHead0 ∧ ringSlot ringHead0 (some 0) = some 0 ∧ 
    ringState ringHead0 0 = 3 ∧ ringSlot ringHead0 none = some 0 ∧
    Fmt.agree (trailerAt ring0 0).format.toNat 0 = true ∧
    (∀ e ∈ loadUnits ring0 0 1#16, BlockReadable ring0 (loadWho (ring0.courtOf 0)) 2 false (4096 + unitOff (load0 1#2 true) e) ∧
      ∀ first n bm, first = unitOff (load0 1#2 true) e / 2 → n = blockBytes 2 false / 2 → bm = 4096 + 2 * ringElems 17 * tileBytes →
        Readable ring0 (loadWho (ring0.courtOf 0)) (bm + first / 8) ((first % 8 + n + 7) / 8) ∧
          Formatted ring0 (bm + first / 8) ((first % 8 + n + 7) / 8) 0) := by
  unfold Readable
  refine ⟨by decide, by decide, by decide, by decide, by decide, by decide, by decide, by decide, ?_⟩
  intro e he
  rw [show loadUnits ring0 0 1#16 = [(0, 0, 0), (0, 0, 1), (0, 0, 2), (0, 0, 3)] by decide] at he
  unfold BlockReadable Readable Formatted
  refine ⟨?_, ?_⟩
  · revert e; decide
  · rintro first n bm rfl rfl rfl
    revert e; decide

def move0 : FetchOp := ⟨0#21, 0#15, 1#16, 0#12, 2#4⟩

theorem test_fetch_store_premises : fetchSel running 0 0 move0 = [(0, 0)] ∧ fetchBytes move0 = 64 ∧ move0.cs.toNat + fetchBytes move0 ≤ storeSize ∧
    maskAbsent running 0 1#16 = false ∧ Readable running ⟨running.courtOf 0, 1, 2⟩ 0 64 ∧ Stores running ⟨running.courtOf 0, 6, 2⟩ 0 64 := by
  unfold Readable Stores; decide

theorem test_copy_premises : addrOf (running.prog h0) ⟨0#4, 0#32⟩ = 0 ∧ addrOf (running.prog h0) ⟨0#4, 8192#32⟩ = 8192 ∧
    (0 + (1#16 + 1).toNat * tileBytes ≤ 8192) ∧ Memory.wf running.mem = true ∧
    rebuildWaits running 0 (2 * tileBytes) = false ∧ rebuildWaits running 8192 (2 * tileBytes) = false ∧
    ∀ i, i < 2 → Copyable running ⟨running.courtOf 0, 6, 2⟩ (0 + i * tileBytes) (8192 + i * tileBytes) := by
  unfold Copyable; decide

def pbMove (mem : Bool) : PbMoveOp := ⟨0#8, mem, 0#16, 0#21, ⟨0#4, 0#32⟩, 0#4⟩
def pbSmall : PbDesc := ⟨0, 0, 0, 0, 0, 0, 2, 16, 4, 0, 0⟩

theorem test_send_receive_premises : pbDesc (buffered pbSmall 2 running) 0 0 = some pbSmall ∧ pbMoveBytes pbSmall (pbMove false) = 16 ∧
    Memory.wf running.mem = true ∧ partOf (buffered pbSmall 2 running) 0 0 = some 0 ∧
    Readable (buffered pbSmall 2 running) ⟨some 1, 1, 2⟩ 0 16 ∧ Stores (buffered pbSmall 2 running) ⟨some 1, 6, 2⟩ 0 16 ∧
    AtHand (buffered pbSmall 2 running) pbSmall 16 ∧ (bufOf (buffered pbSmall 2 running) pbSmall).queue = [] ∧
    (pbMove false).cs.toNat + 16 ≤ storeSize := by
  unfold Readable Stores AtHand; decide

/-- An arena of 4 tiles at tile 2 and a deep area of 4 tiles, with the grants of both. -/
def arenas (x : Region) : State :=
  let s : State := { with0 x with
    stackMap := [(0, { Stack.init with ranges := [(0, ⟨true, false, 0, 256, 0x100#12⟩), (1, ⟨true, true, 0, 256, 0x100#12⟩)] })]
    trailers := owned 0#4 8 }
  let s := s.setFld48 (Page.rg 0) F.RG_ARENA_BASE_LO_base F.RG_ARENA_BASE_HI_base 0x2000
  let s := s.setFld (Page.rg 0) F.RG_ARENA_TILES_tiles 4
  let s := s.setFld48 (Page.rg 0) F.RG_DEEP_BASE_LO_base F.RG_DEEP_BASE_HI_base (2 ^ 42)
  s.setFld (Page.rg 0) F.RG_DEEP_TILES_tiles 4
def stored : Region := { region0 with sets := [⟨7, false, 1, 0⟩], arena := [⟨0, 1, false⟩], arenaHead := 1, migrate := true }

theorem test_valve_premises : findSet ((arenas region0).region 0) 7 = none ∧ offloadArea (arenas region0) 0 1 true = some false ∧
    offloadArea (arenas region0) 0 1 false = some true ∧
    (∀ i, i < 1 → Copyable (arenas region0) (valveWho (arenas region0) h0) (0 + i * tileBytes) (areaTile (arenas region0) 0 false 0 i)) ∧
    (∀ i, i < 1 → Copyable (arenas region0) (valveWho (arenas region0) h0) (0 + i * tileBytes) (areaTile (arenas region0) 0 true 0 i)) ∧
    rebuildWaits (arenas region0) 0 tileBytes = false ∧ Memory.wf (arenas region0).mem = true ∧
    findSet ((arenas stored).region 0) 7 = some ⟨7, false, 1, 0⟩ ∧ 1 ≤ areaTiles (arenas stored) 0 false ∧
    Copyable (arenas stored) (valveWho (arenas stored) h0) (areaTile (arenas stored) 0 false 0 0) 0 ∧
    ((arenas stored).region 0).migrate = true := by
  unfold Copyable; decide

/-! ## Egress and the clusters' registers -/

def egressOp (fop tfmt : BitVec 4) (pb : Bool) : EgressOp :=
  { dstPb := pb, tfmt := tfmt, rnd := 0#2, sat := false, fop := fop.setWidth 2, fshape := 0#2, ffmt := if fop = 0#4 then 0#4 else 1#4, fcs := 0#15
    dst := ⟨0#4, 0#32⟩ }

theorem test_egress_premises : Issuable (marks 1) h0 ∧ FallsInside (marks 1) h0 ∧ PartsApart (marks 1) 0 ∧
    egressReason (marks 1) h0 rows0 (egressOp 0#4 6#4 false) = 0 ∧ egressReason (marks 1) h0 rows0 (egressOp 1#4 2#4 false) = 0 ∧
    readParts (marks 1) h0 false 0#6 0 1 = some (parts0 1) ∧ ResultsReady (marks 1) h0 1 (parts0 1) ∧ mapWidth ((marks 1).prog h0).map = 1 ∧
    ((operandSpan rows0 (egressOp 1#4 2#4 false) 1).1 + (operandSpan rows0 (egressOp 1#4 2#4 false) 1).2 ≤ storeSize ∧
      storeAgrees ((marks 1).cluster 0) (operandSpan rows0 (egressOp 1#4 2#4 false) 1).1 (operandSpan rows0 (egressOp 1#4 2#4 false) 1).2 1 = true) ∧
    (accRow ((marks 1).cluster 0) 0 0 0).els.length = 64 ∧ egressWaits (marks 1) h0 rows0 (egressOp 0#4 6#4 false) = false ∧
    Stores (marks 1) (regionWho (marks 1) h0 0) 0 (tileBytes + 2) := by
  unfold Issuable FallsInside PartsApart ResultsReady Stores; decide

theorem test_egress_buffer_premises : egressReason (buffered pbBf 0 (marks 1)) h0 rows0 (egressOp 0#4 2#4 true) = 0 ∧
    pbDesc (buffered pbBf 0 (marks 1)) 0 0 = some pbBf ∧ pbBf.format = (2#4).toNat := by decide

def byMc : RegHdr := ⟨.mc, 0#16, 0#64⟩

theorem test_cluster_register_premises : Accepted running byMc (Page.acc 0 + 0x40) ∧ bit (0xF1#32).toNat 0 = true ∧
    (running.region (0 / 17)).stream = none ∧ Accepted running byMc (Page.ve 0 + 0x60) ∧
    pageQuiet (with0 Region.init) (0 / 17) = true ∧ Accepted (with0 Region.init) byMc (Page.ve 0 + 0x60) ∧
    Accepted running byMc (Page.ve 0 + 0x50) ∧ bit (0x80000000#32).toNat 31 = true ∧ Accepted running byMc (Page.court 1 + 0x60) ∧
    bit (0x08000000#32).toNat 27 = true ∧ Accepted running byMc (Page.acc 543 + 0x40) ∧ Accepted running byMc (Page.court 15 + 0x60) := by
  unfold Accepted; decide

theorem test_acc_discard_groups : GroupsFit ((foldingNow).cluster 0) := test_groups_fit true

/-! ## Huddles -/

/-- Device 1's package, fabric port 1 trained, with a group 5 of court 1. -/
def onFabric (s : State) : State :=
  (s.setFld Page.pkg F.PKG_DEVICE_ID_device_id 1).setFld (Page.eth 1) F.ETH_STATUS_mode 1
def group5 (root commit : Bool) (children : List Nat) : HGroup :=
  { id := 5, commit := commit, court := 1, subtreeM1 := children.length, regions := 1, parent := 9, isRoot := root, children := children, ports := 2
    timeoutMs := 10, out := [], decided := [], last := none, doomed := [] }
def huddled (g : HGroup) : State := { onFabric running with groups := [(0, g)] }
def num7 (regions : Nat) (children : List (Nat × Nat)) (arrived : Bool) : HNum :=
  { HNum.init 7 with
    regions := regions, step := some 0, children := children, arrived := arrived }
def fromDev (d : BitVec 16) : WireHdr := ⟨1#5, 0#4, d, 1#16, 0x20000005#32, 0#32, 0#32, 0#32, false, false, 0#16, true, false⟩

theorem test_arrive_premises : Issuable (huddled (group5 true true [2])) h0 ∧ FallsInside (huddled (group5 true true [2])) h0 ∧
    groupIndex (huddled (group5 true true [2])) (5#16).toNat = some 0 ∧ Undecided (huddled (group5 true true [2])) 0 7 ∧
    0 ∉ (group (huddled (group5 true true [2])) 0).doomed ∧ h0.task = false ∧
    ((huddled (group5 true true [2])).region 0).taskRunning = false ∧ ((huddled (group5 true true [2])).region 0).bench = [] := by
  unfold Issuable FallsInside Undecided; decide

/-- A wait on a number not decided, completed, and failed. -/
theorem test_wait_premises (d : Nat) (h : d < 3) :
    KMap.wf (group (huddled { group5 true true [2] with decided := if d = 0 then [] else [(7, d)] }) 0).decided (fun _ => 0) = true := by
  match d with
  | 0 | 1 | 2 => decide

theorem test_arrive_msg_premises : InTurn (huddled (group5 true true [2])) (fromDev 2) ∧
    groupIndex (huddled (group5 true true [2])) (5#16).toNat = some 0 ∧ (fromDev 2).src.toNat ∈ (group5 true true [2]).children ∧
    Undecided (huddled (group5 true true [2])) 0 (7#48).toNat ∧ (group5 true true [2]).court < 16 ∧
    ((group5 true true [2]).isRoot && (num7 1 [] true).arrived &&
      countedArrivals (group5 true true [2]) { num7 1 [] true with children := [(2, 1)] } == (group5 true true [2]).subtreeM1 + 1) = true := by
  unfold InTurn Undecided; decide

theorem test_huddle_quiet (g : HGroup) (h : g.id = 5) : HuddleQuiet (huddled g) g.id 7 :=
  by
  refine ⟨fun e he => absurd he List.not_mem_nil, ?_⟩
  rw [h]
  exact (by decide : relayRole (onFabric running) 5 7 = none)

/-- The package's arrival at the root and at an inner package. -/
theorem test_package_arrive_premises :
    canArrive (huddled { group5 true false [] with out := [num7 1 [] false] }) 0 7 = true ∧
    ((group5 true false []).isRoot && countedArrivals { group5 true false [] with out := [num7 1 [] false] } (num7 1 [] false) ==
      (group5 true false []).subtreeM1 + 1) = true ∧
    canArrive (huddled { group5 false false [] with out := [num7 1 [] false] }) 0 7 = true ∧ (num7 1 [] false).step = some 0 := by decide

theorem test_huddle_decision_premises : InTurn (huddled (group5 false true [2])) (fromDev 9) ∧
    groupIndex (huddled (group5 false true [2])) (5#16).toNat = some 0 ∧ Undecided (huddled (group5 false true [2])) 0 (7#48).toNat ∧
    (group5 false true [2]).parent = (fromDev 9).src.toNat ∧ (fromDev 9).src.toNat ∉ (group5 false true [2]).children ∧
    InTurn (huddled (group5 true true [2])) (fromDev 2) ∧ (fromDev 2).src.toNat ∈ (group5 true true [2]).children := by
  unfold InTurn Undecided; decide

def outGroup (root arrived : Bool) : HGroup := { group5 root false [2] with out := [num7 1 [] arrived] }

theorem test_huddle_timeout_premises (root : Bool) : findNum (outGroup root false) (7#48).toNat = some (num7 1 [] false) ∧
    (outGroup root false).timeoutMs ≠ 0 ∧ localArrived (huddled (outGroup root false)) (outGroup root false) (num7 1 [] false) = true ∧
    (num7 1 [] false).failedUp = false := by cases root <;> decide

theorem test_huddle_orphan_premises : findNum (outGroup false true) (7#48).toNat = some (num7 1 [] true) ∧ (outGroup false true).timeoutMs ≠ 0 ∧
    (num7 1 [] true).arrived = true ∧ (num7 1 [] true).orphan = false := by decide

def declaring : State := (huddled (outGroup true false)).setFld48 Page.ce F.CE_HUDDLE_NUM_LO_number F.CE_HUDDLE_NUM_HI_number 7

theorem test_huddle_declare_premises : Accepted declaring byMc (Page.ce + 0x6C) ∧ cmdNum declaring = 7 ∧
    findNum (group declaring (0#8).toNat) 7 = some (num7 1 [] false) ∧ relayRole declaring 5 7 = none ∧
    (group declaring 0).children.Nodup ∧ ∀ d ∈ (group declaring 0).children, d ≠ (group declaring 0).parent := by
  unfold Accepted; decide

/-! ## Host sessions and commands -/

def anyone : NetAddr := ⟨true, 5#128⟩
def allSessions : KMap Session := (List.range 65).map fun i => (i, ⟨true, true, 0, 0, 0, 0, 0, 0, 0⟩)

theorem test_session_premises : isReady running = true ∧ freeSession running = some 0 ∧ freeSession { running with sessions := allSessions } = none ∧
    admitted running anyone = true ∧ admitted (running.setFld Page.h F.H_ALLOW_LEN_length 128) anyone = false ∧ (running.session 0).isOpen = true := by decide

def cmd1 : HostHdr := ⟨0#7, false, true, 1#4, 3#16⟩
def cmd2 : HostHdr := ⟨0#7, false, false, 2#4, 3#16⟩

theorem test_court_premises : accept running cmd2 0x22 false = .go ∧ running.courtCreated 2 = false ∧ regionsFree running 2#32 = true ∧
    running.fld (Page.court 2) F.COURT_EPOCH_epoch = 0 ∧ accept running cmd1 0x23 true = .go ∧ courtStages running 1 = [] ∧
    courtStages { running with stages := [⟨1, 0, 0, [0]⟩] } 1 ≠ [] ∧
    accept { running with stages := [⟨1, 0, 0, [0]⟩] } cmd1 0x23 true = .go := by decide

/-- At the last epoch the number starts again at 1. -/
theorem test_court_epoch_premises : accept (running.setFld (Page.court 2) F.COURT_EPOCH_epoch 255) cmd2 0x22 false = .go ∧
    regionsFree (running.setFld (Page.court 2) F.COURT_EPOCH_epoch 255) 2#32 = true ∧
    (running.setFld (Page.court 2) F.COURT_EPOCH_epoch 255).fld (Page.court 2) F.COURT_EPOCH_epoch = 255 := by decide

def wireTile : WireTile := ⟨List.replicate 4096 0#8, 0#32, 0#32, true⟩

theorem test_data_write_premises : accept running cmd1 0x24 (inCourt running cmd1) = .go ∧
    (wireTile.data.length = tileBytes ∧ (wireOk wireTile = true ∨ wireTile.resent = true)) ∧
    tilesWait running ((List.range 1).map fun i => 4096 + i * tileBytes) = false ∧
    (∀ i, i < 1 → admits running (hostWho running cmd1) (4096 + i * tileBytes) = none) := by
  refine ⟨by decide, ⟨List.length_replicate, .inr rfl⟩, by decide, by decide⟩

theorem test_data_read_premises : accept running cmd1 0x25 (inCourt running cmd1) = .go ∧
    tilesWait running ((List.range 2).map fun i => 0 + i * tileBytes) = false ∧
    (∀ i, i < 2 → admits running (hostWho running cmd1) (0 + i * tileBytes) = none ∧
      tagWrong running (hostWho running cmd1) (tileData running (0 + i * tileBytes)).2 = false) ∧
    ((List.range 2).filter fun i => (tileData running (0 + i * tileBytes)).2.poison).length = 0 := by decide

/-- A stage of one region with one buffer to itself: descriptor at 0, buffer descriptor at tile 1, image header at tile 2. -/
def stageBytes : List Byte := wordBytes ([0x57A60100, 0x00071101, 100, 0, 4096, 0] ++ List.replicate 10 0 ++ [0, 0, 8192, 0])
def pbBytes : List Byte := wordBytes [0x9A550100, 0x00000000, 0, 0x00002000, 1, 3]
def imageBytes : List Byte := wordBytes [0xAB050100, 0x01000000, 16, 0x10000000]
def staged : State := { with0 Region.init with
  mem := Memory.write (Memory.write (Memory.write [] 0 stageBytes) 4096 pbBytes) 8192 imageBytes }
def stageD : StageDesc := ⟨7, 1, 1, 100, 4096, [0, 0, 0, 0], [⟨0, 0, 0, 8192⟩]⟩
def stagePb : PbDesc := ⟨0, 0, 0, 0, 0, 0, 2, 128, 4, 0, 0⟩

theorem test_stage_start_premises : accept staged cmd1 0x26 true = .go ∧ Memory.wf staged.mem = true ∧ Readable staged ⟨some 1, 1, 3⟩ 0 256 ∧
    parseStage (bytesAt staged 0 256) = some stageD ∧ Readable staged ⟨some 1, 1, 3⟩ 4096 64 ∧ Readable staged ⟨some 1, 1, 3⟩ 8192 64 ∧
    ((List.range stageD.pbCount).mapM fun i => parsePb (bytesAt staged (stageD.pbTable + 64 * i) 64)) = some [stagePb] ∧
    regionsBad staged stageD [stagePb] = false ∧ [stagePb].all kindFits = true ∧ (staged.region 0).started = false ∧
    (stageD.regions.mapM fun e => parseImage (bytesAt staged e.image 64) stageD.court) = some [16] ∧ 0 < 16 ∧
    (reserveBufs staged [stagePb]).isSome = true := by
  unfold Readable
  refine ⟨by decide, by decide, by decide, by decide, by decide, by decide, by decide, by decide, by decide, by decide, by decide, by decide,
    by decide⟩

def finishing : State := { with0 { region0 with halted := true } with stages := [⟨1, 7, 0, [0]⟩] }
theorem test_stage_done_premises : (finishing.stages.find? fun u => u.court == (1#4).toNat && u.id == (7#16).toNat) = some ⟨1, 7, 0, [0]⟩ ∧
    stageFinished finishing ⟨1, 7, 0, [0]⟩ = true := by decide

/-- Court 1 holds step 5 and has committed step 3; its region waits for a step. -/
def stepping : State :=
  ((with0 { region0 with main := { Prog.init with waiting := true } }).setFld48 (Page.court 1) F.COURT_STEP_LO_step F.COURT_STEP_HI_step 5).setFld48
    (Page.court 1) F.COURT_COMMIT_LO_step F.COURT_COMMIT_HI_step 3

theorem test_step_premises : accept stepping cmd1 0x27 true = .go ∧ heldStep stepping 1 = 5 ∧ committedStep stepping 1 = 3 ∧
    (∀ r ∈ stepping.regionsOf 1, stillIssues stepping r = false) ∧ stepping.regionsOf 1 = [0] := by decide

theorem test_wait_step_premises : stepping.courtOf (0#5).toNat = some 1 ∧ (stepping.region 0).main.waiting = true ∧
    (stepping.region 0).main.step.toNat < heldStep stepping 1 ∧ heldStep stepping 1 < 2 ^ 48 := by decide

def stoppedNow : State := with0 { region0 with stopped := true, heldAt := some (false, 3) }
theorem test_resume_premises : accept stoppedNow cmd1 0x2C true = .go ∧ stoppedNow.courtOf 0 = some 1 ∧ (stoppedNow.region 0).stopped = true ∧
    (7#32).toNat < (stoppedNow.region 0).codeCount := by decide

def quiescing : State := { setCtl running (Page.rg 0) 1 true with cmds := [⟨0, 3, 0x28, 1, false⟩] }

theorem test_quiesce_premises : accept running cmd1 0x28 true = .go ∧ courtQuiesced quiescing 1 = true ∧
    (quiescing.cmds.filter fun k => k.court == 1 && k.typ == 0x28) ≠ [] ∧
    (∀ k ∈ quiescing.cmds, k.quiet = false ∧ (quiescing.session k.session).isOpen = true) := by decide

theorem test_abort_premises : accept running cmd1 0x2B true = .go ∧ courtActive running 1 = false ∧ courtActive quiescing 1 = true ∧
    accept quiescing cmd1 0x2B true = .go ∧ accept quiescing cmd1 0x2B false = .go ∧
    (quiescing.cmds.filter fun k => k.session == cmd1.session.toNat && k.tag == (3#16).toNat) ≠ [] ∧
    (quiescing.cmds.filter fun k => k.session == cmd1.session.toNat && k.tag == (4#16).toNat) = [] := by decide

/-! ## Save and restore -/

theorem aligned_tile (i : Nat) : i * 4096 / 4096 = i := Nat.mul_div_cancel i (by decide)

/-- Tile i of stack 0's near tier, within the first 16,384. -/
theorem near_tile (i : Nat) (h : i < 16384) : stackOf (i * 4096) = 0 ∧ deepOf (i * 4096) = false ∧ tileOf (i * 4096) = i := by
  have h1 : i * 4096 < 2 ^ 42 := by omega
  refine ⟨?_, ?_, ?_⟩
  · unfold stackOf; rw [Nat.div_eq_of_lt (by omega)]
  · unfold deepOf bit; rw [Nat.div_eq_of_lt h1]; decide
  · unfold tileOf offOf tileBytes; rw [Nat.mod_eq_of_lt h1, aligned_tile]

def bigGrant : State := { setCtl (with0 Region.init) (Page.rg 0) 1 true with
  stackMap := [(0, { Stack.init with ranges := [(0, ⟨true, false, 0, 16384, 0x100#12⟩)] })]
  trailers := [] }

theorem big_tier (i : Nat) (h : i < 16384) : inTier (i * 4096) = true := by
  obtain ⟨_, h2, h3⟩ := near_tile i h
  unfold inTier
  rw [h2, h3]
  exact decide_eq_true (Nat.lt_trans h (by decide))

theorem big_admits (i : Nat) (h : i < 16384) : admits bigGrant ⟨some 1, 1, 3⟩ (i * 4096) = none ∧
    admits bigGrant (.device 1 2) (i * 4096) = none := by
  obtain ⟨h1, h2, h3⟩ := near_tile i h
  have hp : bigGrant.pageRetired (Page.stk 0) = false := by decide
  have ht := big_tier i h
  have hr : rangeAt bigGrant (i * 4096) = some ⟨true, false, 0, 16384, 0x100#12⟩ := by
    unfold rangeAt
    rw [h1, h2, h3]
    have : (bigGrant.stack 0).ranges = [(0, ⟨true, false, 0, 16384, 0x100#12⟩)] := by decide
    rw [this]
    simp [h]
  have hc : (0x100#12 = bigGrant.courtTag 1) := by decide
  constructor
  · unfold admits
    rw [h1, hp, ht]
    simp only [Bool.false_eq_true, if_false, Bool.not_true, hr, if_pos hc]
  · unfold admits
    rw [h1, hp, ht]
    rfl

/-- A quiesced region whose image would lie at tile 0. -/
theorem test_save_premises : maskBits 32 (1#32).toNat = [0] ∧ accept bigGrant cmd1 0x29 true = .go ∧ hostWho bigGrant cmd1 = ⟨some 1, 1, 3⟩ ∧
    tilesWait bigGrant (saveSpan 0 1) = false ∧ bigGrant.courtOf 0 = some 1 ∧ regionQuiesced bigGrant 0 = true ∧ pbHolds bigGrant 0 = false ∧
    rootQueue bigGrant 0 = [] ∧ (∀ k, servesCourt bigGrant k 1 = true → (caddie bigGrant k).window = none) ∧
    ∀ i ∈ saveSpan 0 1, admits bigGrant ⟨some 1, 1, 3⟩ i = none := by
  refine ⟨by decide, by decide, by decide, ?_, by decide, by decide, by decide, by decide, fun _ _ => rfl, ?_⟩
  · unfold tilesWait
    rw [List.any_eq_false]
    intro t _ h
    exact absurd h (by rw [show trailerAt bigGrant t = .lost from rfl]; decide)
  · intro i hi
    obtain ⟨k, hk, rfl⟩ := List.mem_map.1 hi
    rw [Nat.zero_add]
    exact (big_admits k (Nat.lt_trans (List.mem_range.1 hk) (by decide))).1

/-- The image of a region in no stage: its header and the marks of its groups and vector engines. -/
def imageMarks (c : Nat) : List (Nat × Nat) :=
  ((List.range 4).map fun u => (6 + clusterTiles * c + unitTiles * u + 160, 0xACC001)) ++ [(6 + clusterTiles * c + 652, 0x7EC001)]
def imageMem : List Host.Cell :=
  Memory.cells 0 (wordBytes [0x5E6A0100, 0x1000, 0, 0, 0, 0, 0xFFFFFFFF, 0xFFFF]) ++
    (List.range 16).flatMap fun c => (imageMarks c).flatMap fun e => Memory.cells (e.1 * 4096) (wordBytes [e.2 * 256])
@[irreducible] def imageTrailers : KMap Trailer := (List.range' 0 10454).map fun i => (i, tile 0#4)
def imaged : State := { bigGrant with
  trailers := imageTrailers
  mem := imageMem }

theorem imaged_trailer (i : Nat) (h : i < 10454) : trailerAt imaged (i * 4096) = tile 0#4 := by
  show KMap.get imageTrailers _ (i * 4096 / 4096) = _
  rw [aligned_tile]
  unfold imageTrailers
  exact get_range 0 10454 _ _ _ ⟨Nat.zero_le _, by omega⟩

theorem imaged_tile (i : Nat) (h : i < 10454) : (tileData imaged (i * 4096)).1 = Memory.read imageMem (i * 4096) 4096 ∧
    (tileData imaged (i * 4096)).2 = tile 0#4 := by
  unfold tileData
  rw [imaged_trailer i h]
  constructor
  · show Memory.read imageMem (i * 4096 / 4096 * 4096) 4096 = _
    rw [aligned_tile]
  · rfl

theorem image_marks : ∀ c ∈ List.range 16, ∀ e ∈ imageMarks c, e.1 < 10454 ∧ wordAt (Memory.read imageMem (e.1 * 4096) 4096) 0 / 256 = e.2 := by decide

theorem imaged_marks : badMarks imaged 0 = [] := by
  unfold badMarks
  rw [List.flatMap_eq_nil_iff]
  intro c hc
  show ((imageMarks c).filter _).map _ = []
  rw [List.map_eq_nil_iff, List.filter_eq_nil_iff]
  intro e he
  obtain ⟨h1, h2⟩ := image_marks c hc e he
  unfold imgTile
  rw [Nat.zero_add, show tileBytes = 4096 from rfl, (imaged_tile e.1 h1).1, h2]
  simp

theorem test_restore_premises : accept imaged cmd1 0x2A true = .go ∧ imaged.courtOf 0 = some 1 ∧ (imaged.region 0).started = false ∧
    regionIdle imaged 0 = true ∧ ((List.range 16).filterMap (imaged.physOf 0)).Nodup ∧ Memory.wf imaged.mem = true ∧
    Readable imaged (.device 1 2) 0 (imageTiles * tileBytes) ∧ badMarks imaged 0 = [] ∧
    wordAt (bytesAt imaged 0 tileBytes) 0 / 256 = 0x5E6A01 ∧ bits (wordAt (bytesAt imaged 0 tileBytes) 1) 15 12 = 1 ∧
    wordAt (bytesAt imaged 0 tileBytes) 6 + wordAt (bytesAt imaged 0 tileBytes) 7 % 2 ^ 16 * 2 ^ 32 = noStage ∧
    bits (wordAt (bytesAt imaged 0 tileBytes) 9) 7 0 = 0 ∧ (rejoinRead imaged ⟨some 1, 1, 3⟩ 1 0 0 noStage).2 = .ok none := by
  refine ⟨by decide, by decide, by decide, by decide, by decide, by decide, ?_, imaged_marks, by decide, by decide, by decide, by decide, ?_⟩
  · intro a ha
    unfold spanTiles at ha
    rw [if_neg (by decide)] at ha
    obtain ⟨i, hi, rfl⟩ := List.mem_map.1 ha
    have h : i < 10454 := by
      have := List.mem_range.1 hi
      rw [show (0 + imageTiles * tileBytes - 1) / tileBytes - 0 / tileBytes + 1 = 10454 by decide] at this
      exact this
    rw [show 0 / tileBytes + i = i by rw [Nat.zero_div, Nat.zero_add], show tileBytes = 4096 from rfl]
    exact ⟨(big_admits i (by omega)).2, rfl, by rw [(imaged_tile i h).2]; rfl, by rw [imaged_trailer i h]; rfl⟩
  · unfold rejoinRead
    rw [if_pos rfl]

/-! ## Register accesses, sideband, TAP -/

theorem test_plain_register : PlainAt running (Page.sc + 0x54) .sc (fieldsAt .sc 0x54) := by
  exact ⟨0, by decide, by decide, by decide, fun _ _ => rfl, by decide, by decide, by decide, fun h => by cases h⟩

theorem test_register_write_premises : Accepted running byMc (Page.sc + 0x54) ∧
    lockHit (fieldsAt .sc 0x54) (pageLocked running Page.sc) (running.reg (Page.sc + 0x54)).toNat 0xFFFFFFFF = false ∧
    Accepted running ⟨.host 0 none, 0, 0⟩ (Page.sc + 0x54) ∧ spAdmits running (.host 0 none) = true := by unfold Accepted; decide

theorem test_register_refusal_premises : pathUp running (.host 0 (some 1)) = true ∧ spAdmits running (.host 0 (some 1)) = true ∧
    (writeCheck running (.host 0 (some 1)) (Page.sns + 0x70)).isSome = true ∧ (writeCheck running .mc (Page.sns + 2)).isSome = true ∧
    (writeCheck running .mc 0xFFF000).isSome = true ∧ resets (Page.sns + 0x70) 0 = false := by decide

theorem test_register_read_premises : pathUp running .mc = true ∧ (Page.sns + 0xFC0) % 4 = 0 ∧ (Page.sc + 0x40) % 0x1000 + 4 * 16 ≤ 0x1000 ∧
    mapped running (Page.sc + 0x40) = true ∧
    (∀ i, i < 16 → readRefusal running .mc (Page.sns + 0x40 + 4 * i) = none ∧ (readReg running (Page.sns + 0x40 + 4 * i)).1 = running) := by
  refine ⟨by decide, by decide, by decide, by decide, fun i hi => ?_⟩
  match i, hi with
  | 0, _ | 1, _ | 2, _ | 3, _ | 4, _ | 5, _ | 6, _ | 7, _ | 8, _ | 9, _ | 10, _ | 11, _ | 12, _ | 13, _ | 14, _ | 15, _ => exact ⟨by decide, rfl⟩
  | n + 16, h => exact absurd h (by omega)

theorem test_page_control_premises : pageOf 0#12 = 0 ∧ Accepted running byMc (pageOf (BitVec.ofNat 12 (Page.rg 0 / 0x1000)) + 0x10) ∧
    running.pageRetired (Page.rg 0) = false ∧ Accepted running byMc (pageOf (BitVec.ofNat 12 (Page.rg 0 / 0x1000)) + 0x24) ∧
    Accepted running byMc (Page.sb + 0x48) ∧ Accepted running byMc (Page.rg 0 + 0x100 + 4 * 7) ∧
    (∃ i, pageAt (Page.rg 0) = some (.rg, i) ∧ Block.rg.hasCounters = true) := by
  unfold Accepted
  exact ⟨by decide, by decide, by decide, by decide, by decide, by decide, 0, by decide⟩

theorem test_sideband_premises : pathUp running .sideband = true ∧ (some true).getD (running.fld Page.sb F.SB_CTL_pec_required == 0) = true ∧
    mapped running (Page.sb + 0x40) = true ∧ mapped running (Page.sns + 0x40) = true ∧
    (∀ i, i < 16 → readRefusal running .sideband (Page.sns + 0x40 + 4 * i) = none ∧ (readReg running (Page.sns + 0x40 + 4 * i)).1 = running) := by
  refine ⟨by decide, by decide, by decide, by decide, fun i hi => ?_⟩
  match i, hi with
  | 0, _ | 1, _ | 2, _ | 3, _ | 4, _ | 5, _ | 6, _ | 7, _ | 8, _ | 9, _ | 10, _ | 11, _ | 12, _ | 13, _ | 14, _ | 15, _ => exact ⟨by decide, rfl⟩
  | n + 16, h => exact absurd h (by omega)

def tapOn : State := running.setFld Page.dbg F.DBG_CTL_tap_regs 1
theorem test_tap_premises : tapUp running = true ∧ running.fld Page.dbg F.DBG_CTL_tap_regs = 0 ∧ tapUp tapOn = true ∧
    tapOn.fld Page.dbg F.DBG_CTL_tap_regs = 1 ∧ mapped tapOn (Page.sns + 0x40) = true ∧ (Page.sns + 0x40) % 0x1000 + 4 * 16 ≤ 0x1000 ∧
    running.board.aux = true ∧ running.fld Page.dbg F.DBG_STAT_trst ≠ (true).toNat := by decide

theorem test_tap_state_premises : tapUp State.reset = true ∧ State.reset.board.pwrgood = false ∧ running.board.pwrgood = true := by decide

theorem test_sideband_write_premises : PlainAt running (Page.sb + 0x40) .sb (fieldsAt .sb 0x40) ∧
    writeCheck running .sideband (Page.sb + 0x40) = none ∧
    lockHit (fieldsAt .sb 0x40) (pageLocked running Page.sb) (running.reg (Page.sb + 0x40)).toNat 1 = false ∧
    Page.sb + 0x40 ≠ Page.sb + F.SB_COUNT_transactions.off := by
  exact ⟨⟨0, by decide, by decide, by decide, fun _ _ => rfl, by decide, by decide, by decide, fun h => by cases h⟩, by decide, by decide,
    by decide⟩

/-! ## Stacks and tiles -/

def stagedIn (base tiles tag : Nat) (s : State) : State :=
  let p := Page.stk 0
  (((s.setFld p F.STK_RANGE_BASE_valid 1).setFld p F.STK_RANGE_BASE_base_tile base).setFld p F.STK_RANGE_TILES_tiles tiles).setFld p
    F.STK_RANGE_TAG_tag tag |>.setFld p F.STK_RANGE_SEL_entry 1

theorem test_range_premises : Accepted running byMc (Page.stk 0 + 0x50) ∧ (KMap.get (running.stack 0).ranges .none 0).base < 2 ^ 24 ∧
    Accepted (stagedIn 256 256 5 running) byMc (Page.stk 0 + 0x60) ∧
    (stagedRange (stagedIn 256 256 5 running) 0).base + (stagedRange (stagedIn 256 256 5 running) 0).tiles ≤ tierTiles false ∧
    (stagedIn 256 256 5 running).fld (Page.stk 0) F.STK_RANGE_SEL_entry = 1 ∧
    (∀ x ∈ (running.stack 0).ranges, overlaps (stagedRange (stagedIn 256 256 5 running) 0) x.2 = false) ∧
    (∃ x ∈ ((stagedIn 255 256 5 running).stack 0).ranges, x.1 ≠ 1 ∧ overlaps (stagedRange (stagedIn 255 256 5 running) 0) x.2 = true) ∧
    tierTiles (stagedRange (stagedIn 0x7FFFFF 2 5 running) 0).deep <
      (stagedRange (stagedIn 0x7FFFFF 2 5 running) 0).base + (stagedRange (stagedIn 0x7FFFFF 2 5 running) 0).tiles := by
  unfold Accepted
  exact ⟨by decide, by decide, by decide, by decide, by decide, by decide, ⟨(0, ⟨true, false, 0, 256, 0x100#12⟩), by decide, by decide⟩, by decide⟩

def spareUsed : State := { running with stackMap := [(0, { grant with serve := [(3, 16)] })] }
theorem test_retire_premises : namedChannel running 0 false 15 = some 15 ∧ namedChannel running 0 true 16 = some 25 ∧
    (caddie running 0).window = none ∧ (caddie running 0).pages = [] ∧ running.pageRetired (Page.stk 0) = false ∧
    standby running 0 false = some 16 ∧ serving running 0 15 = 15 ∧ 15 ∈ tierIndices false ∧
    (∀ j ∈ tierIndices false, serving running 0 j = 15 → j = 15) ∧ Accepted running byMc (Page.stk 0 + 0x84) ∧
    standby ((spareUsed).setFld (Page.stk 0) F.STK_NEAR_RETIRED_retired 8) 0 false = none ∧
    namedChannel ((spareUsed).setFld (Page.stk 0) F.STK_NEAR_RETIRED_retired 8) 0 false 16 = some 16 := by unfold Accepted; decide

/-- A page in a mode (Table 2.8). -/
def inMode (s : State) (p m : Nat) : State := s.setReg (p + 0x14) (BitVec.ofNat 32 m)

theorem test_return_premises : Accepted (inMode running (Page.stk 0) 5) byMc (Page.pkg + 0x74) ∧
    (inMode running (Page.stk 0) 5).pageRetired (Page.stk 0) = true ∧
    bit (retiredMask (running.setFld (Page.stk 0) F.STK_NEAR_RETIRED_retired (2 ^ 16)) 0 false) 16 = true ∧
    bit (retiredMask (running.setFld (Page.stk 0) F.STK_DEEP_RETIRED_retired (2 ^ 8)) 0 true) 8 = true := by unfold Accepted; decide

theorem test_tile_retry_premises : admits running ⟨some 1, 0, 0⟩ 4096 = none ∧ (trailerAt running 4096).state = .written ∧
    servingChannel running 4096 < 26 ∧ StrikeHolds running 0 (servingChannel running 4096) ∧
    running.fld (Page.stk 0) F.STK_RETIRE_CTL_strike_limit = 8 := by unfold StrikeHolds; decide

def lastScrub : State := { running with stackMap := [(0, { grant with scrubNext := tierTiles false + tierTiles true - 1 })] }
theorem test_scrub_premises : (running.stack 0).scrubNext = 0 ∧ running.fld (Page.stk 0) F.STK_SCRUB_CTL_enable ≠ 0 ∧
    running.pageRetired (Page.stk 0) = false ∧ StrikeHolds running 0 (servingChannel running (scrubAddr 0 0)) ∧
    (trailerAt running (scrubAddr 0 0)).state = .written ∧ (trailerAt running (scrubAddr 0 0)).poison = false ∧
    (lastScrub.stack 0).scrubNext + 1 = tierTiles false + tierTiles true ∧
    lastScrub.fld (Page.stk 0) F.STK_SCRUB_CTL_enable ≠ 0 := by unfold StrikeHolds; decide

def struckOnce : State := { running with stackMap := [(0, { grant with strikes := [(4, 1)] })] }
theorem test_strike_window_premises : KMap.get (struckOnce.stack 0).strikes 0 (4#5).toNat ≠ 0 := by decide

/-! ## Caddies -/

/-- A page of 2 block rows of one block, two parts, rule 0, D 1, BF16 gradients: ring at tile 16, copies in the deep tier, record at tile 40. -/
def page0 (rule kb : Nat) : List Byte := wordBytes [0xCAD00180 + rule * 32, 0x11000000, kb * 65536 + 1, 0x20, 0x10000, 0, 0, 1024, 0, 0, 0, 0,
  40 * 4096, 0, 0, 0]
def ringTwo : List Byte := wordBytes ([0x51D70120, 5, 0, 0xC0000000, 1, 0x40000000] ++ List.replicate 10 0)
def copyZero : List Byte := wordBytes ([0xC0D70101, 0, 0, 1] ++ List.replicate 12 0)
def cpage0 (rule : Nat) (got : List Nat) : CPage := ⟨page0 rule 2, got, [], 1, false, false, false⟩
def caddieOf (g : CPage) (window : Option Nat) (staged : List CPart) : Caddie :=
  { Caddie.init with
    pages := [(0, g), (1, newPage (page0 0 2))], window := window, staged := staged }
def caddied (c : Caddie) : State := { (onFabric running).setFld (Page.caddie 0) F.CADDIE_CTL_mode 1 with
  trailers := owned 0#4 64 ++ (List.range 32).map (fun i => (2 ^ 30 + i, tile 0#4))
  mem := Memory.write (Memory.write [] 0x10000 ringTwo) (2 ^ 42) copyZero
  caddies := [(0, c)] }
def gradient (step : BitVec 48) : GradPart := ⟨0#5, 0#12, 1#4, step, 1#4, List.replicate 8192 0#8, false⟩
def part1 : CPart := ⟨0, 1, 1, 1, false, false, List.replicate 8192 0#8⟩
def updating : State := caddied (caddieOf (cpage0 0 [0]) (some 1) [])

theorem test_gradient_fates : fabricUp updating = true ∧ partTarget updating 0 = 0 ∧ partFate updating 0 part1 = .apply ∧
    partFate updating 0 { part1 with
      step := 2
      data := [] } = .stage ∧
    partFate updating 0 { part1 with step := 3 } = .stray ∧ pgOk 0 (page0 0 2) = true := by
  refine ⟨by decide, by decide, by decide, by decide, by decide, by decide⟩

theorem updating_byte (a : Nat) (h : a ∉ (updating.mem.map (·.1))) : Memory.byte updating.mem a = 0#8 :=
  Laws.get_of_not_mem _ _ _ fun e he hk => h (List.mem_map.2 ⟨e, he, hk⟩)

theorem zero_els (s : State) (a e : Nat) (h : ∀ i, i < 4096 * e → Memory.byte s.mem (a + i) = 0#8) (i : Nat) : (elsAt s a e).getD i 0 = 0 := by
  have hb : bytesAt s a (4096 * e) = List.replicate (4096 * e) 0#8 := by
    unfold bytesAt
    rw [List.eq_replicate_iff]
    refine ⟨by rw [List.length_map, List.length_range], ?_⟩
    intro b hb
    obtain ⟨k, hk, rfl⟩ := List.mem_map.1 hb
    exact h k (List.mem_range.1 hk)
  unfold elsAt unpackBits
  rw [hb, zero_bytes, List.getD_eq_getElem?_getD]
  cases hx : (List.map (fun i => 0 / 2 ^ (8 * e * i) % 2 ^ (8 * e)) (List.range 4096))[i]? with
  | none => rfl
  | some v =>
    obtain ⟨k, _, rfl⟩ := List.mem_map.1 (List.mem_of_getElem? hx)
    simp

/-- Every element of block 1 is zero, so its update is too. -/
theorem updating_elem (i : Nat) : pageElem updating (page0 0 2) 0 0 1 i = ⟨0, 0, 0, 0⟩ := by
  have hk : ∀ k ∈ updating.mem.map (·.1), k < 0x10000 + 64 ∨ (2 ^ 42 ≤ k ∧ k < 2 ^ 42 + 64) := by decide
  have hz (a e : Nat) (h : (0x10000 + 64 ≤ a ∧ a + 4096 * e ≤ 2 ^ 42) ∨ 2 ^ 42 + 64 ≤ a) (j : Nat) : (elsAt updating a e).getD j 0 = 0 := by
    refine zero_els _ _ _ (fun i hi => updating_byte _ fun hm => ?_) j
    have := hk _ hm
    omega
  have hp : blockParts (page0 0 2) 0 0 1 = [(0x10000 + 4096 + 8192, 2), (2 ^ 42 + 4096 + 8192, 2), (2 ^ 42 + 4096 * 9, 4)] := by decide
  unfold pageElem
  simp only [hp, List.map_cons, List.map_nil]
  rw [hz _ 2 (by decide), hz _ 2 (by decide), hz _ 4 (by decide)]
  rfl

theorem zero_gradient (j : Nat) : (gradEls 2 (List.replicate 8192 0#8)).getD j 0 = 0 := by
  unfold gradEls unpackBits
  rw [if_pos rfl, zero_bytes, List.getD_eq_getElem?_getD]
  cases hx : (List.map (fun x => x * 65536) (List.map (fun i => 0 / 2 ^ (16 * i) % 2 ^ 16) (List.range ((List.replicate 8192 0#8).length / 2))))[j]? with
  | none => rfl
  | some v =>
    obtain ⟨k, hk, rfl⟩ := List.mem_map.1 (List.mem_of_getElem? hx)
    obtain ⟨q, _, rfl⟩ := List.mem_map.1 hk
    simp

theorem test_part_applies_premises : PartApplies updating 0 part1 (cpage0 0 [0]) 0 := by
  have hg : (gradEls 2 (List.replicate 8192 0#8)).length = 4096 := by
    unfold gradEls unpackBits
    rw [if_pos rfl, List.length_map, List.length_map, List.length_range, List.length_replicate]
  refine ⟨page0 0 2, 0, some 1, none, 1, rfl, by decide, by decide, rfl, rfl, by decide, by decide, by decide, by decide, by decide, by decide, ?_,
    by decide, by unfold Readable; decide, by unfold Readable; decide, by unfold Readable; decide, by decide, by decide, by decide, by decide,
    by decide, by decide, by decide, ?_, ?_, ?_, .inl (by decide)⟩
  · show (gradEls (pgGradFmt (page0 0 2)) (List.replicate 8192 0#8)).length = _
    rw [show pgGradFmt (page0 0 2) = 2 by decide, hg]
    decide
  · unfold Readable Writable; decide
  · intro _ k hk hn
    have h0 : k = 0 := by
      rw [show pgBlocks (page0 0 2) = 2 by decide] at hk
      rw [show partBlocks (page0 0 2) part1.part = [1] by decide, List.mem_singleton] at hn
      omega
    subst h0
    unfold Readable
    decide
  · intro j k i hk hi
    have : k = 1 := by
      have hm := List.mem_of_getElem? hk
      rw [show partBlocks (page0 0 2) part1.part = [1] by decide] at hm
      exact List.mem_singleton.1 hm
    subst this
    rw [updating_elem, show part1.data = List.replicate 8192 0#8 from rfl, show pgGradFmt (page0 0 2) = 2 by decide, zero_gradient]
    decide

/-- Page 0 has both parts; page 1 none. -/
def stagedNow : State := caddied (caddieOf (cpage0 0 [0]) (some 1) [part1])
theorem test_staged_part_premises : stagedReady stagedNow 0 = some part1 := by
  have hs : (caddie stagedNow 0).staged = [part1] := rfl
  have hf : partFree stagedNow 0 part1 = true := by decide
  unfold stagedReady
  rw [hs]
  simp [hf]

theorem test_pt_count_premises : Accepted updating byMc (Page.caddie 0 + 0x4C) ∧ (caddie updating 0).window ≠ none ∧
    (caddie running 0).window = none ∧ Accepted running byMc (Page.caddie 0 + 0x4C) ∧ Readable running whoCaddie 0 (64 * min 2 4096) ∧
    (pgValid (page0 0 2) = true ∧ pgOk 0 (page0 0 2) = true) ∧ pgValid (bytesAt running 0 64) = false := by
  unfold Accepted Readable; decide

/-- Member 0 of a group of two with parity: chunks of 12 tiles at tile 64 of the deep tier. -/
def protected0 (c : Caddie) : State :=
  let s := (caddied c).setFld (Page.caddie 0) F.CADDIE_CTL_parity_en 1
  let s := (s.setFld (Page.caddie 0) F.CADDIE_PAR_CTL_n 2).setFld (Page.caddie 0) F.CADDIE_PAR_TILES_chunk_tiles 12
  s.setFld48 (Page.caddie 0) F.CADDIE_PAR_BASE_LO_base F.CADDIE_PAR_BASE_HI_base (2 ^ 42 + 64 * 4096)
def ownedPage : CPage := ⟨(page0 0 2).set 0 0x84#8, [], [], 0, false, false, false⟩
def emptied : State := { protected0 { caddieOf ownedPage none [] with pages := [(0, ownedPage)] } with
  trailers := owned 0#4 64 ++ (List.range 96).map (fun i => (2 ^ 30 + i, tile 0#4))
  mem := [] }

theorem test_parity_rebuild_premises : fabricUp emptied = true ∧ parityOn emptied 0 = true ∧ parJ emptied 0 < parN emptied 0 ∧
    ((caddie emptied 0).pages.any fun e => pgOwned e.2.desc) = true ∧ noCopies emptied 0 = true ∧ (caddie emptied 0).rebuilding = false ∧
    Memory.wf emptied.mem = true ∧ parBase emptied 0 % tileBytes = 0 ∧
    Writable emptied whoCaddie (parCopy emptied 0 0 + tileBytes) (parTiles emptied 0 * tileBytes) ∧
    (((List.range (parN emptied 0)).filter (· != parJ emptied 0)).map (parId emptied 0)).Nodup := by unfold Writable; decide

/-- A window of step 1: everything sent and acknowledged, then ready, then committing. -/
def windowAt (st : Nat) (ready sent : Bool) : State :=
  (caddied { caddieOf (cpage0 0 [0, 1]) (some 1) [] with
    pages := [(0, cpage0 0 [0, 1])]
    ready := ready
    sent := sent }).setFld (Page.caddie 0) F.CADDIE_COMMIT_STAT_state st

theorem test_ready_premises : canReady (windowAt 2 false true) 0 = true := by decide

theorem test_ready_timeout_premises :
    (caddie ((windowAt 1 false false).setFld (Page.caddie 0) F.CADDIE_READY_DEADLINE_deadline_us 50) 0).window = some 1 ∧
    caddieFld ((windowAt 1 false false).setFld (Page.caddie 0) F.CADDIE_READY_DEADLINE_deadline_us 50) 0 F.CADDIE_READY_DEADLINE_deadline_us ≠ 0 ∧
    (caddie (windowAt 1 false false) 0).ready = false ∧ (caddie (windowAt 1 false false) 0).timedOut = false ∧
    caddieFld (windowAt 1 false false) 0 F.CADDIE_COMMIT_STAT_state ≠ 4 ∧ ((windowAt 1 false false).groups.map (·.1)).Nodup := by decide

theorem test_commit_premises : (caddie (windowAt 4 true true) 0).window = some 1 ∧ caddieFld (windowAt 4 true true) 0 F.CADDIE_COMMIT_STAT_state = 4 ∧
    (caddie (windowAt 4 true true) 0).parity = false ∧ CommitTilesApart (windowAt 4 true true) 0 ∧
    receivesHigh (windowAt 4 true true) 0 (page0 0 2) = false ∧
    newestCopy (copyHdrSeq (bytesAt (windowAt 4 true true) (copyBase (page0 0 2) 0) 64))
      (copyHdrSeq (bytesAt (windowAt 4 true true) (copyBase (page0 0 2) 1) 64)) = some (0, 1) := by
  unfold CommitTilesApart Readable; decide

theorem test_discard_premises : Accepted (windowAt 1 false false) byMc (caddieCmdOff 0) ∧ (caddie (windowAt 1 false false) 0).window ≠ none ∧
    caddieFld (windowAt 1 false false) 0 F.CADDIE_COMMIT_STAT_state ≠ 4 ∧ CommitTilesApart (windowAt 1 false false) 0 ∧
    Accepted (windowAt 4 true true) byMc (caddieCmdOff 0) ∧ Accepted running byMc (caddieCmdOff 0) ∧ (caddie running 0).window = none := by
  unfold Accepted CommitTilesApart Readable; decide

def splitCaddie : Caddie := { Caddie.init with
  pages := [(0, cpage0 0 [])]
  split := [(0x30000, [(9, List.replicate 4096 1#8)])] }
theorem test_authority_premises : Accepted (caddied splitCaddie) byMc (caddieCmdOff 0) ∧ parityOn (caddied splitCaddie) 0 = false ∧
    Memory.wf (caddied splitCaddie).mem = true ∧ ((caddie (caddied splitCaddie) 0).split.map (·.1)).Nodup ∧
    (∀ e ∈ (caddie (caddied splitCaddie) 0).split, e.1 % tileBytes = 0 ∧ Readable (caddied splitCaddie) whoCaddie e.1 tileBytes) ∧
    (∀ e ∈ splitCaddie.split, ∀ c ∈ e.2, c.2.length = tileBytes) := by
  unfold Accepted Readable
  refine ⟨by decide, by decide, by decide, by decide, by decide, ?_⟩
  intro e he c hc
  rw [List.mem_singleton.1 he] at hc
  rw [List.mem_singleton.1 hc]
  exact List.length_replicate

def digesting : State := (caddied { Caddie.init with pages := [(0, cpage0 0 [])] }).setFld (Page.caddie 0) F.CADDIE_DIGEST_STAT_state 1
def digestTiles : List Nat := (streamOf (page0 0 2) ⟨0, 1, 0⟩).map (·.1)

theorem test_digest_premises : caddieFld digesting 0 F.CADDIE_DIGEST_STAT_state = 1 ∧ (caddie digesting 0).pages = [(0, cpage0 0 [])] ∧
    Memory.wf digesting.mem = true ∧ receivesHigh digesting 0 (page0 0 2) = false ∧
    newestCopy (copyHdrSeq (bytesAt digesting (copyBase (page0 0 2) 0) 64)) (copyHdrSeq (bytesAt digesting (copyBase (page0 0 2) 1) 64)) =
      some (0, 1) ∧
    ringCurrent (bytesAt digesting (pgNear (page0 0 2)) 64) = 0 ∧ (cpage0 0 []).slot = 1 ∧
    Readable digesting whoCaddie (pgNear (page0 0 2)) 64 ∧ Readable digesting whoCaddie (copyBase (page0 0 2) 0) 64 ∧
    Readable digesting whoCaddie (copyBase (page0 0 2) 1) 64 ∧
    (∀ i ∈ digestTiles, i % tileBytes = 0 ∧ Readable digesting whoCaddie i tileBytes) ∧ digestTiles ≠ [] ∧ digestTiles.length ≤ 64 ∧
    ownerMode digesting 0 = false ∧ parityOn digesting 0 = false ∧ 0x11000 ∈ digestTiles := by unfold Readable; decide

theorem majority_of_three (a b : List Byte) (h : b ≠ a) : majority [a, b, b] = some b := by
  have h' : (a == b) = false := by simpa using fun e => h e.symm
  have h'' : (b == a) = false := by simpa using h
  simp [majority, h', h'']

theorem test_digest_repair_premises : majority [bytesAt digesting 0x11000 tileBytes, List.replicate 4096 1#8, List.replicate 4096 1#8] =
      some (List.replicate 4096 1#8) ∧ List.replicate 4096 1#8 ≠ bytesAt digesting 0x11000 tileBytes ∧
    (List.replicate 4096 1#8).length = tileBytes := by
  have h : List.replicate 4096 1#8 ≠ bytesAt digesting 0x11000 tileBytes := by
    intro e
    have := congrArg (fun l => l.head?) e
    revert this
    decide
  exact ⟨majority_of_three _ _ h, h, List.length_replicate⟩

def parityAsked : State := { protected0 { Caddie.init with
    window := some 1
    parity := true } with trailers := (List.range 96).map fun i => (2 ^ 30 + i, tile 0#4) }
theorem wire_good : ∃ c : BitVec 32, wireOk ⟨List.replicate 4096 0#8, c, 0#32, false⟩ = true :=
  ⟨BitVec.ofNat 32 (crc32c (List.replicate 4096 0#8 ++ leBytes 4 ((0#32).toNat - bits (0#32).toNat 19 19 * 2 ^ 19))), by unfold wireOk; exact beq_self_eq_true _⟩

theorem test_transfer_premises : InTurn parityAsked (fromDev 2) ∧ (caddie parityAsked 0).window = some 1 ∧ (caddie parityAsked 0).parity = true ∧
    Memory.wf parityAsked.mem = true ∧ (parCopy parityAsked 0 (1 - (parCommitted parityAsked 0).1) + (1 + 0) * tileBytes) % tileBytes = 0 ∧
    admits parityAsked whoCaddie (parCopy parityAsked 0 (1 - (parCommitted parityAsked 0).1) + (1 + 0) * tileBytes) = none ∧
    (trailerAt parityAsked (parCopy parityAsked 0 (1 - (parCommitted parityAsked 0).1) + (1 + 0) * tileBytes)).state = .written := by
  unfold InTurn; decide

/-! ## Huddle table, plan, collectives, Relay -/

/-- A valid root entry of group 5, one refused for its magic, and one not in use. -/
def hgBytes : List Byte := wordBytes ([0x4ADD01C1, 0x00050000, 1, 0x00098000] ++ List.replicate 12 0 ++ [0x4ADE0181] ++ List.replicate 31 0)
/-- A valid all-reduce of 256 BF16 tiles by two ranks in court 1, and one whose format is not of Table 13.7. -/
def planBytes : List Byte :=
  wordBytes [0xC0110181, 0x02000005, 0x00010000, 256, 1, 0, 0, 0x10000, 0, 0, 0, 0, 0, 0, 0, 0xFFFF,
    0xC0110181, 0x03000005, 0x00010000, 256, 1, 0, 0, 0x10000, 0, 0, 0, 0, 0, 0, 0, 0xFFFF]
def tabled (bs : List Byte) (g : List (Nat × HGroup)) : State := { onFabric running with
  mem := Memory.write [] 0 bs
  groups := g }

theorem test_huddle_table_premises : Memory.wf (tabled hgBytes []).mem = true ∧ Readable (tabled hgBytes []) ceWho 0 (64 * 3) ∧
    Accepted (tabled hgBytes []) byMc (Page.ce + 0x48) ∧ min (3#32).toNat 256 = 3 ∧
    (gEntryOk (tabled hgBytes []) (bytesAt (tabled hgBytes []) 0 64) [] = true ∧
      gEntryOk (tabled hgBytes []) (bytesAt (tabled hgBytes []) 64 64) [] = false ∧
      bit (wordAt (bytesAt (tabled hgBytes []) 64 64) 0) 7 = true ∧ bit (wordAt (bytesAt (tabled hgBytes []) 128 64) 0) 7 = false) ∧
    (∃ g ∈ (tabled hgBytes [(0, { group5 true true [2] with out := [num7 1 [] false] })]).groups, g.2.out ≠ []) ∧
    Accepted (tabled hgBytes [(0, { group5 true true [2] with out := [num7 1 [] false] })]) byMc (Page.ce + 0x48) := by
  unfold Readable Accepted
  exact ⟨by decide, by decide, by decide, by decide, by decide, ⟨_, List.mem_singleton.2 rfl, by decide⟩, by decide⟩

theorem test_plan_premises : Memory.wf (tabled planBytes [(0, group5 true true [2])]).mem = true ∧
    Readable (tabled planBytes [(0, group5 true true [2])]) ceWho 0 (64 * 2) ∧
    Accepted (tabled planBytes [(0, group5 true true [2])]) byMc (Page.ce + 0x54) ∧
    planOk (tabled planBytes [(0, group5 true true [2])]) (bytesAt (tabled planBytes [(0, group5 true true [2])]) 0 64) = true ∧
    planOk (tabled planBytes [(0, group5 true true [2])]) (bytesAt (tabled planBytes [(0, group5 true true [2])]) 64 64) = false := by
  unfold Readable Accepted; decide

def planOne : List Byte := planBytes.take 64
def leafOnes : List Byte := List.replicate 4096 1#8
/-- The run of step 1 of plan entry 0 with the leaves of `keys`. -/
def runOne (live : Bool) (keys : List Nat) : Run := ⟨0, planOne, 1, 7, keys.map fun k => (k, leafOnes), [], false, [], [], live⟩
def collecting (r : List Run) : State := { onFabric running with
  plans := [(0, planOne)]
  runs := r
  trailers := owned 0#4 300
  stackMap := [(0, { Stack.init with ranges := [(0, ⟨true, false, 0, 512, 0x100#12⟩)] })] }
def fromRank1 : WireHdr := { fromDev 2 with flow := 0x30000000#32 }
def goodTile (b : List Byte) : WireTile :=
  ⟨b, BitVec.ofNat 32 (crc32c (b ++ leBytes 4 ((0#32).toNat - bits (0#32).toNat 19 19 * 2 ^ 19))), 0#32, false⟩
theorem good_tile (b : List Byte) : wireOk (goodTile b) = true := by
  unfold wireOk goodTile
  exact beq_self_eq_true _

theorem get_keys {α : Type} (keys : List Nat) (v d : α) (k : Nat) (h : k ∈ keys) : KMap.get (keys.map fun i => (i, v)) d k = v := by
  induction keys with
  | nil => exact absurd h List.not_mem_nil
  | cons a t ih =>
    rw [List.map_cons, Laws.get_cons]
    by_cases ha : a = k
    · exact if_pos ha
    · rw [if_neg ha]
      exact ih ((List.mem_cons.1 h).resolve_left fun e => ha e.symm)

theorem test_collective_turn : InTurn (collecting []) fromRank1 ∧ fromRank1.flow.toNat % 2 ^ 28 = 0 ∧
    KMap.get (collecting []).plans [] 0 = planOne ∧ planOne ≠ [] ∧ (1#16).toNat < plN planOne ∧
    runOf (collecting []) 0 1 = none ∧ (newRun 0 planOne 1).live = false ∧ plOp planOne ≠ 3 := by
  unfold InTurn; decide

/-- All leaves of two ranks but the last tile of rank 1. -/
def almostAll : List Nat := List.range 256 ++ (List.range 255).map fun t => 2 ^ 17 + t
def lastLeaf : Run := { runOne true almostAll with leaves := KMap.set (runOne true almostAll).leaves [] (leafKey 1 255) leafOnes }

theorem last_leaf_get (k t : Nat) (hk : k < 2) (ht : t < 256) : KMap.get lastLeaf.leaves [] (leafKey k t) = leafOnes := by
  show KMap.get (KMap.set (runOne true almostAll).leaves [] (leafKey 1 255) leafOnes) [] (leafKey k t) = leafOnes
  rw [Laws.get_set]
  split
  · rfl
  · rename_i h
    refine get_keys _ _ _ _ ?_
    unfold almostAll leafKey at *
    rw [List.mem_append, List.mem_range, List.mem_map]
    rcases Nat.lt_or_ge k 1 with h0 | h0
    · exact .inl (by omega)
    · exact .inr ⟨t, List.mem_range.2 (by omega), by omega⟩

theorem leaves_needed : leavesNeeded (collecting [runOne true almostAll]) planOne =
    (List.range 2).flatMap fun k => (List.range 256).map fun t => (k, t) := by decide

theorem needed_bound (y : Nat × Nat) (h : y ∈ (List.range 2).flatMap fun k => (List.range 256).map fun t => (k, t)) : y.1 < 2 ∧ y.2 < 256 := by
  obtain ⟨k, hk, hy⟩ := List.mem_flatMap.1 h
  obtain ⟨t, ht, rfl⟩ := List.mem_map.1 hy
  exact ⟨List.mem_range.1 hk, List.mem_range.1 ht⟩

theorem leaf_ne : leafOnes ≠ [] := by decide

theorem test_last_leaf_premises : leavesIn (collecting [runOne true almostAll]) lastLeaf = true ∧
    (∀ y ∈ leavesNeeded (collecting [runOne true almostAll]) planOne,
      (KMap.get lastLeaf.leaves [] (leafKey y.1 y.2)).length = tileBytes) ∧ wireOk (goodTile leafOnes) = true := by
  refine ⟨?_, ?_, good_tile _⟩
  · unfold leavesIn
    rw [List.all_eq_true]
    intro y hy
    rw [show lastLeaf.desc = planOne from rfl, leaves_needed] at hy
    obtain ⟨h1, h2⟩ := needed_bound y hy
    rw [last_leaf_get _ _ h1 h2]
    simp [leaf_ne]
  · intro y hy
    rw [leaves_needed] at hy
    obtain ⟨h1, h2⟩ := needed_bound y hy
    rw [last_leaf_get _ _ h1 h2]
    exact List.length_replicate

theorem test_last_leaf_run : InTurn (collecting [runOne true almostAll]) fromRank1 ∧
    runsNow (collecting [runOne true almostAll]) (runOne true almostAll) = true ∧ (runOne true almostAll).reduced = false ∧
    plParts planOne = false ∧ wanted (collecting [runOne true almostAll]) planOne (plRank planOne) = List.range 256 ∧
    Memory.wf (collecting [runOne true almostAll]).mem = true ∧ plDst planOne % tileBytes = 0 ∧
    (∀ i, i < 256 → Writable (collecting [runOne true almostAll]) ⟨some 1, 6, 5⟩ (plDst planOne + i * tileBytes) tileBytes) := by
  unfold InTurn Writable
  refine ⟨by decide, by decide, by decide, by decide, by decide, by decide, by decide, by decide⟩

/-- A reduced run of an entry with statistics and group 5 as its done group, both norms in. -/
def planStats : List Byte := wordBytes [0xC0110181, 0x02800005, 0x00010000, 256, 1, 0, 0, 0x10000, 0, 0, 0, 0, 64, 0x8000, 0, 5]
def ending : Run := ⟨0, planStats, 1, 7, [], [(0, 2 ^ 64), (1, 2 ^ 64)], true, [], [], true⟩
theorem test_run_end_premises : endingRun { collecting [ending] with groups := [(0, group5 true true [2])] } 0 = some ending ∧ ending.parts = [] ∧
    plStats ending.desc = true ∧ Stores { collecting [ending] with groups := [(0, group5 true true [2])] } ⟨some (runCourt ending), 6, 5⟩
      (plStatsBase ending.desc + ending.step % 64 * 32) 32 ∧
    groupIndex { collecting [ending] with groups := [(0, group5 true true [2])] } (plDone ending.desc) = some 0 ∧
    numDecided (group5 true true [2]) ending.number = false := by
  unfold Stores; decide

/-- One tile comes in, staged at tile 4; group 5 carries the Relay's numbers. -/
def relayed (st : Nat) (x : Relay) : State :=
  let s := (huddled (group5 true false [2])).setFld Page.ce F.CE_RELAY_IN_tiles 1
  let s := (s.setFld Page.ce F.CE_RELAY_STAGE_TILES_tiles st).setFld48 Page.ce F.CE_RELAY_STAGE_LO_base F.CE_RELAY_STAGE_HI_base 0x4000
  let s := s.setFld Page.ce F.CE_RELAY_ARM_group 5
  { s with relay := x }
theorem test_relay_arm_premises : Accepted (relayed 1 ⟨false, 0, []⟩) byMc (Page.ce + 0x9C) ∧ anyWindow (relayed 1 ⟨false, 0, []⟩) = false ∧
    relayIn (relayed 1 ⟨false, 0, []⟩) ≤ (relayed 1 ⟨false, 0, []⟩).fld Page.ce F.CE_RELAY_STAGE_TILES_tiles ∧
    (relayed 0 ⟨false, 0, []⟩).fld Page.ce F.CE_RELAY_STAGE_TILES_tiles < relayIn (relayed 0 ⟨false, 0, []⟩) ∧
    Accepted updating byMc (Page.ce + 0x9C) ∧ anyWindow updating = true := by unfold Accepted; decide

theorem test_relay_copy_premises : groupIndex (relayed 1 ⟨true, 3, [0x1000]⟩) (5#16).toNat = some 0 ∧
    numDecided (group (relayed 1 ⟨true, 3, [0x1000]⟩) 0) (relayNum (relayed 1 ⟨true, 3, [0x1000]⟩) + 2) = false ∧
    Memory.wf (relayed 1 ⟨true, 3, [0x1000]⟩).mem = true ∧ relayStage (relayed 1 ⟨true, 3, [0x1000]⟩) 0 % tileBytes = 0 ∧
    relayStage (relayed 1 ⟨true, 3, [0x1000]⟩) 0 ∉ (relayed 1 ⟨true, 3, [0x1000]⟩).relay.staged ∧
    Copyable (relayed 1 ⟨true, 3, [0x1000]⟩) ceWho (relayStage (relayed 1 ⟨true, 3, [0x1000]⟩) 0) 0x1000 := by unfold Copyable; decide

theorem test_relay_tiles_premises : InTurn (relayed 1 ⟨true, 3, []⟩) (fromDev 2) ∧ (wireTile.resent = true ∧ wireTile.data.length = tileBytes) ∧
    relayStage (relayed 1 ⟨true, 3, []⟩) 0 = 0x4000 ∧ (relayed 1 ⟨true, 3, []⟩).relay.staged.length < relayIn (relayed 1 ⟨true, 3, []⟩) ∧
    admits (relayed 1 ⟨true, 3, []⟩) ceWho 0x4000 = none ∧
    relayIn (relayed 1 ⟨true, 3, [0x1000]⟩) ≤ (relayed 1 ⟨true, 3, [0x1000]⟩).relay.staged.length ∧
    (relayed 1 ⟨true, 3, [0x1000]⟩).fld Page.ce F.CE_RELAY_ARM_armed = 0 := by
  unfold InTurn
  exact ⟨by decide, ⟨rfl, List.length_replicate⟩, by decide, by decide, by decide, by decide, by decide⟩

theorem test_relay_staged_premises : relayStaged ((relayed 1 ⟨true, 3, [0x1000]⟩).setFld Page.ce F.CE_RELAY_STAT_phase 1) = true ∧
    groupIndex ((relayed 1 ⟨true, 3, [0x1000]⟩).setFld Page.ce F.CE_RELAY_STAT_phase 1)
      (relayGroup ((relayed 1 ⟨true, 3, [0x1000]⟩).setFld Page.ce F.CE_RELAY_STAT_phase 1)) = some 0 ∧
    numDecided (group5 true false [2]) (relayNum (relayed 1 ⟨true, 3, [0x1000]⟩) + 1) = false := by decide

/-! ## Chesy -/

/-- Flow 0 with device 2 over port 1, messages 0 and 1 sent once; a kind 2 buffer of that flow consumed at `cons`. -/
def flow2 (un : List Nat) : Flow := { Flow.init with
  ports := 2, next := 2, isOpen := true, cwnd := 65536, timeout := 1000
  unacked := un.map fun q => ⟨q, 0x30, [], [], [], 1, 1⟩ }
def flowing (f : Flow) (bs : List PassBuf) : State := { (onFabric running).setFld (Page.eth 1) F.ETH_STATUS_lanes 0xFF with
  flows := [(flowKey 2 0, f)]
  pbufs := bs }
def ackHdr : WireHdr := ⟨1#5, 0#4, 2#16, 1#16, 0#32, 0#32, 1#32, 0#32, true, false, 3#16, true, false⟩
def remote0 (prod cons : Nat) : PassBuf := { PassBuf.init ⟨0, 2, prod, 0, 0, cons, 2, 16, 4, 0, 2⟩ false with
  queue := if prod = 1 then [⟨List.replicate 16 0#8, false⟩] else []
  granted := if prod = 1 then 0 else 2 }

theorem test_ack_premises : AckTaken (flowing (flow2 [0, 1]) []) ackHdr ∧ (flowOf (flowing (flow2 [0, 1]) []) 2 0).waiting = [] ∧
    ackHdr.resendSrc = false ∧ pickPort (flowing (flow2 [0, 1]) []) 2 = some 1 ∧
    ((stillOut (flowing (flow2 [0, 1]) []) ackHdr).map (·.seq)).Nodup ∧ stillOut (flowing (flow2 [0, 1]) []) ackHdr ≠ [] ∧
    (∀ m ∈ stillOut (flowing (flow2 [0, 1]) []) ackHdr,
      m.sends < (flowing (flow2 [0, 1]) []).fld Page.chesy F.CHESY_RTO_retries + 1) := by unfold AckTaken; decide

theorem test_credit_premises : AckTaken (flowing (flow2 []) [remote0 1 2]) ackHdr ∧
    remoteBuf (flowing (flow2 []) [remote0 1 2]) 2 0 false = some (remote0 1 2) ∧ (remote0 1 2).spill = [] ∧ (remote0 1 2).queue ≠ [] ∧
    (flow2 []).failed = false := by unfold AckTaken; decide

def entryHdr : WireHdr := { ackHdr with ece := false, credit := 0#16 }
theorem test_entry_premises : InTurn (flowing (flow2 []) [remote0 2 1]) entryHdr ∧
    remoteBuf (flowing (flow2 []) [remote0 2 1]) 2 0 true = some (remote0 2 1) ∧ (remote0 2 1).granted ≠ 0 ∧
    (remote0 2 1).store.length < (remote0 2 1).desc.depth ∧ (remote0 2 1).spill = [] ∧ (remote0 2 1).queue = [] ∧
    (BitVec.ofNat 32 (crc32c []) == 0#32) = true ∧ (BitVec.ofNat 32 (crc32c []) == 1#32) = false ∧
    remoteBuf (flowing (flow2 []) [{ remote0 2 1 with granted := 0 }]) 2 0 true = some { remote0 2 1 with granted := 0 } := by
  unfold InTurn; decide

theorem test_flow_timer_premises : fabricUp (flowing { flow2 [0, 1] with fresh := 8 } []) = true ∧
    0 < (flowOf (flowing { flow2 [0, 1] with fresh := 8 } []) 2 0).fresh ∧ (flowOf (flowing (flow2 [0, 1]) []) 2 0).unacked = (flow2 [0, 1]).unacked ∧
    (∀ m ∈ (flow2 [0, 1]).unacked, m.sends < (flowing (flow2 [0, 1]) []).fld Page.chesy F.CHESY_RTO_retries + 1) ∧
    ((flow2 [0, 1]).unacked.map (·.seq)).Nodup ∧
    ((flowing (flow2 [0, 1]) []).setFld Page.chesy F.CHESY_RTO_retries 0).fld Page.chesy F.CHESY_RTO_retries + 1 ≤ 1 ∧
    (0#32).toNat / 2 ^ 28 ∉ [2, 3, 4, 5] ∧ ({ flow2 [] with acked := 4096 }).acked ≠ 0 := by decide

theorem test_reopen_premises : Accepted (flowing (flow2 [0, 1]) []) byMc (Page.chesy + 0x54) ∧
    (flowing (flow2 [0, 1]) []).fld Page.chesy F.CHESY_FLOW_SEL_flow = 0 ∧ ((flowing (flow2 [0, 1]) []).flows.map (·.1)).Nodup ∧
    (flowKey 2 0) % 2 ^ 32 = 0 ∧ Accepted (flowing (flow2 [0, 1]) []) byMc (Page.eth (17#5).toNat + 0x68) := by unfold Accepted; decide

/-! ## Ports and lanes -/

theorem test_port_premises : portMode (onFabric running) 2 ≠ 0 ∧ (0#128).toNat ≠ portAddr ((onFabric running).setFld (portPage 2) F.ETH_IP_BASE_base 9) 2 ∧
    (BitVec.ofNat 128 (portAddr (onFabric running) 2)).toNat = portAddr (onFabric running) 2 ∧ FlowsApart (flowing (flow2 [0, 1]) []) ∧
    obeysPause (onFabric running) 2 true ((onFabric running).fld (portPage 2) F.ETH_VLAN_pfc_prio) = true ∧
    pickPort ((flowing (flow2 [0, 1]) []).setFld (Page.eth 0) F.ETH_STATUS_mode 1) 3 ≠ none ∧ (2 : Nat) ≠ 0 ∧
    portMode (onFabric running) 18 = 0 ∧ trainedMode (onFabric running) 18 ≠ 0 ∧ isReady (onFabric running) = true := by
  unfold FlowsApart; decide

def laned (x : Lane) : State := { flowing (flow2 [0, 1]) [] with lanes := [(8 * 2 + 7, x)] }
theorem test_lane_premises : laneOf (laned ⟨false, false, true, 2, 20⟩) 2 7 = ⟨false, false, true, 2, 20⟩ ∧
    (100#48).toNat < (1#48).toNat * 100000 ∧ ¬ (10000#48).toNat < (1#48).toNat * 10000 ∧ FlowsApart (laned ⟨false, false, true, 2, 20⟩) ∧
    portMode (laned ⟨false, false, true, 2, 20⟩) 2 ≠ 0 ∧ laneOf (laned ⟨true, false, false, 1, 20⟩) 2 7 = ⟨true, false, false, 1, 20⟩ ∧
    running.board.spDown = false ∧ ({ running with board := { running.board with spDown := true } }).board.spDown = true := by
  unfold FlowsApart; decide

/-! ## Waiting root consumers -/

/-- A page under rule 2 whose A blocks' root slot at tile 48 waits under select exact. -/
def page2 : List Byte := wordBytes [0xCAD001C0, 0x10000000, 4 * 65536 + 4, 0x20, 0x10000, 0, 0, 1024, 48 * 4096, 0, 52 * 4096, 0, 40 * 4096, 0, 0, 0]
def rootWaiting : State := { caddied { Caddie.init with
    pages := [(0, ⟨page2, [], [], 1, false, false, false⟩)]
    window := some 1
    staged := [⟨0, 0, 1, 1, false, false, []⟩] } with
  mem := Memory.write [] (48 * 4096) (wordBytes [0x40071110, 0, 0x00008000, 5, 1, 0]) }
theorem test_part_wait_premises : waitingPart ((rootWaiting).setFld48 (Page.caddie 0) F.CADDIE_PENDING_STEP_LO_step F.CADDIE_PENDING_STEP_HI_step 1) 0 =
    some ⟨0, 0, 1, 1, false, false, []⟩ := by decide

/-! ## The Umpires -/

def vote0 (origin : BitVec 5) (sampled same ok0 ok1 : Bool) (third : BitVec 2) : VoteOp :=
  ⟨0#5, 0#2, origin, 3#2, 31#5, 0x40#32, sampled, same, ok0, ok1, third, ⟨[], 0#48, 0#16, 0#8, 0#40, 0#40, 0#16⟩⟩
def umped (u : Ump) (s : State) : State := { s with umps := [(0, u)] }

/-- The spare reruns; with unit 16 skipped the next working cluster does. -/
theorem test_vote_premises : voteStands running (vote0 15#5 false false false true 0#2) = true ∧ pickRerun running 0 15 [15] = some 16 ∧
    pickRerun running 0 16 [15, 16] = some 0 ∧ voteStands (running.setFld (Page.ump 0) F.UMP_SAMPLE_k 0) (vote0 15#5 true false true true 1#2) = true ∧
    pickRerun ((running.setPageMode (Page.tu 16) 5)) 0 15 [15] = some 0 := by decide

theorem test_row_strike_premises : running.pageRetired (enginePage (.root 0#5)) = false ∧ bit (engineRows running (.root 0#5)) (63#6).toNat = false ∧
    KMap.get running.rowStrikes 0 (64 * engineKey (.root 0#5) + 63) + 1 < 3 ∧
    3 ≤ KMap.get ({ running with rowStrikes := [(64 * 64 + 5, 2)] }).rowStrikes 0 (64 * engineKey .solver + 5) + 1 ∧
    (maskBits 64 (engineRows running .solver ||| 2 ^ 5)).length < 9 ∧ repairWord running (engineWord .solver) < 2 ^ 32 ∧
    repairWord running (engineWord .solver + 1) < 2 ^ 32 ∧
    KMap.get (umpOf (umped { Ump.init with live := [(67, 1)] } running) (0#5).toNat).live 0 (67#7).toNat ≠ 0 := by decide

theorem test_localise_premises : ((umpOf (umped { Ump.init with shadow := [67] } running) 0).shadow.contains 67) = true ∧
    (umpOf (umped { Ump.init with shadow := [67] } running) 0).retiring.contains 16 = false ∧
    quietFor (umped { Ump.init with shadow := [67] } running) 0 16 = true ∧
    bit (running.fld (Page.ump 0) F.UMP_RETIRED_clusters) 16 = false ∧ subsUsed running 0 16 3 + 0 + 2 ≤ 2 ∧
    ¬ subsUsed running 0 16 3 + 0 + 3 ≤ 2 := by decide

theorem test_switch_in_premises : (umpOf (umped { Ump.init with subs := [(3, 63)] } running) 0).subs.filter (fun e => e.1 / 4 == 0) = [(4 * 0 + 3, 63)] ∧
    quietFor (umped { Ump.init with subs := [(3, 63)] } running) 0 0 = true ∧ BanksEmpty running 0 0 3 ∧
    running.fld (Page.tu 0) F.TU_SUBST_MAP_sub0_used 3 = 0 ∧
    (running.setFld (Page.tu 0) F.TU_SUBST_MAP_sub0_used 1 3).fld (Page.tu 0) F.TU_SUBST_MAP_sub0_used 3 ≠ 0 := by
  unfold BanksEmpty; decide

/-- Cluster 3 retires with a drained stream of 64 rows in the map; the spare is 16, or is out of service and no court is there. -/
def takingOver : State := umped { Ump.init with retiring := [3] } (with0 { region0 with
  main := { Prog.init with map := some [⟨0, 64, 0, 1, true⟩] } })
theorem test_takeover_premises : (umpOf takingOver 0).retiring = [3] ∧ (takingOver.region 0).stream = none ∧ takingOver.physOf 0 3 = some 3 ∧
    (∀ e ∈ currentMap (takingOver.region 0), e.len ≤ 64 ∧ ∀ f ∈ currentMap (takingOver.region 0), f.width = e.width) ∧
    spareOf takingOver 0 = some 16 ∧ (∀ u, u < 4 → BanksEmpty takingOver 0 3 u ∧ (unitOf (takingOver.cluster (clusterOf 0 3)) u).groups = []) ∧
    currentMap (takingOver.region 0) = [⟨0, 64, 0, 1, true⟩] ∧ 0 + offsetOf takingOver 0 16 = 13 + offsetOf takingOver 0 3 := by
  unfold BanksEmpty; decide

def shortOf : State := ({ takingOver with assign := [] }).setPageMode (Page.tu 16) 5
theorem test_takeover_short_premises : (umpOf shortOf 0).retiring = [3] ∧ spareOf shortOf 0 = none ∧ shortOf.courtOf 0 = none ∧
    shortOf.fld (Page.ump 0) F.UMP_CTL_min_clusters ≤ (((List.range 16).filterMap (shortOf.physOf 0)).filter (· != 3)).length := by decide

def retired16 : State := running.setFld (Page.ump 0) F.UMP_RETIRED_clusters (2 ^ 16)
def proving (done : Nat) : State := (running.setFld (Page.ump 0) F.UMP_PROBATION_cluster 16).setFld (Page.ump 0) F.UMP_PROBATION_jobs_done done
theorem test_probation_premises : Accepted retired16 byMc (Page.ump 0 + 0x58) ∧ bit (retired16.fld (Page.ump 0) F.UMP_RETIRED_clusters) 16 = true ∧
    inProbation retired16 0 = none ∧ retired16.pageRetired (Page.rg 0) = false ∧ (umpOf retired16 0).barred.contains 16 = false ∧
    Accepted (umped { Ump.init with barred := [16] } retired16) byMc (Page.ump 0 + 0x58) ∧
    (umpOf (umped { Ump.init with barred := [16] } retired16) 0).barred.contains 16 = true ∧
    inProbation (proving 0) 0 = some 16 ∧ Accepted (proving 0) byMc (Page.ump 0 + 0x58) ∧ (proving 0).courtOf 0 ≠ none ∧
    min ((proving 0).fld (Page.ump 0) F.UMP_PROBATION_jobs_done + 1) 255 < (proving 0).fld (Page.ump 0) F.UMP_CTL_probation_jobs ∧
    (proving 3).fld (Page.ump 0) F.UMP_CTL_probation_jobs ≤ min ((proving 3).fld (Page.ump 0) F.UMP_PROBATION_jobs_done + 1) 255 ∧
    (umpOf running 0).retiring.contains 0 = false := by
  unfold Accepted; decide

/-! ## The solver engine -/

/-- A dense structure of two problems of one row and one column: table at tile 2, A at 3, b at 4, work at 8; results at 5. -/
def sdesc0 : List Byte := wordBytes [0x5E570100, 0x10000001, 1, 0x10001, 0, 0x10001, 0x2000, 0, 0x3000, 0, 0x4000, 0, 0x8000, 0, 1, 0]
def jdesc0 (deadline : Nat) : List Byte := wordBytes [0x50B70100, 0x10000007, 0x1000, 0, 0, 0, 0, deadline, 0, 0, 0, 0x5000, 0, 0, 0, 0]
def solver (deadline : Nat) : State := { running with
  trailers := [0, 1, 2].map (fun i => (i, tile 0#4)) ++ [3, 4, 5, 6, 7, 8].map (fun i => (i, tile 1#4))
  mem := Memory.write (Memory.write (Memory.write (Memory.write (Memory.write [] 0 (jdesc0 deadline)) 0x1000 sdesc0) 0x2000 (wordBytes [1, 0, 1, 0]))
    0x3000 (wordBytes [0x3F800000])) 0x4000 (wordBytes [0x3F800000]) }

theorem test_submit_premises : seWaits (solver 100) byMc.path = false ∧ Accepted (solver 100) byMc (Page.se + 0x40) ∧ Memory.wf (solver 100).mem = true ∧
    Readable (solver 100) (Who.device 4 7) (tierBase (0#5).toNat false + (0#24).toNat * tileBytes) 64 ∧ bytesAt (solver 100) 0 64 = jdesc0 100 ∧
    seStruct (jdesc0 100) = 0x1000 ∧ Readable (solver 100) (Who.device 4 7) 0x1000 64 ∧ bytesAt (solver 100) 0x1000 64 = sdesc0 ∧
    submitReason (solver 100) (jdesc0 100) (trailerAt (solver 100) 0).tag (some (sdesc0, (trailerAt (solver 100) 0x1000).tag)) = none := by
  unfold Accepted Readable; decide

/-- A deadline below 100 µs is refused with reason 3. -/
theorem test_submit_refusal_premises : Accepted (solver 99) byMc (Page.se + 0x40) ∧ bytesAt (solver 99) 0 64 = jdesc0 99 ∧
    submitReason (solver 99) (jdesc0 99) (trailerAt (solver 99) 0).tag (some (sdesc0, (trailerAt (solver 99) 0x1000).tag)) = some 3 := by
  unfold Accepted; decide

def job0 (running started finished : Bool) : SeJob := { newJob (solver 100) (jdesc0 100) sdesc0 0 with
  running := running, started := started, finished := finished }
def solving (j : SeJob) : State := { solver 100 with jobs := [j] }

theorem test_job_turn_premises : jobEligible (solving (job0 false false false)) 0 = true ∧ (job0 false false false).finished = false ∧
    (job0 false false false).running = false := by decide

theorem test_job_problem_premises : (solving (job0 true true false)).jobs.findIdx? (·.running) = some 0 ∧ deltaLeft (job0 true true false) = false ∧
    ssSparse sdesc0 = false ∧ 0 + 1 < ssProblems sdesc0 ∧ solOf (solving (job0 true true false)) (job0 true true false) 0 = none ∧
    Readable (solver 100) (seWho 1) (ssTable sdesc0) 8 ∧ (∀ k ∈ spanTiles (ssTable sdesc0) 8, (trailerAt (solver 100) k).format = 0#4) ∧
    problemOf (bytesAt (solver 100) (ssTable sdesc0) 8) = (1, 1) ∧ Readable (solver 100) (seWho 1) (ssArea1 sdesc0) 4 ∧
    (∀ k ∈ spanTiles (ssArea1 sdesc0) 4, (trailerAt (solver 100) k).format = 1#4) ∧ Readable (solver 100) (seWho 1) (ssArea2 sdesc0) 4 ∧
    (∀ k ∈ spanTiles (ssArea2 sdesc0) 4, (trailerAt (solver 100) k).format = 1#4) ∧
    ((fp32.decode (wordAt (bytesAt (solver 100) (ssArea1 sdesc0) 4) 0)).isFinite = true) ∧
    Stores (solver 100) (seWho 1) (xAddr (job0 true true false) 0) 4 := by unfold Readable Stores; decide

set_option exponentiation.threshold 2000 in
/-- 1 · x = 1 with μ 0 solves to one value, 1. -/
theorem test_dense_one : ((denseChol (pivotCtl (job0 true true false)) [[widen64 0x3F800000]] [widen64 0x3F800000] (widen64 0)).x.map
    (deliverX (bit (job0 true true false).pivot 31) false)) = [(0x3F800000, false)] := by decide

theorem test_job_end_premises : (solving (job0 true true true)).jobs.findIdx? (fun k => k.running && k.finished) = some 0 ∧
    ssWork sdesc0 % tileBytes = 0 ∧ seResult (jdesc0 100) % tileBytes = 0 ∧ Writable (solver 100) (seWho 1) (ssWork sdesc0) (ssWorkTiles sdesc0 * tileBytes) ∧
    Writable (solver 100) (seWho 1) (seResult (jdesc0 100)) tileBytes := by unfold Writable; decide

theorem test_cancel_premises : Accepted (solving (job0 true true false)) byMc (Page.se + 0x58) ∧
    (solving (job0 true true false)).jobs.findIdx? (fun j => j.court == 1 && seTag j.desc == 7) = some 0 ∧
    (solving (job0 true true false)).jobs.findIdx? (fun j => j.court == 1 && seTag j.desc == 8) = none := by unfold Accepted; decide

/-! ## Scorecard and counters -/

def scored : State := { running with score := [(3, { ScRec.free with valid := true })] }
theorem test_score_premises : Accepted scored byMc scCursorOff ∧ (scRecord' scored 3).valid = true ∧
    (∀ m, m < 511 → m ≠ 0 → (scRecord' scored ((3 + 1 + m - 1) % 512)).valid = false) ∧ (∀ m, m < 511 → (scRecord' scored ((3 + 1 + m) % 512)).valid = false) ∧
    scFind scored (fun r => r.code == scored.fld Page.sc F.SC_KEY_code && r.courtValid == (scored.fld Page.sc F.SC_KEY_court_valid == 1) &&
      (!(scored.fld Page.sc F.SC_KEY_court_valid == 1) || r.court == scored.fld Page.sc F.SC_KEY_court)) = some 3 ∧
    Accepted running byMc (Page.sc + 0x88) ∧ ({ running with saving := some [] }).saving = some [] ∧ (rateOf running 0 (severityOf 0)).2 ≠ 0 := by
  unfold Accepted; decide

/-- Court 1 has a bank of 4 tiles at tile 16 and the permission; no other court has one. -/
def banked : State :=
  let s : State := { running with trailers := owned 0#4 32 }
  let s := s.setFld (Page.court 1) F.COURT_PERMIT_counter_read 1
  (s.setFld Page.ctr F.CTR_BANK_tiles 4 1).setFld Page.ctr F.CTR_BANK_base_lo 0x10000 1
theorem test_snapshot_premises : Accepted banked byMc ctrCmdOff ∧ banked.snap = none ∧ banked.fld Page.ctr F.CTR_BANK_DEV_tiles = 0 ∧
    (courtPages banked 1).length = 70 ∧ banked.fld48 Page.ctr F.CTR_BANK_base_lo F.CTR_BANK_base_hi 1 = 0x10000 ∧
    (∀ k, k < 16 → ((banked.fld (Page.court k) F.COURT_PERMIT_counter_read = 1 ∧ banked.fld Page.ctr F.CTR_BANK_tiles k ≠ 0) ↔ k = 1)) ∧
    bankTiles 70 ≤ banked.fld Page.ctr F.CTR_BANK_tiles 1 ∧ Stores banked ctrWho 0x10000 64 ∧
    Stores banked ctrWho (0x10000 + tileBytes) (128 * 70) := by unfold Accepted Stores; decide

def copying (q : List (Bool × Nat)) : State := { banked with
  snap := some ⟨true, [(0x10000, [1#8, 2#8]), (0x10002, [3#8])]⟩
  snapQueue := q }
theorem test_copy_done_premises : (∀ b ∈ (⟨true, [(0x10000, [1#8, 2#8]), (0x10002, [3#8])]⟩ : Snap).banks, Stores (copying []) ctrWho b.1 b.2.length) ∧
    Memory.wf (copying []).mem = true ∧ (copying []).snapQueue = [] ∧ (copying [(false, 0)]).snapQueue = [(false, 0)] ∧
    ([(0x10000, [1#8, 2#8]), (0x10002, [3#8])] : List (Nat × List Byte)).Pairwise (fun b c => b.1 + b.2.length ≤ c.1 ∨ c.1 + c.2.length ≤ b.1) := by
  unfold Stores; decide

theorem test_ctr_arm_premises : Accepted (huddled (group5 true true [2])) byMc (Page.ctr + 0x90) ∧
    groupIndex (huddled (group5 true true [2])) 5 = some 0 ∧ numDecided (group (huddled (group5 true true [2])) 0) (ctrArmNum (huddled (group5 true true [2]))) = false ∧
    groupIndex (huddled (group5 true true [2])) 6 = none ∧ 1#3 ∈ [1#3, 3#3, 4#3] ∧ 2#3 ∉ [1#3, 3#3, 4#3] ∧
    numDecided (group (huddled { group5 true true [2] with decided := [(0, 1)] }) 0) (ctrArmNum (huddled { group5 true true [2] with decided := [(0, 1)] })) =
      true := by unfold Accepted; decide

/-! ## Power, droop and temperature -/

/-- Every die at 0.60 V, every region at throttle 7, 99 periods above the cap. -/
def capped : State := { running with power := { Power.init with
  ceiling := (List.range 4).map fun d => (d, 600)
  ctlThrottle := (List.range 32).map fun r => (r, 7)
  beyond := 99 } }
theorem test_power_premises : Accepted running byMc (Page.sns + 0x70 + 4 * (3#2).toNat) ∧ Accepted running byMc (Page.sns + 0x200 + 4 * (31#5).toNat) ∧
    KMap.get ({ Power.init with ramps := [(3, 5)] }).ramps 0 (3#2).toNat ≠ 0 ∧
    (4400 < (4401#16).toNat ∧ (∀ d, d < 4 → ceilingOf capped d ≤ 600) ∧ ∀ r, r < 32 → throttleOf capped r = 7) ∧ capped.power.beyond = 99 ∧
    ¬ 4400 < (4400#16).toNat ∧ ¬ (4350 + 10 * running.fld Page.sns F.SNS_CAP_hyst < 4400) ∧ 4349 + 10 * running.fld Page.sns F.SNS_CAP_hyst < 4400 := by
  unfold Accepted; decide

theorem test_droop_premises : bit (running.fld Page.sns F.SNS_DROOP_STAT_regions) (31#5).toNat = false ∧
    bit ((running.setFld Page.sns F.SNS_DROOP_STAT_regions (2 ^ 31)).fld Page.sns F.SNS_DROOP_STAT_regions) (31#5).toNat = true ∧
    KMap.get running.power.droopStacks false (31#5).toNat ≠ true ∧ running.power.tripped = false ∧
    (67#7).toNat < 68 ∧ (0x6DF#16).toNat < 16 * min 115 (running.fld Page.sns F.SNS_THERM_CTL_trip_c) ∧
    16 * min 115 (running.fld Page.sns F.SNS_THERM_CTL_trip_c) ≤ (0x6E0#16).toNat := by decide

/-- With every sensor at 0 but sensor 7 at 95 °C, die 0's highest is sensor 7's and warns. -/
def warm : State := running.setFld Page.sns F.SNS_TEMP_tj (16 * 95) 7
theorem test_ceiling_premises : (∃ k, k < 8 ∧ 16 * 95 = warm.fld Page.sns F.SNS_TEMP_tj (8 * 0 + k)) ∧
    (∀ k, k < 8 → warm.fld Page.sns F.SNS_TEMP_tj (8 * 0 + k) ≤ 16 * 95) ∧ 16 * warm.fld Page.sns F.SNS_THERM_CTL_warn_c ≤ 16 * 95 ∧
    KMap.get warm.power.warm false 0 = false := ⟨⟨7, by decide⟩, by decide⟩

/-! ## Starts, resets and the rails -/

def start0 (ok : Bool) (bad : Option (BitVec 10)) : StartInput := ⟨7#3, ok, true, 0#10, bad, ⟨true, 0xF#4, 0#19, []⟩⟩
def boardOf (f : Board → Board) : State := { State.reset with board := f State.reset.board }
def copyFlash (total copied : Nat) (s : State) : State := { s with flash := { s.flash with total := total, copied := copied, staging := Slot.made } }

theorem test_reset_premises : running.board.aux = true ∧ Accepted running byMc (Page.pkg + 0x5C) ∧ running.board.pwrgood = true ∧
    running.board.dies = true ∧ (boardOf fun b => { b with pwrgood := true }).board.dies = false ∧
    (boardOf fun b => { b with aux := false }).board.aux = false ∧ State.reset.fld Page.pkg F.PKG_HOLDUP_holdup_ok ≠ (true).toNat ∧
    running.board.spDown = false := by unfold Accepted; decide
theorem test_no_window : NoWindow running := fun _ => rfl

def copyWaits : State := copyFlash 1024 0 (boardOf fun b => { b with v1p8 := true, starting := some (start0 true none) })
theorem test_holdup_copy_premises : copyWaits.board.starting = some (start0 true none) ∧ copyWaits.board.atStep3 = false ∧
    (start0 true none).badSector = none ∧ copyWaits.flash.copied < copyWaits.flash.total ∧ copyWaits.flash.total ≤ copyWaits.flash.copied + 1024 ∧
    copyWaits.fld Page.pkg F.PKG_HOLDUP_holdup_ok ≠ (true).toNat ∧ State.reset.board.starting = none := by decide

/-- A start from reset with V1P8 finds an unreadable flash, a copy that waits, or a good image; without V1P8 it waits. -/
theorem test_start_premises : State.reset.board.aux = true ∧ State.reset.fld Page.pkg F.PKG_BOOT_boot_phase = 0 ∧ State.reset.board.starting = none ∧
    State.reset.board.v1p8 = false ∧ (boardOf fun b => { b with v1p8 := true }).board.v1p8 = true ∧
    (start0 false none).flashOk = false ∧ imageReason State.reset State.reset.flash.active = 0 ∧ State.reset.flash.total ≤ State.reset.flash.copied ∧
    recordLayout (settingsBlob State.reset) = imgLayout (slotHeader State.reset.flash.active) 0 ∧ State.reset.board.pwrgood = false ∧
    imageReason { State.reset with fuses := { State.reset.fuses with revoked := 1#32 } } State.reset.flash.active ≠ 0 ∧
    (copyFlash 2 1 State.reset).flash.copied < (copyFlash 2 1 State.reset).flash.total ∧ State.reset.fld Page.pkg F.PKG_HOLDUP_holdup_ok = 0 ∧
    (boardOf fun b => { b with starting := some (start0 true none), atStep3 := true }).board.atStep3 = true := by decide

def phase1 : State := (boardOf fun b => { b with v1p8 := true }).setFld Page.pkg F.PKG_BOOT_boot_phase 1
theorem test_pwrgood_premises : phase1.board.aux = true ∧ phase1.board.pwrgood = false ∧ phase1.fld Page.pkg F.PKG_BOOT_boot_phase = 1 ∧
    State.reset.fld Page.pkg F.PKG_BOOT_boot_phase ≠ 1 ∧ (start0 true none).tests.hub = 0xF#4 ∧ (start0 true none).tests.repairOk = true ∧
    (start0 true none).tests.faults = [] ∧ phase1.flash.repair = [] ∧ phase1.flash.scoreNew = [] ∧
    imgLayout (slotHeader phase1.flash.active) 1 = 1 := by decide

/-! ## Firmware, activation and attestation -/

def xfer (st off : Nat) (x : Xfer) : State :=
  { (running.setFld Page.flash F.FLASH_XFER_STAT_state st).setFld Page.flash F.FLASH_XFER_OFF_offset off with xfer := some x }
theorem test_transfer_command_premises : Accepted running byMc xferCtlOff ∧ xferState running ≠ 2 ∧ running.xfer = none ∧
    running.fld Page.pkg F.PKG_FW_CTL_update_lock = 0 ∧ running.fld Page.pkg F.PKG_ACT_ARM_armed = 0 ∧
    (running.setFld Page.pkg F.PKG_ACT_ARM_armed 1).fld Page.pkg F.PKG_ACT_ARM_armed = 1 ∧
    Accepted (xfer 2 0 ⟨true, 0, [], 3⟩) byMc xferCtlOff ∧ xferState (xfer 2 0 ⟨true, 0, [], 3⟩) = 2 ∧
    Accepted (xfer 1 2048 ⟨true, 2048, [], 0⟩) byMc xferCtlOff ∧ xferState (xfer 1 2048 ⟨true, 2048, [], 0⟩) = 1 ∧
    (xfer 1 2048 ⟨true, 2048, [], 0⟩).fld Page.flash F.FLASH_XFER_OFF_offset = 2048 ∧
    (xfer 1 65536 ⟨true, 65536, [], 0⟩).fld Page.flash F.FLASH_XFER_OFF_offset = 65536 ∧
    (xfer 1 0 ⟨true, 2048, [], 0⟩).fld Page.flash F.FLASH_XFER_OFF_offset = 0 := by unfold Accepted; decide

/-- A settings blob of 116 bytes with its check, and one without its magic. -/
def blob116 : List Byte := wordBytes [0x5E770101, 1, 116, 130785270] ++ List.replicate 100 0#8
theorem test_transfer_done_premises : blobOk blob116 = true ∧ blobOk (List.replicate 116 0#8) = false ∧
    imageReason (copyFlash 0 0 running) (copyFlash 0 0 running).flash.staging = 0 ∧ imageReason running running.flash.staging ≠ 0 := by decide

def confirming (counter : Nat) : State :=
  { running.setFld Page.pkg F.PKG_FW_CTL_confirm_pending 1 with fuses := { running.fuses with counter := counter } }
/-- In recovery with HOLDUP_OK and a verified image in the staging slot. -/
def recovering : State := copyFlash 0 0 (((running.setFld Page.pkg F.PKG_BOOT_boot_phase 4).setFld Page.pkg F.PKG_HOLDUP_holdup_ok 1).setFld
  Page.flash F.FLASH_XFER_STAT_state 3)
theorem test_firmware_premises : Accepted running byMc fwCmdOff ∧ running.fld Page.pkg F.PKG_FW_CTL_confirm_pending = 0 ∧
    Accepted (confirming 255) byMc fwCmdOff ∧ (confirming 255).fld Page.pkg F.PKG_FW_CTL_confirm_pending = 1 ∧
    running.fld Page.pkg F.PKG_BOOT_boot_phase ≠ 4 ∧ Accepted recovering byMc fwCmdOff ∧ recovering.fld Page.pkg F.PKG_BOOT_boot_phase = 4 ∧
    recovering.fld Page.pkg F.PKG_HOLDUP_holdup_ok = 1 ∧ recovering.fld Page.pkg F.PKG_FW_CTL_update_lock = 0 ∧ xferState recovering = 3 ∧
    imgSectors (slotHeader recovering.flash.staging) ≤ 1024 := by unfold Accepted; decide

def armable (s : State) : State := (s.setFld Page.pkg F.PKG_HOLDUP_holdup_ok 1).setFld Page.flash F.FLASH_XFER_STAT_state 3
theorem test_activation_premises : Accepted (armable (huddled (group5 true true [2]))) byMc (Page.pkg + 0x60) ∧
    (armable (huddled (group5 true true [2]))).fld Page.pkg F.PKG_HOLDUP_holdup_ok = 1 ∧ anyWindow (armable (huddled (group5 true true [2]))) = false ∧
    xferState (armable (huddled (group5 true true [2]))) = 3 ∧
    numDecided (group (armable (huddled (group5 true true [2]))) 0) (actNum (armable (huddled (group5 true true [2])))) = false ∧
    numDecided (group (armable (huddled { group5 true true [2] with decided := [(0, 1)] })) 0)
      (actNum (armable (huddled { group5 true true [2] with decided := [(0, 1)] }))) = true ∧
    ({ running with draining := true }).draining = true ∧ anyWindow { running with draining := true } = false ∧
    anyWindow { windowAt 1 false false with draining := true } = true ∧ Accepted running byMc (Page.mc + 0x70) ∧
    ({ running with attest := some [] }).attest = some [] := by unfold Accepted; decide

/-! ## Worked examples and check values of the spec -/

/-- R253 (11_stacks_and_tiles.md) and R297 (12_caddie.md): the check values over the ASCII string 123456789. -/
theorem test_check_values : crc32c ([0x31, 0x32, 0x33, 0x34, 0x35, 0x36, 0x37, 0x38, 0x39].map (BitVec.ofNat 8)) = 0xE3069283 ∧
    crc64xz ([0x31, 0x32, 0x33, 0x34, 0x35, 0x36, 0x37, 0x38, 0x39].map (BitVec.ofNat 8)) = 0x995DC9BBDF1939FA := by decide

/-- 02_register_pages.md, "finding and decoding pages". -/
theorem test_page_addresses : Page.tu 368 = 0x270000 ∧ Page.acc 368 = 0x570000 ∧ clusterOf (8 * 2 + 5) 11 = 368 ∧ Page.caddie 17 = 0xE31000 ∧
    pageAt 0xD2B000 = some (.re, 8 * 1 + 3) := by decide

/-- 11_stacks_and_tiles.md, "decoding an address": stack 17, deep tier, channel D6. -/
theorem test_address_fields : stackOf 0x8C0123456000 = 17 ∧ deepOf 0x8C0123456000 = true ∧ tileOf 0x8C0123456000 = 0x123456 ∧
    inTier 0x8C0123456000 = true ∧ channelOf 0x8C0123456000 = 17 + 6 := by decide

/-- 06_vector_lanes.md, "generator test vector". -/
theorem test_generator_vector : xoshiro [1#32, 0#32, 0#32, 0#32] = (129#32, [1#32, 1#32, 1#32, 0#32]) ∧
    xoshiro [1#32, 1#32, 1#32, 0#32] = (129#32, [0#32, 1#32, 512#32, 2048#32]) ∧
    xoshiro [0#32, 1#32, 512#32, 2048#32] = (262144#32, [2049#32, 513#32, 0#32, 4196352#32]) := by decide

set_option exponentiation.threshold 2000 in
/-- 03_number_formats.md, "converting a block of cell-tuning weights to MXFP4": scale byte 0x77 and the four codes. -/
theorem test_mxfp4_block : ((convMx Fmt.MXE2M1 .rne [0, 0, 0, 0] false ([0x3CAE7D56, 0x3B86594B, 0xBC20902E, 0x3A007358].map fp32.decode)).1 = 0x77) ∧
    (convMx Fmt.MXE2M1 .rne [0, 0, 0, 0] false ([0x3CAE7D56, 0x3B86594B, 0xBC20902E, 0x3A007358].map fp32.decode)).2.map (·.1) = [0x7, 0x2, 0xD, 0x0] := by
  decide

/-- 17_scorecard_and_counters.md, "reading a deadline histogram": 5,003 µs lies in bucket 12. -/
theorem test_histogram_bucket : bucketOf 5003 = 12 := by decide

/-- 20_package_and_pins.md, "the hottest sensor over the sideband": sensor 0x24 at 80.0 °C reads 0x2400_0500. -/
theorem test_hottest_word : ((sample running 36 1280).reg 0x4054) = 0x24000500#32 := by decide

/-- The outcome a step or command answers with a next state, else the state itself. -/
def after (s : State) (c : Instr) : State :=
  match exec c s with
  | .next t => t
  | _ => s

/-- 18_power_and_speed.md, "a cell-tuning package under a 3.2 kW cap": at 3,219 W the ceiling falls by 5 mV; at 3,170 W nothing changes. -/
theorem test_cap_example : ceilingOf (after (running.setFld Page.sns F.SNS_CAP_cap_w 3200) (.powerControlPeriod 3219#16 1849#16 850#16 190#16 330#16)) 0 = 845 ∧
    ceilingOf (after (running.setFld Page.sns F.SNS_CAP_cap_w 3200) (.powerControlPeriod 3170#16 1800#16 850#16 190#16 330#16)) 0 = 850 := by decide

/-! ## Well-formed and ill-formed commands -/

def tapReq (write : Bool) (n : Nat) : RegReq := ⟨write, 0x4040#24, 1#4, List.replicate n 0#32⟩
def shortTile : WireTile := ⟨List.replicate 4095 0#8, 0#32, 0#32, false⟩

theorem test_wf_registers : wellFormed (.registerRequest byMc (tapReq true 2)) = true ∧ wellFormed (.registerRequest byMc (tapReq true 1)) = false ∧
    wellFormed (.registerRequest byMc (tapReq false 0)) = true ∧ wellFormed (.registerRequest byMc (tapReq false 1)) = false ∧
    wellFormed (.dbgreg 0#16 (tapReq true 3)) = false ∧ wellFormed (.sidebandWrite 0#24 [] true none) = false ∧
    wellFormed (.sidebandWrite 0#24 [] false none) = true ∧ wellFormed (.sidebandWrite 0#24 (List.replicate 16 0#32) true none) = true ∧
    wellFormed (.sidebandWrite 0#24 (List.replicate 17 0#32) true none) = false ∧ wellFormed (.sidebandRead 0#24 0#5 true none) = false ∧
    wellFormed (.sidebandRead 0#24 16#5 true none) = true ∧ wellFormed (.sidebandRead 0#24 17#5 true none) = false := by decide

theorem wf_gradient (g : GradPart) (n : Nat) (h : g.data.length = n) : wellFormed (.gradientPart g) = (n % 4096 == 0) := by rw [← h]; rfl
theorem wf_digest (d : List Byte) (n : Nat) (h : d.length = n) : wellFormed (.digestPass 0#5 [⟨0#48, [(1#16, d)]⟩]) = (n == 4096) := by
  rw [← h, ← Bool.and_true (d.length == 4096), ← Bool.and_true (d.length == 4096 && true)]
  rfl
theorem wf_tile (x : WireTile) (n : Nat) (h : x.data.length = n) : tilesOk [x] = (n == 4096) := by
  rw [← h, ← Bool.and_true (x.data.length == 4096)]
  rfl

theorem test_wf_tiles : wellFormed (.dataWrite cmd1 0#48 [wireTile]) = true ∧ wellFormed (.dataWrite cmd1 0#48 []) = false ∧
    wellFormed (.dataWrite cmd1 0#48 [shortTile]) = false ∧ wellFormed (.relayTiles (fromDev 2) ⟨0#48, [shortTile]⟩) = false ∧
    wellFormed (.collectiveData (fromDev 2) ⟨false, 0#48, 0#16, 0#17, [shortTile], 0#32, 0#32⟩) = false := by
  have hw : tilesOk [wireTile] = true := wf_tile wireTile 4096 List.length_replicate
  have hs : tilesOk [shortTile] = false := wf_tile shortTile 4095 List.length_replicate
  have hd (x : WireTile) : wellFormed (.dataWrite cmd1 0#48 [x]) = (tilesOk [x] && !(List.isEmpty [x])) := rfl
  exact ⟨by rw [hd, hw]; rfl, rfl, by rw [hd, hs]; rfl, hs, hs⟩

theorem test_wf_payloads : wellFormed (.digestPass 0#5 [⟨0#48, [(1#16, List.replicate 4096 0#8)]⟩]) = true ∧
    wellFormed (.digestPass 0#5 [⟨0#48, [(1#16, List.replicate 4097 0#8)]⟩]) = false ∧ wellFormed (.gradientPart (gradient 0#48)) = true ∧
    wellFormed (.gradientPart { gradient 0#48 with data := List.replicate 4097 0#8 }) = false :=
  ⟨wf_digest _ 4096 List.length_replicate, wf_digest _ 4097 List.length_replicate, wf_gradient _ 8192 List.length_replicate,
    wf_gradient _ 4097 List.length_replicate⟩

theorem test_wf_numbers : wellFormed (.accDiscard byMc 543#10 0#32) = true ∧ wellFormed (.accDiscard byMc 544#10 0#32) = false ∧
    wellFormed (.veReseed byMc 544#10 0#32) = false ∧ wellFormed (.flagTrapRearm byMc 544#10 0#32) = false ∧
    wellFormed (.substituteSwitchIn 0#5 16#5) = true ∧ wellFormed (.substituteSwitchIn 0#5 17#5) = false ∧
    wellFormed (.umpRetire byMc 0#5 17#5) = false ∧ wellFormed (.umpReturnProbation byMc 0#5 17#5) = false ∧
    wellFormed (.neighbourFrame 18#5 0#128) = true ∧ wellFormed (.neighbourFrame 19#5 0#128) = false ∧ wellFormed (.linkDown 19#5) = true ∧
    wellFormed (.linkUp 20#5) = false ∧ wellFormed (.laneRetry 19#5 0#3) = false ∧ wellFormed (.umpireLocalise 0#5 67#7 [] true) = true ∧
    wellFormed (.umpireLocalise 0#5 68#7 [] true) = false ∧ wellFormed (.thermalSample 68#7 0#16) = false ∧
    wellFormed (.refclkLoss 4#3) = true ∧ wellFormed (.refclkLoss 5#3) = false := by decide

/-- A court's state with bytes in memory, an open flow and a command waiting: what the invariants and the step's statement ask for. -/
def waitingUp : State := { with0 region0 with
  pending := [.nop h0], mem := [(5, 1#8)], flows := [(3, { Flow.init with isOpen := true })] }
theorem test_invariant_premises : CourtsDisjoint waitingUp ∧ MapsCanonical waitingUp ∧ ∃ t, step waitingUp = .next t := by
  refine ⟨by unfold CourtsDisjoint; decide, ⟨by decide, fun _ => rfl, by decide, by decide, fun _ => rfl⟩, ⟨_, rfl⟩⟩
theorem test_idle_premises : running.pending = [] ∧ running.paused = [] ∧ running.board.aux = true ∧
    ∀ e ∈ running.regions, e.2.main.inflight = [] ∧ e.2.task.inflight = [] := by decide

/-- An open session that has been sent one completion, which the host has not acknowledged; `k` retransmissions. -/
def unheard (k : Nat) : State := { up with
  outbox := [⟨.session 0, 0x21, [], []⟩], sessions := [(0, ⟨true, true, 0, 0, 0, 0, 0, 0, k⟩)] }
theorem test_session_flow_premises : ∀ k ∈ [0, 255], fabricUp (unheard k) = true ∧ ((unheard k).session 0).isOpen = true ∧
    ((unheard k).session 0).flow = 0 ∧ (flowOf (unheard k) 0 0).unacked = [] ∧ (unheard k).sessionUnacked 0 ≠ [] ∧
    (((unheard k).session 0).again < (unheard k).fld Page.chesy F.CHESY_RTO_retries ↔ k = 0) := by decide
/-- An engine's message at H is discarded (R498). -/
theorem test_wrong_port : wrongPort up ⟨18#5, 0#4, 0#16, 0#16, 0#32, 0#32, 0#32, 0#32, false, false, 0#16, true, false⟩ = true := by decide

end Sys2Proof.Tests
end

section
/-! PROOFS. The court assignment (01_package_and_hierarchy.md R20): when writing a court's regions keeps the courts disjoint,
and what creating and releasing a court leave in the assignment. -/

namespace Sys2Proof.Proofs

open Sys2Proof Sys2Proof.Machine Sys2Proof.Laws

/-! ## Canonical maps -/

section

variable {α : Type}

/-- A map whose keys rise reads at an entry's key that entry's value. -/
theorem get_of_mem {m : KMap α} (d : α) (hm : m.Pairwise fun a b => a.1 < b.1) {e : Nat × α} (he : e ∈ m) :
    KMap.get m d e.1 = e.2 := by
  induction m with
  | nil => simp at he
  | cons x t ih =>
    obtain ⟨hx, ht⟩ := List.pairwise_cons.1 hm
    rcases List.mem_cons.1 he with rfl | he
    · simp [KMap.get]
    · have hne : x.1 ≠ e.1 := Nat.ne_of_lt (hx e he)
      rw [show x = (x.1, x.2) from rfl, get_cons, if_neg hne, ih ht he]

/-- A symmetric relation between entries survives the setting of a key whose new entry stands in it to the entries kept. -/
theorem pairwise_set [DecidableEq α] {R : Nat × α → Nat × α → Prop} (hR : ∀ {a b}, R a b → R b a) {m : KMap α} (d : α) {k : Nat}
    {v : α} (hm : m.Pairwise R) (hv : ∀ e ∈ m, R (k, v) e) : (KMap.set m d k v).Pairwise R := by
  have he : (KMap.erase m k).Pairwise R := hm.sublist (erase_sublist m k)
  unfold KMap.set
  by_cases h : v = d
  · simpa [h] using he
  · simp only [h, ↓reduceIte]
    rw [List.pairwise_middle hR, List.takeWhile_append_dropWhile, List.pairwise_cons]
    exact ⟨fun e h => hv e ((erase_sublist m k).subset h), he⟩

end

/-! ## Disjoint courts -/

/-- What `CourtsDisjoint` asks of the assignment. -/
def AssignDisjoint (m : KMap W32) : Prop :=
  KMap.wf m (fun _ => 0#32) = true ∧ (∀ e ∈ m, e.1 < 16) ∧ m.Pairwise fun a b => a.2 &&& b.2 = 0#32

theorem courtsDisjoint_iff (s : State) : CourtsDisjoint s ↔ AssignDisjoint s.assign := Iff.rfl

theorem assignDisjoint_nil : AssignDisjoint [] := ⟨rfl, by simp, .nil⟩

/-- Giving a court regions that no court holds keeps the courts disjoint. -/
theorem assignDisjoint_set {m : KMap W32} {n : Nat} {mask : W32} (h : AssignDisjoint m) (hn : n < 16)
    (hfree : ∀ i, i < 16 → KMap.get m 0#32 i &&& mask = 0#32) : AssignDisjoint (KMap.set m 0#32 n mask) := by
  obtain ⟨hwf, hlt, hdisj⟩ := h
  refine ⟨set_wf m (fun _ => 0#32) n mask hwf, fun e he => ?_, ?_⟩
  · rcases mem_set he with ⟨rfl, -⟩ | ⟨he, -⟩
    · exact hn
    · exact hlt e he
  · refine pairwise_set (fun {a b} hab => by rwa [BitVec.and_comm]) 0#32 hdisj fun e he => ?_
    have hget := get_of_mem 0#32 ((wf_iff _ _).1 hwf).1 he
    rw [BitVec.and_comm, ← hget]
    exact hfree e.1 (hlt e he)

/-- A region that no court holds is in no court's mask. -/
theorem courtRegions_of_courtOf_none {s : State} {r i : Nat} (h : s.courtOf r = none) (hi : i < 16) :
    (s.courtRegions i).getLsbD r = false := by
  unfold State.courtOf at h
  simpa using List.find?_eq_none.1 h i (List.mem_range.2 hi)

/-- Regions that pass the check of a court create (R345) are in no court's mask. -/
theorem courtRegions_and_of_regionsFree {s : State} {mask : W32} (h : regionsFree s mask = true) {i : Nat} (hi : i < 16) :
    s.courtRegions i &&& mask = 0#32 := by
  apply BitVec.eq_of_getLsbD_eq
  intro r hr
  unfold regionsFree at h
  have hfree := List.all_eq_true.1 h r (List.mem_range.2 hr)
  rw [BitVec.getLsbD_and, BitVec.getLsbD_zero]
  cases hm : mask.getLsbD r with
  | false => exact Bool.and_false _
  | true =>
    have hnone : s.courtOf r = none := by simp [hm] at hfree; exact hfree.1
    simp [courtRegions_of_courtOf_none hnone hi]

/-! ## What leaves the assignment alone -/

theorem forEach_assign {α : Type} (xs : List α) (s : State) (f : State → α → State) (h : ∀ s a, (f s a).assign = s.assign) :
    (forEach xs s f).assign = s.assign := by
  unfold forEach
  induction xs generalizing s with
  | nil => rfl
  | cons a t ih => exact (ih _).trans (h s a)

theorem complete_assign (s : State) (c : HostCmd) (status detail winner : Nat) (result : List Nat) :
    (complete s c status detail winner result).assign = s.assign := by
  unfold complete
  split
  · rfl
  · split
    · rfl
    · exact (noted_noteDevice _ _ _ _ (by decide)).assign

theorem nextEpoch_assign (s : State) (n : Nat) : (nextEpoch s n).assign = s.assign := by
  unfold nextEpoch
  simp only
  split <;> rfl

@[simp] theorem resetRegs_assign (s : State) (page lo hi : Nat) (keep : List Nat) :
    (resetRegs s page lo hi keep).assign = s.assign := rfl

@[simp] theorem clearStatus_assign (s : State) (page : Nat) : (clearStatus s page).assign = s.assign := rfl

theorem clearCluster_assign (s : State) (c : Nat) : (clearCluster s c).assign = s.assign := by
  simp only [clearCluster, clearStatus_assign, resetRegs_assign, setCluster_assign]

/-- Putting the queues of the root engines. -/
theorem setRoots_assign (s : State) (m : KMap (List RootReq)) : ({ s with roots := m } : State).assign = s.assign := rfl

theorem clearRegion_assign (s : State) (r : Nat) : (clearRegion s r).assign = s.assign := by
  unfold clearRegion
  rw [clearStatus_assign, resetRegs_assign, setRoots_assign, forEach_assign _ _ _ clearCluster_assign, setRegion_assign,
    clearStatus_assign, resetRegs_assign]

/-! ## Creating and releasing a court -/

theorem createCourt_assign (s : State) (n : Nat) (mask : W32) :
    (createCourt s n mask).assign = KMap.set s.assign 0#32 n mask := by
  unfold createCourt
  rw [forEach_assign _ _ _ clearRegion_assign]
  dsimp only
  rw [nextEpoch_assign, resetRegs_assign]

theorem releaseCourt_assign (s : State) (n : Nat) : (releaseCourt s n).assign = KMap.set s.assign 0#32 n 0#32 := rfl

end Sys2Proof.Proofs
end

section
/-! PROOFS. What a command answers: always a next state with the queue as it was, and a court assignment that is kept, cleared,
or changed at one court by regions that no court holds (01_package_and_hierarchy.md R20, R26; 14_host_port.md R345, R346). One
lemma per shared shape of a meaning, one per command of a shape of its own, and the table of all commands. -/

namespace Sys2Proof.Proofs

open Sys2Proof Sys2Proof.Machine Sys2Proof.Laws

/-- How a step can change the court assignment: not at all, by clearing it (a reset, R346), or by writing the regions of one
court, none of which any court holds (a create, R345; a release writes the empty mask). -/
inductive CourtMove (m : KMap W32) : KMap W32 → Prop where
  | kept : CourtMove m m
  | cleared : CourtMove m []
  | assigned {n : Nat} {mask : W32} (hn : n < 16) (hfree : ∀ i, i < 16 → KMap.get m 0#32 i &&& mask = 0#32) :
      CourtMove m (KMap.set m 0#32 n mask)

theorem CourtMove.keeps_disjoint {m m' : KMap W32} (h : CourtMove m m') (hm : AssignDisjoint m) : AssignDisjoint m' := by
  cases h with
  | kept => exact hm
  | cleared => exact assignDisjoint_nil
  | assigned hn hfree => exact assignDisjoint_set hm hn hfree

/-- The outcome is a next state with the queue of `s` and a court assignment that moved as `CourtMove` allows. -/
def Answers (s : State) (o : Host.Outcome State Fault Refusal) : Prop :=
  ∃ t, o = .next t ∧ t.pending = s.pending ∧ CourtMove s.assign t.assign

/-! ## The shapes of a meaning (Ops) -/

theorem answers_effect (s : State) (f : State → State) : Answers s (effect s f) := ⟨_, rfl, rfl, .kept⟩

theorem answers_turnedAway (s : State) : Answers s (turnedAway s) := ⟨_, rfl, rfl, .kept⟩

theorem answers_effectReset (s : State) (f : State → State) : Answers s (effectReset s f) := ⟨_, rfl, rfl, .cleared⟩

theorem answers_effectAssign {s : State} {f : State → State} (h : CourtMove s.assign (f s).assign) :
    Answers s (effectAssign s f) := ⟨_, rfl, rfl, h⟩

theorem Answers.ite {s : State} {c : Prop} [Decidable c] {a b : Host.Outcome State Fault Refusal} (ha : Answers s a)
    (hb : Answers s b) : Answers s (if c then a else b) := by
  split
  · exact ha
  · exact hb

/-- An event that the state may not allow. -/
theorem answers_when (s : State) (c : Prop) [Decidable c] (f : State → State) :
    Answers s (if c then effect s f else turnedAway s) := .ite (answers_effect s f) (answers_turnedAway s)

theorem answers_unless (s : State) (c : Prop) [Decidable c] (f : State → State) :
    Answers s (if c then turnedAway s else effect s f) := .ite (answers_turnedAway s) (answers_effect s f)

/-- A command that acts on a state with the same queue and assignment answers for both. -/
theorem Answers.congr {s s' : State} {o : Host.Outcome State Fault Refusal} (h : Answers s' o) (hp : s'.pending = s.pending)
    (ha : s'.assign = s.assign) : Answers s o := by
  unfold Answers at *
  rwa [hp, ha] at h

/-! ## Operations that many commands share -/

theorem answers_issue (s : State) (h : Hdr) (reason : Nat) (falls : Bool) (ready : Ready) (body onWait : State → State) :
    Answers s (issue s h reason falls ready body onWait) := by
  obtain ⟨t, ho, hp, ha⟩ := issue_next s h reason falls ready body onWait
  exact ⟨t, ho, hp, ha ▸ .kept⟩

theorem answers_veIssue (s : State) (h : Hdr) (reason : Nat) (o : VecOp) (kind : VeKind) (f : Cluster → VeOut) :
    Answers s (veIssue s h reason o kind f) := answers_issue ..

theorem answers_hostCmd (s : State) (c : HostHdr) (typ : Nat) (needsCourt : Bool) (body : State → State) :
    Answers s (hostCmd s c typ needsCourt body) := by
  unfold hostCmd
  cases accept s c typ needsCourt with
  | dropped => exact answers_turnedAway s
  | aborted => exact answers_effect s _
  | status k => exact answers_effect s _
  | go => exact answers_effect s _

theorem answers_regCommand (s : State) (h : RegHdr) (off : Nat) (body : State → State × Nat) :
    Answers s (regCommand s h off body) := by
  unfold regCommand
  refine .ite (answers_turnedAway s) ?_
  cases regRefused s h off with
  | some f => exact answers_effect s f
  | none => exact answers_effect s _

theorem answers_xferCmd (h : RegHdr) (k : Nat) (s : State) : Answers s (xferCmd h k s) := answers_regCommand ..

theorem answers_resetCommand (s : State) (h : RegHdr) (off : Nat) (body : State → Option State) :
    Answers s (resetCommand s h off body) := by
  unfold resetCommand
  refine .ite (answers_turnedAway s) ?_
  cases regRefused s h off with
  | some f => exact answers_effect s f
  | none =>
    cases body (regReply s h RegStatus.ok off []) with
    | some t => exact answers_effectReset s _
    | none => exact answers_effect s _

theorem answers_endAccess (s : State) (a : Access) (reply : State → State) : Answers s (endAccess s a reply) := by
  unfold endAccess
  cases a.reset with
  | none => exact answers_effect s _
  | some v => exact answers_effectReset s _

theorem answers_requestAccess (s : State) (h : RegHdr) (q : RegReq) : Answers s (requestAccess s h q) :=
  .ite (answers_effect s _) (answers_endAccess s _ _)

theorem answers_sideband (s : State) (write : Bool) (off n : Nat) (data : List Nat) (wellFormed : Bool) (pec : Option Bool) :
    Answers s (sideband s write off n data wellFormed pec) :=
  .ite (answers_turnedAway s) (.ite (answers_effect s _) (.ite (answers_effect s _) (answers_endAccess s _ _)))

theorem answers_wireCmd (s : State) (w : WireHdr) (m : ChesyMsg) (engine : State → WireHdr → ChesyMsg → Taken) :
    Answers s (wireCmd s w m engine) :=
  .ite (answers_effect s _) (.ite (answers_effect s _) (answers_turnedAway s))

theorem answers_huddleCommand (s : State) (w : WireHdr) (m : HuddleMsg) : Answers s (huddleCommand s w m) :=
  .ite (answers_turnedAway s) (answers_wireCmd ..)

theorem answers_ackCmd (s : State) (w : WireHdr) (nak : Bool) (body : State → State) : Answers s (ackCmd s w nak body) :=
  .ite (answers_effect s _) (.ite (answers_effect s _) (answers_turnedAway s))

theorem answers_tapDisrupt (s : State) (i : TapInstr) : Answers s (tapDisrupt s i) :=
  .ite (answers_turnedAway s) (.ite (answers_effect s _) (answers_effect s _))

/-! ## Creating and releasing a court (14_host_port.md R345, R346) -/

theorem answers_courtCreate (c : HostHdr) (mask : W32) (s : State) : Answers s (execCourtCreate c mask s) := by
  unfold execCourtCreate
  simp only
  split
  · refine .ite (answers_effect s _) ?_
    by_cases hfree : regionsFree s mask = true
    · simp only [hfree, Bool.not_true, Bool.false_eq_true, ↓reduceIte]
      refine .ite (answers_effect s _) (answers_effectAssign ?_)
      rw [done, complete_assign, createCourt_assign]
      exact .assigned (by omega) fun i hi => courtRegions_and_of_regionsFree hfree hi
    · simp only [hfree, Bool.not_false, ↓reduceIte]
      exact answers_effect s _
  · exact answers_hostCmd ..

theorem answers_courtRelease (c : HostHdr) (s : State) : Answers s (execCourtRelease c s) := by
  unfold execCourtRelease
  simp only
  split
  · refine .ite (answers_effect s _) (answers_effectAssign ?_)
    rw [done, complete_assign, releaseCourt_assign]
    exact .assigned (by omega) fun i _ => BitVec.and_zero
  · exact answers_hostCmd ..

/-! ## Commands of a shape of their own -/

/-! ### The sequencer and the engines of a region -/

theorem answers_illegalInstruction (region : BitVec 5) (task : Bool) (word : BitVec 128) (s : State) :
    Answers s (execIllegalInstruction region task word s) :=
  .ite (answers_turnedAway s) (answers_issue ..)

theorem answers_benchTaskStart (region : BitVec 5) (s : State) : Answers s (execBenchTaskStart region s) := by
  unfold execBenchTaskStart
  simp only
  split
  · exact answers_turnedAway s
  · exact answers_unless ..

theorem answers_regionStep (region : BitVec 5) (s : State) : Answers s (execRegionStep region s) := by
  unfold execRegionStep
  simp only
  split
  · exact answers_turnedAway s
  · split
    · exact answers_turnedAway s
    · exact answers_unless ..

theorem answers_groupCloseFold (region tile : BitVec 5) (s : State) : Answers s (execGroupCloseFold region tile s) := by
  unfold execGroupCloseFold
  simp only
  split
  · exact answers_turnedAway s
  · exact answers_effect ..

theorem answers_tapDrain (region : BitVec 5) (tap : BitVec 3) (s : State) : Answers s (execTapDrain region tap s) := by
  unfold execTapDrain
  simp only
  split
  · exact answers_turnedAway s
  · exact answers_effect ..

theorem answers_rootRun (region : BitVec 5) (s : State) : Answers s (execRootRun region s) := by
  unfold execRootRun
  simp only
  split
  · exact answers_turnedAway s
  · exact answers_effect ..

theorem answers_rootWaitExpiry (atCaddie : Bool) (index : BitVec 5) (s : State) :
    Answers s (execRootWaitExpiry atCaddie index s) := by
  unfold execRootWaitExpiry
  simp only
  split
  · split
    · exact answers_turnedAway s
    · exact answers_effect ..
  · split
    · exact answers_turnedAway s
    · exact answers_effect ..

/-! ### Sessions and stages -/

theorem answers_sessionOpen (src : NetAddr) (flow : BitVec 28) (device : Bool) (court : BitVec 4) (tag : BitVec 16) (s : State) :
    Answers s (execSessionOpen src flow device court tag s) := by
  unfold execSessionOpen
  refine .ite (answers_turnedAway s) (.ite (answers_effect ..) ?_)
  split
  · exact answers_effect ..
  · exact answers_effect ..

theorem answers_dataWrite (c : HostHdr) (addr : Addr48) (tiles : List WireTile) (s : State) :
    Answers s (execDataWrite c addr tiles s) :=
  .ite (answers_turnedAway s) (.ite (answers_effect ..) (answers_hostCmd ..))

theorem answers_stageDone (court : BitVec 4) (stageId : BitVec 16) (s : State) : Answers s (execStageDone court stageId s) := by
  unfold execStageDone
  split
  · exact answers_turnedAway s
  · exact answers_when ..

/-! ### Registers -/

theorem answers_registerRequest (h : RegHdr) (q : RegReq) (s : State) : Answers s (execRegisterRequest h q s) :=
  .ite (answers_turnedAway s) (.ite (answers_effect ..) (answers_requestAccess ..))

theorem answers_registerWrite (h : RegHdr) (off : BitVec 24) (v : BitVec 32) (s : State) :
    Answers s (execRegisterWrite h off v s) :=
  .ite (answers_resetCommand ..) (.ite (answers_turnedAway s) (answers_regCommand ..))

/-- The TAP's shift moves neither the queue nor the assignment, so the access answers for the state before it. -/
theorem answers_dbgreg (tag : BitVec 16) (q : RegReq) (s : State) : Answers s (execDbgreg tag q s) :=
  .ite (answers_turnedAway s) (.ite (answers_effect ..) ((answers_requestAccess ..).congr rfl rfl))

/-! ### The solver engine and the Scorecard -/

theorem answers_seSubmit (h : RegHdr) (stack : BitVec 5) (tier : Bool) (tile : BitVec 24) (s : State) :
    Answers s (execSeSubmit h stack tier tile s) := .ite (answers_turnedAway s) (answers_regCommand ..)

theorem answers_seJobStart (units : BitVec 32) (s : State) : Answers s (execSeJobStart units s) := by
  unfold execSeJobStart
  split
  · exact answers_turnedAway s
  · exact answers_unless ..

theorem answers_seJobEnd (s : State) : Answers s (execSeJobEnd s) := by
  unfold execSeJobEnd
  split
  · exact answers_turnedAway s
  · split
    · exact answers_turnedAway s
    · exact answers_effect ..

theorem answers_scSaveDone (failed : Bool) (s : State) : Answers s (execScSaveDone failed s) := by
  unfold execScSaveDone
  split
  · exact answers_turnedAway s
  · exact answers_effect ..

theorem answers_snapshotCopyDone (s : State) : Answers s (execSnapshotCopyDone s) := by
  unfold execSnapshotCopyDone
  split
  · exact answers_turnedAway s
  · exact answers_effect ..

/-! ### Caddies, huddles, collectives and the fabric -/

theorem answers_gradientPart (g : GradPart) (s : State) : Answers s (execGradientPart g s) :=
  .ite (answers_turnedAway s) (.ite (answers_effect ..) (answers_unless ..))

theorem answers_stagedPartApply (stack : BitVec 5) (s : State) : Answers s (execStagedPartApply stack s) := by
  unfold execStagedPartApply
  simp only
  split
  · exact answers_turnedAway s
  · exact answers_effect ..

theorem answers_caddieCommit (stack : BitVec 5) (s : State) : Answers s (execCaddieCommit stack s) := by
  unfold execCaddieCommit
  simp only
  split
  · exact answers_when ..
  · exact answers_turnedAway s

theorem answers_packageArrive (gid : BitVec 16) (num : BitVec 48) (s : State) : Answers s (execPackageArrive gid num s) := by
  unfold execPackageArrive
  split
  · exact answers_turnedAway s
  · exact answers_when ..

theorem answers_huddleTimeout (gid : BitVec 16) (num : BitVec 48) (s : State) : Answers s (execHuddleTimeout gid num s) := by
  unfold execHuddleTimeout
  split
  · exact answers_turnedAway s
  · split
    · exact answers_turnedAway s
    · exact answers_when ..

theorem answers_huddleOrphan (gid : BitVec 16) (num : BitVec 48) (s : State) : Answers s (execHuddleOrphan gid num s) := by
  unfold execHuddleOrphan
  simp only
  split
  · exact answers_turnedAway s
  · split
    · exact answers_turnedAway s
    · exact answers_when ..

theorem answers_collectiveRunEnd (entry : BitVec 10) (s : State) : Answers s (execCollectiveRunEnd entry s) := by
  unfold execCollectiveRunEnd
  split
  · exact answers_turnedAway s
  · exact .ite (answers_effect ..) (answers_unless ..)

theorem answers_retransmitTimeout (dev : BitVec 16) (flow : W32) (s : State) : Answers s (execRetransmitTimeout dev flow s) := by
  unfold execRetransmitTimeout
  simp only
  split
  · exact answers_when ..
  · exact answers_when ..

theorem answers_linkDown (q : BitVec 5) (s : State) : Answers s (execLinkDown q s) :=
  .ite (answers_effect ..) (answers_when ..)

theorem answers_linkUp (q : BitVec 5) (s : State) : Answers s (execLinkUp q s) :=
  .ite (answers_effect ..) (answers_when ..)

/-! ### Stacks and Umpires -/

theorem answers_channelRetire (stack : BitVec 5) (deep : Bool) (channel : BitVec 5) (s : State) :
    Answers s (execChannelRetire stack deep channel s) := by
  unfold execChannelRetire
  refine .ite (answers_turnedAway s) ?_
  split
  · exact answers_effect ..
  · exact answers_turnedAway s

theorem answers_umpireVote (v : Vote) (s : State) : Answers s (execUmpireVote v s) := by
  cases v with
  | umpire o => exact answers_when ..
  | engine e row => exact answers_unless ..

theorem answers_strikeExpiry (k : StrikeSite) (s : State) : Answers s (execStrikeExpiry k s) := by
  cases k with
  | umpire r i => exact answers_unless ..
  | engineRow e row => exact answers_unless ..

theorem answers_clusterTakeover (region : BitVec 5) (s : State) : Answers s (execClusterTakeover region s) := by
  unfold execClusterTakeover
  simp only
  split
  · exact answers_turnedAway s
  · exact answers_unless ..

theorem answers_probationJobEnd (region : BitVec 5) (rows : BitVec 32) (mismatch : Bool) (s : State) :
    Answers s (execProbationJobEnd region rows mismatch s) := by
  unfold execProbationJobEnd
  simp only
  split
  · exact answers_turnedAway s
  · exact answers_unless ..

/-! ### Clocks, rails and firmware -/

theorem answers_refclkLoss (clock : BitVec 3) (s : State) : Answers s (execRefclkLoss clock s) := by
  unfold execRefclkLoss
  split
  · exact answers_when ..
  · exact answers_when ..
  · exact answers_effect ..

theorem answers_pwrgoodDeassert (s : State) : Answers s (execPwrgoodDeassert s) :=
  .ite (answers_turnedAway s) (.ite (answers_effect ..) (answers_effectReset ..))

theorem answers_flashXferDone (s : State) : Answers s (execFlashXferDone s) := by
  unfold execFlashXferDone
  split
  · exact .ite (answers_turnedAway s) (.ite (answers_effect ..) (answers_when ..))
  · exact answers_turnedAway s

theorem answers_attestDone (s : State) : Answers s (execAttestDone s) := by
  unfold execAttestDone
  split
  · exact answers_turnedAway s
  · exact answers_effect ..

/-! ## Every command -/

/-- Every command answers a next state with the queue as it was, and moves the court assignment as `CourtMove` allows: the
table of the commands by the shape of their meaning. -/
theorem exec_answers (c : Instr) (s : State) : Answers s (exec c s) := by
  cases c with
  | nop | setA | addA | setCount | loop | jump | waitStep | halt | taskEnd => unfold exec; exact answers_issue ..
  | matrix | preload | accjoin | egress | tileRead | tapArm | tapClose | rootRequest | weightLoad | fetch | moveStore
  | joinSend | send | receive | moveCopy | rootFetch | offload | valveRestore | markRecompute | enqueue | fence | arrive
  | huddleWait | arriveAndWait =>
    delta exec execMatrix execPreload execAccjoin execEgress execTileRead execTapArm execTapClose execRootRequest execWeightLoad
      execFetch execMoveStore execJoinSend execSend execReceive execMoveCopy execRootFetch execOffload execValveRestore
      execMarkRecompute execEnqueue execFence execArrive execHuddleWait execArriveAndWait
    exact answers_issue ..
  | veAdd | veSub | veMul | veMin | veMax | veFma | veNeg | veAbs | veCopy | veDiv | veSqrt | veRsqrt | veExp2 | veLog2
  | veCompareEq | veCompareNe | veCompareLt | veCompareLe | veCompareGt | veCompareGe | maskAnd | maskOr | maskXor | maskNot
  | veLoad | veStore | reduceSum | reduceMax | reduceMin | randomRaw | randomUniform | dropout | seed | broadcast
    => unfold exec; exact answers_veIssue ..
  | convert =>
    delta exec execConvert
    exact answers_veIssue ..
  | waitStepComplete | valveMigrate | substituteSwitchIn | stageDeadline | sessionClose | quiesceDone | caddieReady
  | readyTimeout | digestPass | parityRebuild | relayStaged | ackTimer | neighbourFrame | pfcFrame | laneFecWindow
  | laneSignalLoss | laneRetry | laneProbationEnd | umpireLocalise | seDeadline | droopRelease | droopSustained | thermalSample
  | packageStart | regulatorStartTimeout | activationWindowTimeout | idcode | bypass | samplePreload => exact answers_when ..
  | tileRetry | scrubTile | cwndUpdate | rateTokenTick | droopEngage | stackDroop | auxPowerOn | pwrgoodAssert
  | strikeWindowExpiry | vcoreRampEnd | regionBlockFailure | trstNChange | holdupOkChange | v1p8InTolerance
    => exact answers_unless ..
  | linkFatal | powerControlPeriod | thermalCeilingTick | railFault => unfold exec; exact answers_effect ..
  | stageStart | step | stepRedo | quiesce | resume | abortCourt | abortCommand => unfold exec; exact answers_hostCmd ..
  | regionResume =>
    delta exec execRegionResume
    exact answers_hostCmd ..
  | dataRead | save | restore =>
    delta exec execDataRead execSave execRestore
    exact .ite (answers_turnedAway s) (answers_hostCmd ..)
  | pageQuiesceWrite | pageEnableWrite | pageLockSet | nanTrapRearm | stkRangeSelect | stkRangeApply | stkRetireCmd | pkgReturn
  | caddieCmdDiscard | caddieCmdDigest | caddieCmdAuthority | caddiePtCountWrite | huddleDeclareComplete | huddleDeclareFail
  | ceHgLoad | cePlanLoad | relayArm | relayCopyRestart | chesyReopen | clearDup | umpReturnProbation | umpRetire | seCancel
  | scLoadIndex | scLoadNext | scLoadKey | scClearRecord | scClearAll | scSave | ctrFreeze | ctrUnfreeze | ctrSnapshotReturn
  | ctrSnapshotHold | ctrClear | ctrArm | vcoreModeWrite | paceModeWrite | fwConfirm | fwCancelArm | activationArm | attest
  | sbAlertClear => unfold exec; exact answers_regCommand ..
  | pcntSelWrite =>
    delta exec execPcntSelWrite
    exact answers_regCommand ..
  | flashBeginFirmware | flashBeginSettings | flashChunk | flashVerify | flashAbandon => unfold exec; exact answers_xferCmd ..
  | accDiscard | veReseed | flagTrapRearm =>
    delta exec execAccDiscard execVeReseed execFlagTrapRearm
    exact .ite (answers_regCommand ..) (answers_turnedAway s)
  | caddieTransfer | huddleComplete | collectiveData | relayTiles | passBufferEntry => unfold exec; exact answers_wireCmd ..
  | huddleArriveMsg | huddleFail => unfold exec; exact answers_huddleCommand ..
  | ack | nak | credit => unfold exec; exact answers_ackCmd ..
  | fwInstall | fwReset => unfold exec; exact answers_resetCommand ..
  | vin12Undervoltage | resetNAssert | watchdogReset | activationRestart | v3p3AuxRemoved
    => exact .ite (answers_effectReset ..) (answers_turnedAway s)
  | sidebandWrite | sidebandRead => unfold exec; exact answers_sideband ..
  | extest | extestPulse | extestTrain | clamp | highz => unfold exec; exact answers_tapDisrupt ..
  | illegalInstruction => exact answers_illegalInstruction ..
  | registerWrite => exact answers_registerWrite ..
  | seSubmit => exact answers_seSubmit ..
  | regionStep => exact answers_regionStep ..
  | groupCloseFold => exact answers_groupCloseFold ..
  | tapDrain => exact answers_tapDrain ..
  | rootRun => exact answers_rootRun ..
  | benchTaskStart => exact answers_benchTaskStart ..
  | stageDone => exact answers_stageDone ..
  | courtCreate => exact answers_courtCreate ..
  | courtRelease => exact answers_courtRelease ..
  | stagedPartApply => exact answers_stagedPartApply ..
  | caddieCommit => exact answers_caddieCommit ..
  | packageArrive => exact answers_packageArrive ..
  | huddleTimeout => exact answers_huddleTimeout ..
  | huddleOrphan => exact answers_huddleOrphan ..
  | collectiveRunEnd => exact answers_collectiveRunEnd ..
  | retransmitTimeout => exact answers_retransmitTimeout ..
  | umpireVote => exact answers_umpireVote ..
  | strikeExpiry => exact answers_strikeExpiry ..
  | clusterTakeover => exact answers_clusterTakeover ..
  | probationJobEnd => exact answers_probationJobEnd ..
  | seJobStart => exact answers_seJobStart ..
  | seJobEnd => exact answers_seJobEnd ..
  | refclkLoss => exact answers_refclkLoss ..
  | attestDone => exact answers_attestDone ..
  | flashXferDone => exact answers_flashXferDone ..
  | scSaveDone => exact answers_scSaveDone ..
  | snapshotCopyDone => exact answers_snapshotCopyDone ..
  | rootWaitExpiry => exact answers_rootWaitExpiry ..
  | sessionOpen => exact answers_sessionOpen ..
  | dataWrite => exact answers_dataWrite ..
  | registerRequest => exact answers_registerRequest ..
  | pwrgoodDeassert => exact answers_pwrgoodDeassert ..
  | dbgreg => exact answers_dbgreg ..
  | channelRetire => exact answers_channelRetire ..
  | gradientPart => exact answers_gradientPart ..
  | linkDown => exact answers_linkDown ..
  | linkUp => exact answers_linkUp ..

/-- A step moves the court assignment as its command does; a tick keeps it. -/
theorem step_courtMove (s : State) : ∃ t, step s = .next t ∧ CourtMove s.assign t.assign := by
  unfold step
  split
  · exact ⟨_, rfl, .kept⟩
  · obtain ⟨t, ht, -, hmove⟩ := exec_answers _ _
    exact ⟨t, ht, hmove⟩

/-- Settles O2, by the table of the commands. -/
theorem everyCommandAnswersNext : Obligations.EveryCommandAnswersNext := by
  intro c s
  obtain ⟨t, ht, hp, -⟩ := exec_answers c s
  exact ⟨t, ht, hp⟩

/-- Settles O4: a step keeps the court assignment, clears it, or gives one court regions that no court holds. -/
theorem stepKeepsCourtsDisjoint : Obligations.StepKeepsCourtsDisjoint := by
  intro s t hs hstep
  rw [courtsDisjoint_iff] at *
  obtain ⟨t', ht', hmove⟩ := step_courtMove s
  obtain rfl : t' = t := by simpa [ht'] using hstep
  exact hmove.keeps_disjoint hs

end Sys2Proof.Proofs
end

section
/-! PROOFS. The step itself (95_what_each_step_holds.md) and the state at reset (Tables 10.8, 11.8, 15.10, 16.8, 17.9, 18.7). -/

namespace Sys2Proof.Proofs

open Sys2Proof Sys2Proof.Machine Sys2Proof.Laws

/-! ## An idle step -/

/-- A state that meets every hypothesis of the idle clause and whose region map lists a region that is as an unlisted one: the map
is not canonical, and nothing in the clause asks that it be. -/
def idleListed : State := { State.reset with regions := [(0, .init)] }

/-- The tick settles the root fetches of every listed region and so writes the region back, which drops the entry. -/
theorem tick_idleListed_regions : (tick idleListed).regions = [] := by decide

/-- Refutes O1: the idle clause says that only registers differ after the tick. From `idleListed` the tick also takes the region's
entry out of the region map, because setting a key removes an entry at its default. -/
theorem not_stepRunsFrontCommand : ¬ Obligations.StepRunsFrontCommand := by
  rintro ⟨-, hidle⟩
  obtain ⟨t, ht, -, hframe, -⟩ := hidle idleListed rfl rfl rfl (by decide)
  have hregions : t.regions = [] := by
    obtain rfl : _ = t := Host.Outcome.next.inj ht
    exact tick_idleListed_regions
  have hkept : t.regions = [(0, .init)] := by rw [hframe]; rfl
  simp [hregions] at hkept

/-! ## The state at reset -/

theorem courtsDisjoint_reset : CourtsDisjoint State.reset := assignDisjoint_nil

theorem mapsCanonical_reset : MapsCanonical State.reset := ⟨rfl, fun _ => rfl, rfl, rfl, fun _ => rfl⟩

/-- A table of fields and values holds at reset where each of its entries does. -/
theorem fld_reset_of_table {l : List (Nat × Fld × Nat)} (h : ∀ e ∈ l, State.reset.fld e.1 e.2.1 = e.2.2) :
    ∀ p f v, (p, f, v) ∈ l → State.reset.fld p f = v := fun _ _ _ he => h _ he

/-- Settles O3: nothing is assigned, waits or runs, and each register named is at the reset value of its page map. -/
theorem resetState : Obligations.ResetState :=
  ⟨courtsDisjoint_reset, mapsCanonical_reset, fun _ => rfl, rfl, rfl, fun _ => rfl, fld_reset_of_table (by decide), by decide⟩

end Sys2Proof.Proofs
end

section
/-! PROOFS. The fields of a register have their bits apart, and a word written over them leaves in each what its access code says
(02_register_pages.md R44; 00_scope.md Table 0.4). -/

namespace Sys2Proof.Proofs

open Sys2Proof Sys2Proof.Machine Sys2Proof.Laws

/-! ## Fields of a register -/

/-- The bits of two fields of one register are apart. -/
def bitsApart (f g : Fld) : Bool := decide (f.hi < g.lo) || decide (g.hi < f.lo)

/-- Two fields share no bit of any register: their bits are apart, or the runs of registers they lie in are, or the two runs go
in equal strides from different places. -/
def fieldsApart (f g : Fld) : Bool :=
  bitsApart f g || decide (f.off + (f.cnt - 1) * f.stride < g.off) || decide (g.off + (g.cnt - 1) * g.stride < f.off)
    || (f.stride == g.stride && f.off % f.stride != g.off % f.stride)

theorem fields_apart (b : Block) : b.fields.Pairwise fun f g => fieldsApart f g = true := by
  cases b <;> decide

theorem fields_in_word (b : Block) : ∀ f ∈ b.fields, f.lo ≤ f.hi ∧ f.hi < 32 := by
  cases b <;> decide

/-- A register a field covers is one of its copies. -/
theorem covers_iff (f : Fld) (o : Nat) : f.covers o = true ↔ f.off ≤ o ∧ (o - f.off) % f.stride = 0 ∧ (o - f.off) / f.stride < f.cnt := by
  simp [Fld.covers, and_assoc]

theorem covers_place {f : Fld} {o : Nat} (h : f.covers o = true) :
    f.off ≤ o ∧ o ≤ f.off + (f.cnt - 1) * f.stride ∧ o % f.stride = f.off % f.stride := by
  obtain ⟨h1, h2, h3⟩ := (covers_iff f o).1 h
  have e : o = f.off + f.stride * ((o - f.off) / f.stride) := by
    have := Nat.div_add_mod (o - f.off) f.stride
    omega
  refine ⟨h1, ?_, ?_⟩
  · have := Nat.mul_le_mul_left f.stride (show (o - f.off) / f.stride ≤ f.cnt - 1 by omega)
    rw [Nat.mul_comm (f.cnt - 1)]
    omega
  · rw [e, Nat.add_mul_mod_self_left]

theorem bitsApart_of_covers {f g : Fld} {o : Nat} (h : fieldsApart f g = true) (hf : f.covers o = true) (hg : g.covers o = true) :
    bitsApart f g = true := by
  obtain ⟨hf1, hf2, hf3⟩ := covers_place hf
  obtain ⟨hg1, hg2, hg3⟩ := covers_place hg
  simp only [fieldsApart, Bool.or_eq_true, decide_eq_true_eq, Bool.and_eq_true, beq_iff_eq, bne_iff_ne] at h
  rcases h with ((h | h) | h) | ⟨hs, h⟩
  · exact h
  · omega
  · omega
  · rw [← hs] at hg3
    exact absurd (hf3.symm.trans hg3) h

theorem mem_fieldsAt {b : Block} {o : Nat} {f : Fld} : f ∈ fieldsAt b o ↔ f ∈ b.fields ∧ f.covers o = true := List.mem_filter

theorem fieldsAt_apart (b : Block) (o : Nat) : (fieldsAt b o).Pairwise fun f g => bitsApart f g = true :=
  ((fields_apart b).filter _).imp_of_mem fun hf hg h => bitsApart_of_covers h (mem_fieldsAt.1 hf).2 (mem_fieldsAt.1 hg).2

/-! ## A word written over a register's fields -/

theorem bits_lt (n hi lo : Nat) : bits n hi lo < 2 ^ (hi + 1 - lo) := Nat.mod_lt _ (Nat.two_pow_pos _)

/-- What an access code leaves in a field fits the field. -/
theorem fieldAfter_lt (f : Fld) (k : Bool) (old v : Nat) : fieldAfter f k old v < 2 ^ (f.hi + 1 - f.lo) := by
  have hold := bits_lt old f.hi f.lo
  have hv := bits_lt v f.hi f.lo
  unfold fieldAfter
  cases f.acc with
  | w1s => exact Nat.or_lt_two_pow hold hv
  | rwl => cases k <;> simpa
  | wo => exact Nat.two_pow_pos _
  | _ => simp only; omega

/-- The fields of a list put into a word one after another. -/
def patchFields (g : Fld → Nat) (fs : List Fld) (n : Nat) : Nat := fs.foldl (fun n f => patch n f.hi f.lo (g f)) n

theorem wordAfter_eq_patchFields (fs : List Fld) (k : Bool) (old v : Nat) :
    wordAfter fs k old v = patchFields (fun f => fieldAfter f k old v) fs old := by
  unfold wordAfter patchFields
  congr 1
  funext n f
  rw [patch, Nat.mod_eq_of_lt (fieldAfter_lt ..)]

theorem bits_patch_of_apart {f g : Fld} (hf : f.lo ≤ f.hi) (hg : g.lo ≤ g.hi) (h : bitsApart f g = true) (n v : Nat) :
    bits (patch n f.hi f.lo v) g.hi g.lo = bits n g.hi g.lo := by
  simp only [bitsApart, Bool.or_eq_true, decide_eq_true_eq] at h
  rcases h with h | h
  · exact bits_patch_above _ _ _ _ _ _ hf h
  · exact bits_patch_below _ _ _ _ _ _ hf h hg

theorem bits_patchFields_of_apart {g : Fld → Nat} {fs : List Fld} {f : Fld} (hfs : ∀ x ∈ fs, x.lo ≤ x.hi) (hf : f.lo ≤ f.hi)
    (h : ∀ x ∈ fs, bitsApart x f = true) (n : Nat) : bits (patchFields g fs n) f.hi f.lo = bits n f.hi f.lo := by
  induction fs generalizing n with
  | nil => rfl
  | cons x xs ih =>
    obtain ⟨hx, hxs⟩ := List.forall_mem_cons.1 hfs
    obtain ⟨hxf, hxsf⟩ := List.forall_mem_cons.1 h
    exact (ih hxs hxsf _).trans (bits_patch_of_apart hx hf hxf _ _)

/-- Fields with bits apart hold what was put into each. -/
theorem bits_patchFields {g : Fld → Nat} {fs : List Fld} (hfs : ∀ x ∈ fs, x.lo ≤ x.hi)
    (h : fs.Pairwise fun x y => bitsApart x y = true) {f : Fld} (hf : f ∈ fs) (n : Nat) :
    bits (patchFields g fs n) f.hi f.lo = g f % 2 ^ (f.hi + 1 - f.lo) := by
  induction fs generalizing n with
  | nil => cases hf
  | cons x xs ih =>
    obtain ⟨hx, hxs⟩ := List.forall_mem_cons.1 hfs
    obtain ⟨hxa, hxsa⟩ := List.pairwise_cons.1 h
    rcases List.mem_cons.1 hf with rfl | hf
    · have hsym : ∀ y ∈ xs, bitsApart y f = true := fun y hy => by
        simpa [bitsApart, or_comm] using hxa y hy
      exact (bits_patchFields_of_apart hxs hx hsym _).trans (bits_patch_self _ _ _ _ hx)
    · exact ih hxs hxsa hf _

theorem patchFields_lt {g : Fld → Nat} {fs : List Fld} {k : Nat} (hfs : ∀ x ∈ fs, x.lo ≤ x.hi ∧ x.hi < k) {n : Nat} (hn : n < 2 ^ k) :
    patchFields g fs n < 2 ^ k := by
  induction fs generalizing n with
  | nil => exact hn
  | cons x xs ih =>
    obtain ⟨⟨hx, hxk⟩, hxs⟩ := List.forall_mem_cons.1 hfs
    exact ih hxs (patch_lt _ _ _ _ _ hx hxk hn)

/-- A written register holds in each of its fields what the access code gives (Table 0.4). -/
theorem bits_wordAfter {b : Block} {o : Nat} {f : Fld} (hf : f ∈ fieldsAt b o) (k : Bool) (old : W32) (v : Nat) :
    bits (BitVec.ofNat 32 (wordAfter (fieldsAt b o) k old.toNat v)).toNat f.hi f.lo = fieldAfter f k old.toNat v := by
  have hw : ∀ x ∈ fieldsAt b o, x.lo ≤ x.hi ∧ x.hi < 32 := fun x hx => fields_in_word b x (mem_fieldsAt.1 hx).1
  rw [wordAfter_eq_patchFields, BitVec.toNat_ofNat, Nat.mod_eq_of_lt (patchFields_lt hw old.isLt),
    bits_patchFields (fun x hx => (hw x hx).1) (fieldsAt_apart b o) hf, Nat.mod_eq_of_lt (fieldAfter_lt ..)]

end Sys2Proof.Proofs
end

section
/-! PROOFS. The write of one register: what an accepted command answers, and what a plain write does (02_register_pages.md R44, R52, R57). -/

namespace Sys2Proof.Proofs

open Sys2Proof Sys2Proof.Machine Sys2Proof.Laws

/-! ## Replies -/

@[simp] theorem regReply_pending (s : State) (h : RegHdr) (st o : Nat) (d : List Nat) : (regReply s h st o d).pending = s.pending := by
  unfold regReply; cases h.path <;> rfl
@[simp] theorem regReply_assign (s : State) (h : RegHdr) (st o : Nat) (d : List Nat) : (regReply s h st o d).assign = s.assign := by
  unfold regReply; cases h.path <;> rfl

/-- The reply of a performed access names no offset. -/
theorem regReply_ok (s : State) (h : RegHdr) (o o' : Nat) (d : List Nat) :
    regReply s h RegStatus.ok o d = regReply s h RegStatus.ok o' d := by
  unfold regReply; cases h.path <;> rfl

/-- A reply is the outcome where the state it is sent from keeps the queue and the assignment. -/
theorem effect_regReply {s t : State} {f : State → State} {h : RegHdr} {st o : Nat} {d : List Nat} (hf : f s = regReply t h st o d)
    (hp : t.pending = s.pending) (ha : t.assign = s.assign) : effect s f = .next (regReply t h st o d) := by
  rw [← hf]
  exact effect_keeps (by rw [hf, regReply_pending, hp]) (by rw [hf, regReply_assign, ha])

theorem regRefused_eq_none_iff (s : State) (h : RegHdr) (o : Nat) :
    regRefused s h o = none ↔ spAdmits s h.path = true ∧ writeCheck s h.path o = none := by
  unfold regRefused
  cases spAdmits s h.path <;> cases writeCheck s h.path o <;> simp

theorem accepted_iff (s : State) (h : RegHdr) (o : Nat) :
    Accepted s h o ↔ pathUp s h.path = true ∧ spAdmits s h.path = true ∧ writeCheck s h.path o = none := by
  rw [Accepted, regRefused_eq_none_iff]

/-- A register that may be written is aligned and its page mapped. -/
theorem writeCheck_none {s : State} {p : RegPath} {o : Nat} (h : writeCheck s p o = none) : o % 4 = 0 ∧ mapped s o = true := by
  unfold writeCheck at h
  split at h
  · cases h
  · split at h
    · cases h
    · simp_all

/-- An accepted command is its register's action and the reply with its status. -/
theorem regCommand_of_accepted {s t : State} {h : RegHdr} {o st : Nat} {body : State → State × Nat} (ha : Accepted s h o)
    (hb : body s = (t, st)) (hp : t.pending = s.pending) (hq : t.assign = s.assign) :
    regCommand s h o body = .next (regReply t h st o []) := by
  obtain ⟨hup, hok⟩ := ha
  unfold regCommand
  simp only [hok, hup, Bool.not_true, Bool.false_eq_true, ↓reduceIte]
  refine effect_regReply ?_ hp hq
  simp only [hb]

/-! ## Pages -/

theorem inPage_self (o : Nat) : InPage (o / 0x1000 * 0x1000) o := ⟨by omega, by omega⟩

theorem page_of_inPage {p k o : Nat} (hp : p = k * 0x1000) (h : InPage p o) : o / 0x1000 = k := by
  obtain ⟨h1, h2⟩ := h
  omega

theorem pageAt_of_page {o o' : Nat} (h : o / 0x1000 = o' / 0x1000) : pageAt o = pageAt o' := by
  have hge : o ≥ 0x1000000 ↔ o' ≥ 0x1000000 := by constructor <;> intro <;> omega
  unfold pageAt
  simp only [h, hge]

theorem pageAt_sc {o : Nat} (h : InPage Page.sc o) : pageAt o = some (.sc, 0) :=
  (pageAt_of_page (page_of_inPage (k := 6) rfl h)).trans (rfl : pageAt Page.sc = some (.sc, 0))

theorem pageAt_sb {o : Nat} (h : InPage Page.sb o) : pageAt o = some (.sb, 0) :=
  (pageAt_of_page (page_of_inPage (k := 5) rfl h)).trans (rfl : pageAt Page.sb = some (.sb, 0))

/-- Where a page lies, for the two blocks whose plain writes reach further registers of their page (Table 2.1). -/
theorem page_of_pageAt {o i : Nat} {b : Block} (h : pageAt o = some (b, i)) :
    (b = .sns → o / 0x1000 = 4) ∧ (b = .ve → o / 0x1000 = 0x700 + i) := by
  unfold pageAt at h
  by_cases hlow : o / 0x1000 < 0x100
  · have hge : ¬ o ≥ 0x1000000 := by omega
    simp only [if_pos hlow, if_neg hge] at h
    split at h
    case h_15 =>
      split at h
      · cases h
        simp only [reduceCtorEq, false_implies, and_self]
      · split at h
        · cases h
          simp only [reduceCtorEq, false_implies, and_self]
        · cases h
    all_goals
      cases h
      simp [*]
  · simp only [if_neg hlow] at h
    repeat' split at h
    all_goals cases h
    all_goals simp only [reduceCtorEq, false_implies, true_and, true_implies, and_self]
    omega

/-! ## A plain write (R44, R57, Table 0.4) -/

/-- A state that differs from another only in its power reports and in registers, at no offset outside P. -/
def Powered (P : Nat → Prop) (s t : State) : Prop :=
  t = { s with regs := t.regs, power := t.power } ∧ ∀ o, ¬ P o → t.reg o = s.reg o

namespace Powered

variable {P Q : Nat → Prop} {s t u : State}

theorem refl (P : Nat → Prop) (s : State) : Powered P s s := ⟨rfl, fun _ _ => rfl⟩

theorem trans (h : Powered P s t) (k : Powered P t u) : Powered P s u := by
  refine ⟨k.1.trans ?_, fun o ho => (k.2 o ho).trans (h.2 o ho)⟩
  rw [h.1]

theorem mono (h : Powered P s t) (hq : ∀ o, P o → Q o) : Powered Q s t := ⟨h.1, fun o ho => h.2 o fun x => ho (hq o x)⟩

theorem setReg (s : State) {o : Nat} (v : W32) (h : P o) : Powered P s (s.setReg o v) :=
  ⟨rfl, fun _ hx => reg_setReg_ne s v fun e => hx (e ▸ h)⟩

theorem setFld (s : State) {p : Nat} {f : Fld} (v i : Nat) (h : P (p + f.off + i * f.stride)) : Powered P s (s.setFld p f v i) :=
  setReg s _ h

theorem setPower (s : State) (f : Power → Power) : Powered P s (setPower s f) := ⟨rfl, fun _ _ => rfl⟩

theorem forEach {α : Type} (xs : List α) (s : State) (f : State → α → State) (h : ∀ s a, a ∈ xs → Powered P s (f s a)) :
    Powered P s (Machine.forEach xs s f) := by
  unfold Machine.forEach
  induction xs generalizing s with
  | nil => exact refl P s
  | cons a t ih => exact (h s a (by simp)).trans (ih _ fun s b hb => h s b (by simp [hb]))

end Powered

/-- What the power report writes: the SNS page but for the droop controls. -/
def PowerRegs (o : Nat) : Prop := InPage Page.sns o ∧ o ≠ Page.sns + 0x58

theorem powerRegs_add {k : Nat} (h : k < 0x1000) (hk : k ≠ 0x58) : PowerRegs (Page.sns + k) := ⟨⟨by omega, by omega⟩, by omega⟩

theorem powered_showMv {s : State} {d : Nat} (hd : d < 4) : Powered PowerRegs s (showMv s d) := by
  have hreg : PowerRegs (Page.sns + F.SNS_VCORE_effective_mv.off + d * F.SNS_VCORE_effective_mv.stride) := by
    rw [Nat.add_assoc]
    exact powerRegs_add (by simp [F.SNS_VCORE_effective_mv]; omega) (by simp [F.SNS_VCORE_effective_mv]; omega)
  unfold showMv
  simp only
  split
  · exact .refl _ _
  · exact (Powered.setFld _ _ _ hreg).trans (.setPower _ _)

theorem powered_showPace {s : State} {r : Nat} (hr : r < 32) : Powered PowerRegs s (showPace s r) := by
  have hreg : PowerRegs (Page.sns + 0x200 + r * 4) := by
    rw [Nat.add_assoc]
    exact powerRegs_add (by omega) (by omega)
  exact (Powered.setFld _ _ _ hreg).trans (.setFld _ _ _ hreg)

theorem powered_showPower (s : State) : Powered PowerRegs s (showPower s) := by
  unfold showPower
  exact ((((Powered.forEach _ _ _ fun _ _ h => powered_showMv (List.mem_range.1 h)).trans
    (.forEach _ _ _ fun _ _ h => powered_showPace (List.mem_range.1 h))).trans
    (.setFld _ _ _ (powerRegs_add (by decide) (by decide)))).trans
    (.setFld _ _ _ (powerRegs_add (by decide) (by decide)))).trans (.setFld _ _ _ (powerRegs_add (by decide) (by decide)))

/-- What follows a plain write stays in the page, and leaves the register written but where the power report may show in it. -/
theorem powered_afterWrite {s s' : State} {o i : Nat} {b : Block} {fs : List Fld} (h : PlainAt s o b fs) (hp : pageAt o = some (b, i)) :
    Powered (fun x => InPage (o / 0x1000 * 0x1000) x ∧ (b ≠ .sns ∨ o % 0x1000 = 0x58 → x ≠ o)) s'
      (afterWrite s' b i (o % 0x1000)) := by
  obtain ⟨-, -, hblock, -, -, -, -, -, hcaddie⟩ := h
  obtain ⟨hsns, hve⟩ := page_of_pageAt hp
  unfold afterWrite
  cases b with
  | sns =>
    refine (powered_showPower s').mono fun x hx => ⟨?_, ?_⟩
    · rw [hsns rfl]; exact hx.1
    · rintro (hb | ho) rfl
      · exact hb rfl
      · refine hx.2 ?_
        have := hsns rfl
        show x = 4 * 0x1000 + 0x58
        omega
  | ve =>
    simp only
    split
    · refine .setFld _ _ _ ?_
      have := hve rfl
      show InPage _ (0x700000 + i * 0x1000 + 0x14) ∧ (_ → 0x700000 + i * 0x1000 + 0x14 ≠ o)
      exact ⟨⟨by omega, by omega⟩, fun _ => by omega⟩
    · exact .refl _ _
  | caddie =>
    obtain ⟨h40, h70, h74⟩ := hcaddie rfl
    simp only [h40, h70, h74, or_self, ↓reduceIte]
    exact .refl _ _
  | _ => exact .refl _ _

theorem fields_of_plainAt {s : State} {o : Nat} {b : Block} {fs : List Fld} (h : PlainAt s o b fs) : fs = fieldsAt b (o % 0x1000) := by
  obtain ⟨i, -, -, -, -, -, hfs, -⟩ := h
  exact hfs

/-- The write of a plain register: the word its access codes give, what follows it, and OK. -/
theorem writeReg_plain {s : State} {o : Nat} {b : Block} {fs : List Fld} (h : PlainAt s o b fs) (p : RegPath) (v time : Nat)
    (hl : lockHit fs (pageLocked s (o / 0x1000 * 0x1000)) (s.reg o).toNat v = false) :
    ∃ i, pageAt o = some (b, i) ∧ writeReg s p o v time =
      (afterWrite (s.setReg o (BitVec.ofNat 32 (wordAfter fs (pageLocked s (o / 0x1000 * 0x1000)) (s.reg o).toNat v))) b i (o % 0x1000),
        RegStatus.ok) := by
  obtain ⟨i, hp, hblock, hbusy, haction, hcounter, rfl, hne, -⟩ := h
  refine ⟨i, hp, ?_⟩
  have hfields : fieldsAt b (o % 0x1000) = [] → False := hne
  have hplace : o / 0x1000 * 0x1000 + o % 0x1000 = o := Nat.div_add_mod' o 0x1000
  unfold writeReg
  simp only [hp, if_neg (Nat.not_lt.2 hblock)]
  unfold blockWrite
  simp only [hbusy, haction, hcounter, Bool.false_eq_true, ↓reduceIte, plainWrite, hplace, hl]

/-- The SNS registers with RW fields that a plain write reaches: the droop controls alone (Table 18.7). -/
theorem sns_rw_places : ∀ f ∈ Block.sns.fields, f.acc = .rw →
    (f.off = 0x58 ∧ f.cnt = 1 ∨ f.off = 0x70 ∧ f.cnt = 4 ∨ f.off = 0x200 ∧ f.cnt = 32) ∧ f.stride = 4 := by decide

theorem sns_rw_plain {s : State} {o : Nat} {fs : List Fld} {f : Fld} (h : PlainAt s o .sns fs) (hf : f ∈ fs) (hrw : f.acc = .rw) :
    o % 0x1000 = 0x58 := by
  obtain ⟨i, -, -, -, haction, -, rfl, -, -⟩ := h
  obtain ⟨hmem, hcovers⟩ := mem_fieldsAt.1 hf
  obtain ⟨hplace, hstride⟩ := sns_rw_places f hmem hrw
  obtain ⟨hlo, hhi, -⟩ := covers_place hcovers
  have hact := haction 0 0
  simp only [actionWrite] at hact
  split at hact
  · cases hact
  · split at hact
    · cases hact
    · rcases hplace with ⟨h1, h2⟩ | ⟨h1, h2⟩ | ⟨h1, h2⟩ <;> simp only [h1, h2, hstride] at hlo hhi <;> omega

/-- A plain write: each field takes what its access code says, and nothing outside the page differs but the power report. -/
theorem writeReg_plain_spec {s : State} {o : Nat} {b : Block} {fs : List Fld} (h : PlainAt s o b fs) (p : RegPath) (v time : Nat)
    (hl : lockHit fs (pageLocked s (o / 0x1000 * 0x1000)) (s.reg o).toNat v = false) :
    ∃ t, writeReg s p o v time = (t, RegStatus.ok) ∧
      (b ≠ .sns → ∀ f ∈ fs, bits (t.reg o).toNat f.hi f.lo = fieldAfter f (pageLocked s (o / 0x1000 * 0x1000)) (s.reg o).toNat v) ∧
      (∀ f ∈ fs, f.acc = .rw → bits (t.reg o).toNat f.hi f.lo = bits v f.hi f.lo) ∧
      t = { s with regs := t.regs, power := t.power } ∧ RegsIn [o / 0x1000 * 0x1000] s t := by
  obtain ⟨i, hp, hw⟩ := writeReg_plain h p v time hl
  have hafter := powered_afterWrite (s' := s.setReg o
    (BitVec.ofNat 32 (wordAfter fs (pageLocked s (o / 0x1000 * 0x1000)) (s.reg o).toNat v))) h hp
  obtain rfl := fields_of_plainAt h
  refine ⟨_, hw, ?_⟩
  have hframe := (Powered.setReg s _ (P := InPage (o / 0x1000 * 0x1000)) (inPage_self o)).trans (hafter.mono fun _ hx => hx.1)
  have hfield (hb : b ≠ .sns ∨ o % 0x1000 = 0x58) {f : Fld} (hf : f ∈ fieldsAt b (o % 0x1000)) := by
    have hreg := (hafter.2 o fun hx => hx.2 hb rfl).trans (reg_setReg_self ..)
    exact (congrArg (fun x : W32 => bits x.toNat f.hi f.lo) hreg).trans (bits_wordAfter hf _ _ _)
  refine ⟨fun hb f hf => hfield (.inl hb) hf, fun f hf hrw => ?_, hframe.1, fun x hx => hframe.2 x ?_⟩
  · have hb : b ≠ .sns ∨ o % 0x1000 = 0x58 := by
      by_cases hb : b = .sns
      · subst hb; exact .inr (sns_rw_plain h hf hrw)
      · exact .inl hb
    exact (hfield hb hf).trans (by simp only [fieldAfter, hrw])
  · exact hx _ (List.mem_singleton_self _)

/-- A plain register is none of those whose write resets the package or waits for its session's commands. -/
theorem plain_ne_command {s : State} {o : Nat} {b : Block} {fs : List Fld} (h : PlainAt s o b fs) :
    o ≠ Page.pkg + 0x5C ∧ o ≠ Page.se + 0x40 := by
  obtain ⟨i, hp, -, -, haction, -⟩ := h
  have hact := haction 0 0
  constructor
  · rintro rfl
    obtain ⟨rfl, rfl⟩ : Block.pkg = b ∧ 0 = i := by simpa [pageAt, Page.pkg] using hp
    cases hact
  · rintro rfl
    obtain ⟨rfl, rfl⟩ : Block.se = b ∧ 0 = i := by simpa [pageAt, Page.se] using hp
    cases hact

theorem resets_of_ne {o : Nat} (h : o ≠ Page.pkg + 0x5C) (v : Nat) : resets o v = false := by
  simp [resets, h]

/-- A write that neither resets the package nor submits a problem is the write of its register. -/
theorem execRegisterWrite_eq {s : State} {off : BitVec 24} {v : W32} (h : RegHdr) (hr : resets off.toNat v.toNat = false)
    (hs : off.toNat ≠ Page.se + 0x40) : execRegisterWrite h off v s =
      regCommand s h off.toNat fun s => writeReg s h.path off.toNat v.toNat h.time.toNat := by
  unfold execRegisterWrite
  rw [hr, beq_eq_false_iff_ne.2 hs]
  rfl

end Sys2Proof.Proofs
end

section
/-! PROOFS. Register messages and refused writes (02_register_pages.md R54 to R56, Table 2.12). -/

namespace Sys2Proof.Proofs

open Sys2Proof Sys2Proof.Machine Sys2Proof.Laws

/-! ## A register message (R56) -/

/-- A message that is not turned away, well sized and whole: its accesses and the reply. -/
theorem execRegisterRequest_eq {s t : State} {h : RegHdr} {q : RegReq} {o : Nat} {d : List Nat} (hup : pathUp s h.path = true)
    (hadm : spAdmits s h.path = true) (hsub : writesSubmit q = false) (hsize : requestWellSized q = true)
    (ha : access s h.path q.write q.off.toNat (q.burst.toNat + 1) (q.data.map BitVec.toNat) h.time.toNat =
      ⟨t, (RegStatus.ok, o), d, none⟩) (hp : t.pending = s.pending) (hq : t.assign = s.assign) :
    execRegisterRequest h q s = .next (regReply t h RegStatus.ok o d) := by
  unfold execRegisterRequest requestAccess endAccess
  simp only [hup, hadm, hsub, hsize, ha, Bool.not_true, Bool.false_and, Bool.or_self, Bool.false_eq_true, ↓reduceIte]
  exact effect_regReply rfl hp hq

theorem access_aligned {s : State} {p : RegPath} {o n : Nat} (write : Bool) (data : List Nat) (time : Nat) (ho : o % 4 = 0) (hn : 0 < n)
    (hn' : n ≤ 16) (hpage : o % 0x1000 + 4 * n ≤ 0x1000) (hm : mapped s o = true) : access s p write o n data time =
      if write then burstWrite p time data o s (RegStatus.ok, 0) else burstRead p n o s (RegStatus.ok, 0) [] := by
  unfold access
  have hrange : ¬ (n = 0 ∨ 16 < n ∨ 0x1000 < o % 0x1000 + 4 * n) := by omega
  simp only [ho, hm, hrange, ne_eq, not_true_eq_false, Bool.not_true, Bool.false_eq_true, ↓reduceIte]

/-- A burst of permitted reads that change nothing returns the values in order. -/
theorem burstRead_permitted {s : State} {p : RegPath} (n : Nat) (o : Nat) (acc : List Nat)
    (h : ∀ i, i < n → readRefusal s p (o + 4 * i) = none ∧ (readReg s (o + 4 * i)).1 = s) :
    burstRead p n o s (RegStatus.ok, 0) acc =
      ⟨s, (RegStatus.ok, 0), acc.reverse ++ (List.range n).map fun i => (readReg s (o + 4 * i)).2, none⟩ := by
  induction n generalizing o acc with
  | zero => simp [burstRead]
  | succ n ih =>
    obtain ⟨hperm, hstate⟩ := h 0 (by omega)
    have hplace (i : Nat) : o + 4 * (i + 1) = o + 4 + 4 * i := by omega
    have hread : accessRead s p o = (s, RegStatus.ok, (readReg s o).2) := by
      simp only [Nat.mul_zero, Nat.add_zero] at hperm hstate
      simp only [accessRead, hperm, hstate]
    have hrest := ih (o + 4) ((readReg s o).2 :: acc) fun i hi => hplace i ▸ h (i + 1) (by omega)
    unfold burstRead
    simp only [hread, firstBad, ne_eq, not_true_eq_false, and_false, ↓reduceIte, hrest, List.range_succ_eq_map, List.map_cons,
      List.map_map, List.reverse_cons, List.append_assoc, List.singleton_append, Nat.mul_zero, Nat.add_zero]
    simp only [Function.comp_def, Nat.succ_eq_add_one, hplace]

/-- A burst of one accepted write is that write. -/
theorem burstWrite_single {s t : State} {p : RegPath} {o v time : Nat} (hc : writeCheck s p o = none) (hr : resets o v = false)
    (hw : writeReg s p o v time = (t, RegStatus.ok)) :
    burstWrite p time [v] o s (RegStatus.ok, 0) = ⟨t, (RegStatus.ok, 0), [], none⟩ := by
  simp only [burstWrite, resetsNow, hr, accessWrite, hc, hw, Bool.false_and, Bool.false_eq_true, ↓reduceIte, firstBad, ne_eq,
    not_true_eq_false, and_false]

/-! ## Refused writes (R54, R55, Table 2.12) -/

/-- Recording an event of an error bit writes PAGE_ERR and PAGE_EVT of its page and the log's pages. -/
theorem noted_noteEv_of {P : Nat → Prop} (hl : HoldsLog P) (s : State) (b : Nat) (e : Ev) (hErr : P (e.page + 0x18))
    (hEvt : P (e.page + 0x20)) : Noted P s (noteEv s b e) := by
  unfold noteEv
  simp only
  split
  · exact (noted_noteBit hl s b e hErr hEvt).trans (noted_noteBit hl _ 0 _ hErr hEvt)
  · exact noted_noteBit hl s b e hErr hEvt

/-- A device event writes the log's pages only. -/
theorem noted_noteDevice_of {P : Nat → Prop} (hl : HoldsLog P) (s : State) (code : Nat) {sev : Nat} (e : Ev) (h : sev < 5) :
    Noted P s (noteDevice s code sev e) :=
  ((noted_scRecord hl _ _ _ _ h).trans (noted_smbAlert hl _ _ _)).trans (noted_sendEvent hl _ _ _ _)

/-- What a refused write of a register writes: the error and event registers of its page, and the log's pages. -/
def RefusalRegs (o x : Nat) : Prop :=
  x = o / 0x1000 * 0x1000 + 0x18 ∨ x = o / 0x1000 * 0x1000 + 0x20 ∨ InPage Page.sc x ∨ InPage Page.sb x

theorem holdsLog_refusalRegs (o : Nat) : HoldsLog (RefusalRegs o) :=
  ⟨fun _ _ _ => .inr (.inr (.inl ⟨by omega, by omega⟩)), fun _ _ _ => .inr (.inr (.inr ⟨by omega, by omega⟩))⟩

theorem noted_applyRefusal (s : State) (p : RegPath) (o : Nat) (r : Nat × Nat) : Noted (RefusalRegs o) s (applyRefusal s p o r) := by
  unfold applyRefusal refuseWrite
  split
  · exact .refl _ _
  · split
    · exact noted_noteDevice_of (holdsLog_refusalRegs o) _ _ _ (by omega)
    · exact noted_noteEv_of (holdsLog_refusalRegs o) _ _ _ (.inl rfl) (.inr (.inl rfl))

/-- A refused write leaves every block register outside the log's pages. -/
theorem reg_applyRefusal (s : State) (p : RegPath) (o : Nat) (r : Nat × Nat) (ho : 64 ≤ o % 0x1000) :
    (applyRefusal s p o r).reg o = s.reg o ∨ pageAt o = some (.sc, 0) ∨ pageAt o = some (.sb, 0) := by
  by_cases hsc : InPage Page.sc o
  · exact .inr (.inl (pageAt_sc hsc))
  by_cases hsb : InPage Page.sb o
  · exact .inr (.inr (pageAt_sb hsb))
  refine .inl ((noted_applyRefusal s p o r).2 o ?_)
  rintro (h | h | h | h)
  · omega
  · omega
  · exact hsc h
  · exact hsb h

theorem courtRefusal_bit {s : State} {b : Block} {page n st e : Nat} (h : courtRefusal s b page n = some (st, e)) :
    (st, e) = (RegStatus.denied, Err.accessDenied) ∨ (st, e) = (RegStatus.court, Err.courtViolation) := by
  unfold courtRefusal at h
  split at h
  · split at h
    · split at h
      · cases h
      · exact .inr (Option.some.inj h).symm
    · exact .inl (Option.some.inj h).symm
  · exact .inl (Option.some.inj h).symm

/-- A write without permission is DENIED or COURT, each with its error bit, or goes to no page. -/
theorem writeRefusal_bit {s : State} {p : RegPath} {o st e : Nat} (h : writeRefusal s p o = some (st, e)) :
    (st, e) = (RegStatus.unmapped, 0) ∨ (st, e) = (RegStatus.denied, Err.accessDenied) ∨ (st, e) = (RegStatus.court, Err.courtViolation) := by
  have deny (h : some (RegStatus.denied, Err.accessDenied) = some (st, e)) :
      (st, e) = (RegStatus.unmapped, 0) ∨ (st, e) = (RegStatus.denied, Err.accessDenied) ∨
        (st, e) = (RegStatus.court, Err.courtViolation) := .inr (.inl (Option.some.inj h).symm)
  unfold writeRefusal at h
  split at h
  · exact .inl (Option.some.inj h).symm
  · simp only at h
    split at h
    · exact deny h
    · split at h
      · split at h
        · exact deny h
        · cases h
      · split at h
        · rename_i r hr
          obtain rfl := Option.some.inj h
          exact .inr (courtRefusal_bit hr)
        · split at h
          · split at h
            · exact deny h
            · cases h
          · split at h
            · cases h
            · exact deny h
      · split at h
        · cases h
        · exact deny h
      · cases h

theorem writeCheck_bit {s : State} {p : RegPath} {o st e : Nat} (h : writeCheck s p o = some (st, e)) :
    (st = RegStatus.denied → e = Err.accessDenied) ∧ (st = RegStatus.court → e = Err.courtViolation) := by
  unfold writeCheck at h
  split at h
  · cases h; decide
  · split at h
    · cases h; decide
    · split at h
      · rename_i hr
        obtain rfl := Option.some.inj h
        rcases writeRefusal_bit hr with h | h | h <;> cases h <;> decide
      · split at h
        · cases h; decide
        · cases h

/-- A refusal with a status of its own register sets its bit. -/
theorem errSet_applyRefusal (s : State) (p : RegPath) (o : Nat) {st e : Nat} (h1 : st ≠ RegStatus.misaligned)
    (h2 : st ≠ RegStatus.unmapped) (he : e < 32) : errSet (applyRefusal s p o (st, e)) (o / 0x1000 * 0x1000) e = true := by
  have hset := errSet_noteEv s e { page := o / 0x1000 * 0x1000, court := pageCourt s (o / 0x1000 * 0x1000) } e he
    (Nat.mul_mod_left ..)
  simp only [applyRefusal, refuseWrite, if_neg h1, if_neg h2]
  exact hset.trans (by simp)

theorem regCommand_of_refused {s : State} {h : RegHdr} {o st e : Nat} (body : State → State × Nat) (hup : pathUp s h.path = true)
    (hadm : spAdmits s h.path = true) (hc : writeCheck s h.path o = some (st, e)) :
    regCommand s h o body = .next (regReply (applyRefusal s h.path o (st, e)) h st o []) := by
  have hn := noted_applyRefusal s h.path o (st, e)
  unfold regCommand regRefused
  simp only [hup, hadm, hc, Bool.not_true, Bool.false_eq_true, ↓reduceIte]
  exact effect_regReply rfl hn.pending hn.assign

end Sys2Proof.Proofs
end

section
/-! PROOFS. The single-field writes and the register commands as a whole (02_register_pages.md R47, R48, R51; 17_scorecard_and_counters.md R419;
20_package_and_pins.md R484). -/

namespace Sys2Proof.Proofs

open Sys2Proof Sys2Proof.Machine Sys2Proof.Laws

/-! ## Page control (R47, R48) -/

theorem bit_eq_bits (n b : Nat) : bit n b = (bits n b b == 1) := by
  simp [bit, bits]

/-- A bit of PAGE_CTL put is that bit of the register patched. -/
theorem setCtl_eq_patch (s : State) (page b : Nat) (v : Bool) :
    setCtl s page b v = s.setReg (page + 0x10) (BitVec.ofNat 32 (patch (s.reg (page + 0x10)).toNat b b v.toNat)) := by
  have hold (n : Nat) : (if bit n b then 2 ^ b else 0) = bits n b b * 2 ^ b := by
    have hlt : bits n b b < 2 := by simpa using bits_lt n b b
    rw [bit_eq_bits]
    rcases (show bits n b b = 0 ∨ bits n b b = 1 by omega) with h | h <;> simp [h]
  have hnew : (if v then 2 ^ b else 0) = v.toNat % 2 ^ (b + 1 - b) * 2 ^ b := by cases v <;> simp
  simp only [setCtl, patch, hold, hnew]

theorem bit_setCtl_self (s : State) (page : Nat) {b : Nat} (v : Bool) (hb : b < 32) :
    bit ((setCtl s page b v).reg (page + 0x10)).toNat b = v := by
  rw [setCtl_eq_patch, reg_setReg_self, BitVec.toNat_ofNat, Nat.mod_eq_of_lt (patch_lt _ _ _ _ _ (Nat.le_refl b) hb (BitVec.isLt _)),
    bit_eq_bits, bits_patch_self _ _ _ _ (Nat.le_refl b)]
  cases v <;> simp

theorem bit_setCtl_of_bit (s : State) (page q : Nat) {b : Nat} {v : Bool} (hb : b < 32) (h : bit (s.reg (q + 0x10)).toNat b = v) :
    bit ((setCtl s page b v).reg (q + 0x10)).toNat b = v := by
  by_cases hq : q = page
  · subst hq; exact bit_setCtl_self s q v hb
  · rw [setCtl_eq_patch, reg_setReg_ne _ _ (by omega), h]

/-- A bit of PAGE_CTL put on every page of a list stands on each of them. -/
theorem bit_setCtl_forEach (ps : List Nat) (s : State) {b : Nat} (v : Bool) (hb : b < 32) {q : Nat}
    (hq : q ∈ ps ∨ bit (s.reg (q + 0x10)).toNat b = v) :
    bit ((forEach ps s fun s p => setCtl s p b v).reg (q + 0x10)).toNat b = v := by
  induction ps generalizing s with
  | nil => exact hq.resolve_left (List.not_mem_nil)
  | cons p ps ih =>
    refine ih (setCtl s p b v) ?_
    rcases hq with hq | hq
    · rcases List.mem_cons.1 hq with rfl | hq
      · exact .inr (bit_setCtl_self s q v hb)
      · exact .inl hq
    · exact .inr (bit_setCtl_of_bit s p q hb hq)

theorem regsOnly_forEach {α : Type} (xs : List α) (s : State) (f : State → α → State) (h : ∀ s a, RegsOnly s (f s a)) :
    RegsOnly s (forEach xs s f) := by
  induction xs generalizing s with
  | nil => rfl
  | cons a xs ih => exact (h s a).trans (ih (f s a))

/-- Stopping a region touches its programs only. -/
theorem settleStop_frame (s : State) (page : Nat) : settleStop s page = { s with regions := (settleStop s page).regions } := by
  unfold settleStop
  split
  · split <;> rfl
  · rfl

/-- A bit of PAGE_CTL written to a page in service stands on every page it acts on, and nothing else differs but the programs of a
region that stops. -/
theorem setCtlAll_spec (s : State) (page : Nat) {b : Nat} (v : Bool) (hb : b < 32) (hr : s.pageRetired page = false) :
    setCtlAll s page b v = { s with regs := (setCtlAll s page b v).regs, regions := (setCtlAll s page b v).regions } ∧
      RegsIn (ctlPages page) s (setCtlAll s page b v) ∧
      ∀ q ∈ ctlPages page, bit ((setCtlAll s page b v).reg (q + 0x10)).toNat b = v := by
  have hstop := settleStop_frame (forEach (ctlPages page) s fun s p => setCtl s p b v) page
  have hregs : (settleStop (forEach (ctlPages page) s fun s p => setCtl s p b v) page).regs =
      (forEach (ctlPages page) s fun s p => setCtl s p b v).regs := by rw [hstop]
  have hset : RegsOnly s (forEach (ctlPages page) s fun s p => setCtl s p b v) := regsOnly_forEach _ _ _ fun _ _ => rfl
  have hnoted : Noted (fun o => ∃ q ∈ ctlPages page, InPage q o) s (forEach (ctlPages page) s fun s p => setCtl s p b v) :=
    Noted.forEach _ _ _ fun s q hq => Noted.setReg s _ _ ⟨q, hq, by omega, by omega⟩
  have hall : setCtlAll s page b v = settleStop (forEach (ctlPages page) s fun s p => setCtl s p b v) page := by
    simp only [setCtlAll, hr, Bool.false_eq_true, ↓reduceIte]
  rw [hall]
  refine ⟨hstop.trans ?_, fun o ho => ?_, fun q hq => ?_⟩
  · rw [hregs, hset]
  · rw [reg_congr hregs]
    exact hnoted.2 o fun ⟨q, hq, hin⟩ => ho q hq hin
  · rw [reg_congr hregs]
    exact bit_setCtl_forEach _ _ v hb (.inl hq)

/-! ## Locks, counter selections and SMBALERT (R51, R419, R484) -/

theorem pageLock_spec (s : State) (page : Nat) (service : Bool) :
    pageLock s page service = { s with regs := (pageLock s page service).regs } ∧ pageLocked (pageLock s page service) page = true ∧
      (pageLocked s page = true → (pageLock s page service).reg (page + 0x24) = s.reg (page + 0x24)) ∧
      ∀ o, o ≠ page + 0x24 → (pageLock s page service).reg o = s.reg o := by
  unfold pageLock
  split
  · rename_i h
    exact ⟨rfl, h, fun _ => rfl, fun _ _ => rfl⟩
  · rename_i h
    refine ⟨rfl, ?_, fun hl => absurd hl h, fun o ho => reg_setReg_ne _ _ ho⟩
    unfold pageLocked
    rw [reg_setReg_self]
    cases service <;> rfl

/-- A selection takes the value written but for its reserved bit 16; where it changes, its counter starts at 0. -/
theorem setPcntSel_spec (s : State) (page : Nat) {k v sel cnt : Nat} (hsel : sel = page + 0x100 + 4 * k) (hcnt : cnt = page + 0x140 + 8 * k)
    (hk : k < 8) (hv : v < 2 ^ 32) :
    setPcntSel s page k v = { s with regs := (setPcntSel s page k v).regs } ∧
      ((setPcntSel s page k v).reg sel).toNat = v - bits v 16 16 * 2 ^ 16 ∧
      (setPcntSel s page k v).reg64 cnt = (if (setPcntSel s page k v).reg sel = s.reg sel then s.reg64 cnt else 0) ∧
      ∀ o, o ≠ sel → o ≠ cnt → o ≠ cnt + 4 → (setPcntSel s page k v).reg o = s.reg o := by
  have hlt : v - bits v 16 16 * 2 ^ 16 < 2 ^ 32 := by omega
  unfold setPcntSel
  simp only [← hsel, ← hcnt]
  split
  · rename_i hsame
    exact ⟨rfl, hsame, (if_pos rfl).symm, fun _ _ _ _ => rfl⟩
  · rename_i hdiff
    have hread : (((s.setReg sel (BitVec.ofNat 32 (v - bits v 16 16 * 2 ^ 16))).setReg64 cnt 0).reg sel) =
        BitVec.ofNat 32 (v - bits v 16 16 * 2 ^ 16) := by
      rw [State.setReg64, reg_setReg_ne _ _ (by omega), reg_setReg_ne _ _ (by omega), reg_setReg_self]
    have hnew : BitVec.ofNat 32 (v - bits v 16 16 * 2 ^ 16) ≠ s.reg sel := fun h => hdiff (by
      rw [← h, BitVec.toNat_ofNat, Nat.mod_eq_of_lt hlt])
    rw [hread, if_neg hnew, BitVec.toNat_ofNat, Nat.mod_eq_of_lt hlt]
    refine ⟨rfl, rfl, ?_, fun o h1 h2 h3 => ?_⟩
    · rw [State.reg64, State.setReg64, reg_setReg_self, reg_setReg_ne _ _ (by omega), reg_setReg_self]
      rfl
    · rw [State.setReg64, reg_setReg_ne _ _ h3, reg_setReg_ne _ _ h2, reg_setReg_ne _ _ h1]

theorem smbAlertClear_spec (s : State) :
    smbAlertAsserted (s.setFld Page.sb F.SB_ALERT_active 0) = false ∧
      (s.setFld Page.sb F.SB_ALERT_active 0).fld Page.sb F.SB_ALERT_code = s.fld Page.sb F.SB_ALERT_code ∧
      ∀ o, o ≠ Page.sb + 0x48 → (s.setFld Page.sb F.SB_ALERT_active 0).reg o = s.reg o := by
  refine ⟨?_, ?_, fun o ho => reg_setFld_ne _ _ _ _ _ _ ho⟩
  · rw [smbAlertAsserted, fld_setFld_self _ _ _ _ _ (by decide) (by decide)]
    rfl
  · exact fld_setFld_other _ _ _ _ _ _ _ _ (by decide) (by decide) (by decide) (.inl (by decide)) rfl

/-! ## The commands -/

/-- An accepted write of a plain register (R44, R57), and the same write as a message of one register (R56). -/
theorem exec_registerWrite_plain {h : RegHdr} {off : BitVec 24} {v : W32} {s : State} {b : Block} {fs : List Fld}
    (ha : Accepted s h off.toNat) (hp : PlainAt s off.toNat b fs)
    (hl : lockHit fs (pageLocked s (off.toNat / 0x1000 * 0x1000)) (s.reg off.toNat).toNat v.toNat = false) :
    ∃ t, exec (.registerWrite h off v) s = .next (regReply t h RegStatus.ok off.toNat []) ∧
      (b ≠ .sns → ∀ f ∈ fs, bits (t.reg off.toNat).toNat f.hi f.lo =
        fieldAfter f (pageLocked s (off.toNat / 0x1000 * 0x1000)) (s.reg off.toNat).toNat v.toNat) ∧
      (∀ f ∈ fs, f.acc = .rw → bits (t.reg off.toNat).toNat f.hi f.lo = bits v.toNat f.hi f.lo) ∧
      t = { s with regs := t.regs, power := t.power } ∧ RegsIn [off.toNat / 0x1000 * 0x1000] s t ∧
      ((∃ d, h.path = .host d none) → spAdmits s h.path = true →
        exec (.registerRequest h ⟨true, off, 0#4, [v]⟩) s = exec (.registerWrite h off v) s) := by
  obtain ⟨hreset, hsubmit⟩ := plain_ne_command hp
  obtain ⟨hup, hadm, hcheck⟩ := (accepted_iff ..).1 ha
  obtain ⟨halign, hmapped⟩ := writeCheck_none hcheck
  obtain ⟨t, hw, hfields, hrw, hframe, hregs⟩ := writeReg_plain_spec hp h.path v.toNat h.time.toNat hl
  have hpend : t.pending = s.pending := by rw [hframe]
  have hassign : t.assign = s.assign := by rw [hframe]
  have hwrite : execRegisterWrite h off v s = .next (regReply t h RegStatus.ok off.toNat []) :=
    (execRegisterWrite_eq h (resets_of_ne hreset _) hsubmit).trans (regCommand_of_accepted ha hw hpend hassign)
  refine ⟨t, hwrite, hfields, hrw, hframe, hregs, fun _ _ => ?_⟩
  have hmsg : access s h.path true off.toNat 1 [v.toNat] h.time.toNat = ⟨t, (RegStatus.ok, 0), [], none⟩ :=
    (access_aligned true _ _ halign (by omega) (by omega) (by omega) hmapped).trans
      (burstWrite_single hcheck (resets_of_ne hreset _) hw)
  have hnosubmit : writesSubmit ⟨true, off, 0#4, [v]⟩ = false := by
    simp only [writesSubmit, BitVec.toNat_ofNat, Bool.true_and, Bool.and_eq_false_iff, decide_eq_false_iff_not]
    omega
  calc execRegisterRequest h ⟨true, off, 0#4, [v]⟩ s
      = .next (regReply t h RegStatus.ok 0 []) := execRegisterRequest_eq hup hadm hnosubmit rfl hmsg hpend hassign
    _ = execRegisterWrite h off v s := by rw [hwrite, regReply_ok t h 0 off.toNat]

/-- A refused write answers its status, leaves the register, and sets the bit its status names (R54, R55). -/
theorem exec_registerWrite_refused {h : RegHdr} {off : BitVec 24} {v : W32} {s : State} {st e : Nat} (hup : pathUp s h.path = true)
    (hadm : spAdmits s h.path = true) (hcheck : writeCheck s h.path off.toNat = some (st, e))
    (hreset : resets off.toNat v.toNat = false) (hsubmit : off.toNat ≠ Page.se + 0x40) :
    ∃ t, exec (.registerWrite h off v) s = .next (regReply t h st off.toNat []) ∧
      (64 ≤ off.toNat % 0x1000 → t.reg off.toNat = s.reg off.toNat ∨ pageAt off.toNat = some (.sc, 0) ∨ pageAt off.toNat = some (.sb, 0)) ∧
      t.mem = s.mem ∧ t.regions = s.regions ∧ t.clusters = s.clusters ∧
      (st = RegStatus.denied → errSet t (off.toNat / 0x1000 * 0x1000) Err.accessDenied = true) ∧
      (st = RegStatus.court → errSet t (off.toNat / 0x1000 * 0x1000) Err.courtViolation = true) := by
  have hn := noted_applyRefusal s h.path off.toNat (st, e)
  obtain ⟨hdenied, hcourt⟩ := writeCheck_bit hcheck
  refine ⟨_, (execRegisterWrite_eq h hreset hsubmit).trans (regCommand_of_refused _ hup hadm hcheck), reg_applyRefusal _ _ _ _,
    hn.mem, hn.regions, hn.clusters, fun hst => ?_, fun hst => ?_⟩
  · obtain rfl := hdenied hst
    subst hst
    exact errSet_applyRefusal _ _ _ (by decide) (by decide) (by decide)
  · obtain rfl := hcourt hst
    subst hst
    exact errSet_applyRefusal _ _ _ (by decide) (by decide) (by decide)

/-- A burst of permitted reads within a page returns the values in order (R56). -/
theorem exec_registerRequest_reads {h : RegHdr} {off : BitVec 24} {burst : BitVec 4} {s : State} (hup : pathUp s h.path = true)
    (hadm : spAdmits s h.path = true) (halign : off.toNat % 4 = 0) (hpage : off.toNat % 0x1000 + 4 * (burst.toNat + 1) ≤ 0x1000)
    (hmapped : mapped s off.toNat = true)
    (hreads : ∀ i, i < burst.toNat + 1 →
      readRefusal s h.path (off.toNat + 4 * i) = none ∧ (readReg s (off.toNat + 4 * i)).1 = s) :
    exec (.registerRequest h ⟨false, off, burst, []⟩) s =
      .next (regReply s h RegStatus.ok 0 ((List.range (burst.toNat + 1)).map fun i => (readReg s (off.toNat + 4 * i)).2)) :=
  execRegisterRequest_eq hup hadm rfl rfl
    ((access_aligned false _ _ halign (by omega) (by omega) hpage hmapped).trans (burstRead_permitted _ _ [] hreads)) rfl rfl

/-- An accepted write of one bit of PAGE_CTL to a page in service (R47, R48). -/
theorem regCommand_setCtlAll {h : RegHdr} {s : State} {p b : Nat} (v : Bool) (ha : Accepted s h (p + 0x10))
    (hr : s.pageRetired p = false) (hb : b < 32) :
    ∃ t, regCommand s h (p + 0x10) (fun s => (setCtlAll s p b v, RegStatus.ok)) = .next (regReply t h RegStatus.ok (p + 0x10) []) ∧
      t = { s with regs := t.regs, regions := t.regions } ∧ RegsIn (ctlPages p) s t ∧
      ∀ q ∈ ctlPages p, bit (t.reg (q + 0x10)).toNat b = v := by
  obtain ⟨hframe, hregs, hbit⟩ := setCtlAll_spec s p v hb hr
  exact ⟨_, regCommand_of_accepted ha rfl (by rw [hframe]) (by rw [hframe]), hframe, hregs, hbit⟩

theorem exec_pageLockSet {h : RegHdr} {page : BitVec 12} {s : State} (ha : Accepted s h (pageOf page + 0x24)) :
    ∃ t, exec (.pageLockSet h page) s = .next (regReply t h RegStatus.ok (pageOf page + 0x24) []) ∧ t = { s with regs := t.regs } ∧
      pageLocked t (pageOf page) = true ∧
      (pageLocked s (pageOf page) = true → t.reg (pageOf page + 0x24) = s.reg (pageOf page + 0x24)) ∧
      ∀ o, o ≠ pageOf page + 0x24 → t.reg o = s.reg o := by
  have hspec := pageLock_spec s (pageOf page) (viaService h.path)
  have hcmd := regCommand_of_accepted (body := fun s => (pageLock s (pageOf page) (viaService h.path), RegStatus.ok)) ha rfl
    (by rw [hspec.1]) (by rw [hspec.1])
  exact ⟨_, hcmd, hspec⟩

theorem exec_pcntSelWrite {h : RegHdr} {page : BitVec 24} {k : BitVec 3} {v : W32} {s : State} {p sel cnt : Nat} {b : Block} {i : Nat}
    (hpage : p = page.toNat / 0x1000 * 0x1000) (hsel : sel = p + 0x100 + 4 * k.toNat) (hcnt : cnt = p + 0x140 + 8 * k.toNat)
    (ha : Accepted s h sel) (hp : pageAt p = some (b, i)) (hb : b.hasCounters = true) :
    ∃ t, exec (.pcntSelWrite h page k v) s = .next (regReply t h RegStatus.ok sel []) ∧ t = { s with regs := t.regs } ∧
      (t.reg sel).toNat = v.toNat - bits v.toNat 16 16 * 2 ^ 16 ∧
      t.reg64 cnt = (if t.reg sel = s.reg sel then s.reg64 cnt else 0) ∧
      ∀ o, o ≠ sel → o ≠ cnt → o ≠ cnt + 4 → t.reg o = s.reg o := by
  have hspec := setPcntSel_spec s p hsel hcnt k.isLt v.isLt
  refine ⟨_, ?_, hspec⟩
  show execPcntSelWrite h page k v s = _
  unfold execPcntSelWrite
  simp only [← hpage, ← hsel]
  exact regCommand_of_accepted ha (by simp only [hp, hb, ↓reduceIte]) (by rw [hspec.1]) (by rw [hspec.1])

theorem exec_sbAlertClear {h : RegHdr} {s : State} (ha : Accepted s h (Page.sb + 0x48)) :
    ∃ t, exec (.sbAlertClear h) s = .next (regReply t h RegStatus.ok (Page.sb + 0x48) []) ∧ t = { s with regs := t.regs } ∧
      smbAlertAsserted t = false ∧ t.fld Page.sb F.SB_ALERT_code = s.fld Page.sb F.SB_ALERT_code ∧
      ∀ o, o ≠ Page.sb + 0x48 → t.reg o = s.reg o := by
  have hcmd := regCommand_of_accepted (body := fun s => (s.setFld Page.sb F.SB_ALERT_active 0, RegStatus.ok)) ha rfl rfl rfl
  exact ⟨_, hcmd, rfl, smbAlertClear_spec s⟩

/-- Settles O36: a plain write through the table of fields with their bits apart, a refused one through what a refusal may write, a
burst of reads by induction on its length, and the single-field writes by what each puts. -/
theorem registerAccesses : Obligations.RegisterAccesses := by
  unfold Obligations.RegisterAccesses
  refine ⟨?_, ?_, ?_, ?_, ?_, ?_, fun h s ha => ?_⟩
  · rintro h off v s b fs o rfl ha hp hl
    exact exec_registerWrite_plain ha hp hl
  · rintro h off v s o st e rfl hup hadm hcheck hreset hsubmit
    exact exec_registerWrite_refused hup hadm hcheck hreset hsubmit
  · rintro h off burst s o n rfl rfl hup hadm halign hpage hmapped hreads
    exact exec_registerRequest_reads hup hadm halign hpage hmapped hreads
  · rintro h page v s p rfl ha hr
    exact ⟨regCommand_setCtlAll v ha hr (by omega), regCommand_setCtlAll v ha hr (by omega)⟩
  · rintro h page s p rfl ha
    exact exec_pageLockSet ha
  · intro h page k v s p sel cnt b i hpage hsel hcnt ha hp hb
    exact exec_pcntSelWrite hpage hsel hcnt ha hp hb
  · exact exec_sbAlertClear ha

end Sys2Proof.Proofs
end
